-- ==== Sys2Proof/Word.lean ====
section
/-!
DEFINITION. The word types of the Z2: bytes, the 32-bit register word, and plain sparse maps.
Bits are numbered from 0 at the least significant end (R7).
-/
namespace Sys2Proof

/-- One byte. -/
abbrev Byte := BitVec 8

/-- A 16-bit field: fabric addresses, BF16 codes, scores of format codes. -/
abbrev Half := BitVec 16

/-- A register, a ledger entry, an FP32 code (R11, R165, R491). -/
abbrev Word := BitVec 32

/-- A 64-bit field: HBM, vault and host addresses, seeds, timestamps. -/
abbrev Word64 := BitVec 64

/-- A byte string, the byte of offset 0 first (R8). -/
abbrev Bytes := List Byte

/-- A sparse table: key and value pairs with rising keys; a key that is not listed has the table's default. -/
abbrev Table (α : Type) := List (Nat × α)

/-- An exact binary value m × 2^e: every finite element, product and sum of the manual's formats is one (R13, R112). -/
structure Dy where
  m : Int
  e : Int
  deriving DecidableEq, Repr

end Sys2Proof
end

