-- ==== Sys2Proof/Syntax.lean ====
section
/-!
DEFINITION. The commands of the block: one constructor of `Instr` for each row of spec/opcode_table.json, in the
table's order. The table gives no operands; those here are what the row's rule needs from outside the block
(assumption log 4).
-/
namespace Sys2Proof

/-- A ring number (R68). -/
abbrev RingNo := Fin 8192
/-- A device core number (R16). -/
abbrev CoreNo := Fin 4096
/-- A device hall number (R16). -/
abbrev HallNo := Fin 256
/-- A gallery number (R15). -/
abbrev GalleryNo := Fin 2
/-- A partition number (R364). -/
abbrev PartNo := Fin 8
/-- A fabric link number (R313). -/
abbrev LinkNo := Fin 64
/-- An optical port number (R341). -/
abbrev PortNo := Fin 16
/-- A UCIe module number (R392). -/
abbrev ModuleNo := Fin 4
/-- A sequence slot number (R299). -/
abbrev SeqNo := Fin 2048

/-- The windows that CXL.io carries writes to beside the doorbells (Tables 14-3 and 14-4). -/
inductive HostWindow where
  /-- The register window. -/
  | bar0
  /-- The MSI-X table and the pending-bit array. -/
  | bar4
  /-- The message control word of the MSI-X capability, in configuration space. -/
  | msixControl
  deriving DecidableEq, Repr

/-- The trip causes of R429 (PWR_TRIP codes 0x01 to 0x07). -/
inductive TripCause where
  | gallery0Temp | gallery1Temp | mintTemp | hbmTemp | vaultTemp | gallery0Volt | gallery1Volt
  deriving DecidableEq, Repr

/-- What a Boot step of Table 18-5 found; each step reads only its own fields (R483 to R485). -/
structure BootFindings where
  /-- Milliseconds since the release of RESET_N, or since the DEV_CTL write, at the end of the step (R483, R489). -/
  ms : Nat
  /-- Step 2: the PUF reconstruction succeeded (R451). -/
  pufOk : Bool
  /-- Step 3: the signature of the configuration record verified (R450). -/
  recordOk : Bool
  /-- Step 5: the outcome of slot 0's check, 0 or a reason code of Table 16-4, where the slot still holds the image with
  which the part shipped; of an image that FW_LOAD wrote, whether its signature fails (6) (R439, R447). -/
  slot0Reason : Nat
  /-- Step 5: the same of slot 1. -/
  slot1Reason : Nat
  /-- Step 5: the teller reported ready within 2 s, on one of two starts (Table 18-6, code 0x6). -/
  tellerReady : Bool
  /-- Step 9: pseudo-channels that failed training (R485). -/
  hbmFailed : List Nat
  /-- Step 11: vault channels that failed training (R485). -/
  vaultFailed : List Nat
  /-- Step 7: how often gallery 0's regulator, and gallery 1's, answers the voltage write with an error (R510). -/
  avs0 : Nat
  avs1 : Nat
  deriving DecidableEq, Repr

/-- What the device meets at a riser. -/
structure RiserFindings where
  /-- How often gallery 0's regulator, and gallery 1's, answers a voltage write of a change of V/F state with an error (R510). -/
  avs0 : Nat
  avs1 : Nat
  /-- Partitions a read of whose context area met an uncorrected error in the tread that ends (R377, R469). -/
  context : List PartNo
  deriving DecidableEq, Repr

/-- Nothing fails at the riser. -/
def RiserFindings.none : RiserFindings := { avs0 := 0, avs1 := 0, context := [] }

/-- The SecTAG of a received frame as MACsec sees it: the SCI that it carries, if any, its association number, the low 32 bits
of its packet number, and whether its ICV is right (R351). -/
structure SecTag where
  sci : Option Word64
  an : Fin 4
  pn : Word
  icvOk : Bool
  deriving DecidableEq, Repr

/-- A received Ethernet frame as the receive checks of Table 12-4 see it (R348). -/
structure EthFrame where
  /-- Length from the destination address through the FCS. -/
  length : Nat
  /-- The FCS is correct and no codeword was uncorrected. -/
  fcsOk : Bool
  /-- The destination is the link's address or one of the two group addresses of step 4. -/
  destOk : Bool
  etherType : Half
  /-- MAC Control opcode, for EtherType 0x8808 (0x0001 PAUSE, 0x0101 PFC). -/
  controlOp : Half
  /-- An 802.1ad service tag is present. -/
  serviceTag : Bool
  /-- The VID of an 802.1Q tag, when one is present. -/
  vid : Option (BitVec 12)
  /-- The source address, which a SecTAG without an SCI implies (R351). -/
  source : BitVec 48
  sec : Option SecTag
  deriving DecidableEq, Repr

/-- A Zusia frame as Table 11-3 lays out its header, with its payload (R317). -/
structure Frame where
  version : Nat
  type : Nat
  dst : Half
  src : Half
  cls : Fin 4
  stripe : Fin 8
  hops : Nat
  seq : Word
  ack : Word
  txn : Word
  operation : Word
  /-- In units of 64 bytes. -/
  offset : Word
  senderRank : Nat
  receiverRank : Nat
  payload : Bytes
  /-- The Ethernet frame in which a received one came (R348); nothing in a frame that is sent. -/
  rx : EthFrame
  deriving DecidableEq, Repr

/-- A connection: peer address, class and stripe (R319). -/
structure ConnId where
  peer : Half
  cls : Fin 4
  stripe : Fin 8
  deriving DecidableEq, Repr

/-- A host-memory access of the block that can fail (R400, R463). -/
inductive HostAccess where
  /-- The fetch of the next descriptor of a submission ring. -/
  | fetch (ring : RingNo)
  /-- The write of the oldest record not yet written of a CPL or EVENT ring, or of the control block of any ring. -/
  | write (ring : RingNo)
  /-- Any other read of host memory: the copy of a DMA tag of a hall. -/
  | read (hall : HallNo) (tag : Nat)
  deriving DecidableEq, Repr

/-- What goes wrong in a record of a program while it runs (R463, R466). -/
inductive PassFault where
  /-- Parity or residue: the pass aborts (Table 17-2, last row). -/
  | datapath
  /-- A line of HBM that the record reads cannot be corrected by any retry (R463): its address. -/
  | hbmLine (addr : Nat)
  deriving DecidableEq, Repr

/-- What goes wrong in the mint while it works on a layer (R271, R463, R465). -/
inductive MintFault where
  /-- A datapath fault of a mint engine. -/
  | engine
  /-- A vault line of the partition's share that no retry corrects (R463): its address. -/
  | vaultLine (addr : Nat)
  deriving DecidableEq, Repr

/-- What a core's array did since its pass before, in cycles that no command counts (R145 to R147; assumption log 4). -/
structure ArrayRun where
  /-- The array had ramped down and gated since that pass (R145). -/
  gap : Bool
  /-- Array cycles held, for any cause of R146. -/
  held : Nat
  /-- Ramp-ups that followed holds of more than 64 cycles (R147). -/
  ramps : Nat
  deriving DecidableEq, Repr

/-- The pass follows the one before it back to back. -/
def ArrayRun.none : ArrayRun := { gap := false, held := 0, ramps := 0 }

/-- Where a WAIT stands whose limit expires (R105). -/
inductive WaitPlace where
  /-- A TALLY descriptor at the head of this ring. -/
  | ring (r : RingNo)
  /-- A TALLY record of the program that runs on this core. -/
  | core (c : CoreNo)
  deriving DecidableEq, Repr

/-- What the budget monitor finds a rate for (R42, R270, R307). -/
inductive Moving where
  /-- A COPY, CLEAR or usher descriptor, by its work number. -/
  | work (id : Nat)
  /-- The UPDATE or STRIKE of a layer. -/
  | mint (part : PartNo) (layer : Nat)
  /-- The park or unpark copy of a sequence slot. -/
  | seq (slot : SeqNo)
  /-- No copy: a program that has stalled on a pipeline queue in this tread (R45); its bytes and rate are not read. -/
  | stall (program : Nat)
  deriving DecidableEq, Repr

/-- How far a copy has come: bytes left, and the bytes per µs at which it moves now (R42). -/
structure Progress where
  item : Moving
  left : Nat
  rate : Nat
  deriving DecidableEq, Repr

/-- One estimate of the power estimator, in W and in 1/1,000 for the shares (R416, R419). -/
structure PowerEstimate where
  dyn0 : Nat
  dyn1 : Nat
  leak0 : Nat
  leak1 : Nat
  other : Nat
  /-- Measured rail power of both galleries together, W (R429). -/
  rails : Nat
  /-- Sensor readings 0 to 91 in 1/16 degC (R430, Table 15-11), refreshed with the estimate. -/
  temps : List Half
  deriving DecidableEq, Repr

/-- Every operation and event of the block (spec/opcode_table.json, in its order). Operands named `value` are the
word written to the register that the row names. `ring` is the ring whose head descriptor the row takes. A last operand with
a default tells what the row meets beside its own event (a fault, an error, a hold), and the default is that it meets nothing
or, of REGISTER_WRITE, that the window is the register window; every value is allowed (assumption log 4). -/
inductive Instr where
  -- power, reset and Boot (18_start_up.md, 15_power_and_thermal.md, 12_optical_ports.md)
  | vauxUp
  | mainEnAssert
  | resetNRelease
  | resetNPulse
  | vauxRemoved
  | forcedShutdown
  | bootStepEnd (found : BootFindings)
  | warmReset
  | coldReset
  | orderlyShutdown
  | shutdownStepEnd
  | moduleTrip (cause : TripCause)
  | porterLightChange (port : PortNo) (lit : Bool) (us : Nat)
  -- registers (19_registers.md)
  | registerWrite (addr size : Nat) (value : Word) (window : HostWindow := .bar0)
  | harvest (addr : Nat) (value : Word)
  | bootRingsEnable (value : Word)
  | bootRingsDisable (value : Word)
  | iaSelWrite (value : Word)
  | iaDataRead
  | iaDataWrite (value : Word)
  | fabricEnable (value : Word)
  | portEnable (port : PortNo) (value : Word)
  | portDisable (port : PortNo) (value : Word)
  | secureChannelRemove (port : PortNo) (channel : Fin 16) (value : Word)
  | routeEntryCommit (address : Half) (value : Word)
  | fwKick (value : Word)
  | wakePatternSend (value : Word)
  | wakePatternEnd
  | sidebandRegisterAccess (addr : Nat) (write : Option Word)
  | msixUnmask (vector : Fin 2048)
  -- rings (03_command_rings.md, 14_host_attach.md)
  | submissionDoorbell (offset size : Nat) (index : Word)
  | consumerDoorbell (offset size : Nat) (index : Word)
  | descriptorFetched (ring : RingNo) (bytes : Bytes)
  | interruptTimeout (ring : RingNo)
  | hostAccessTimeout (access : HostAccess)
  | nop (ring : RingNo)
  | tally (ring : RingNo)
  | ringEnable (ring : RingNo)
  | ringPause (ring : RingNo)
  | ringResume (ring : RingNo)
  | ringDisable (ring : RingNo)
  | ringClear (ring : RingNo)
  -- stairwell commands and settings (02_treads_and_landings.md and the home chapters of Table 2-8)
  | stwForm (ring : RingNo) (members : List Half)
  | stwDissolve (ring : RingNo)
  | stwHalt (ring : RingNo)
  | stwResume (ring : RingNo)
  | flightPlan (ring : RingNo)
  | stwSet (ring : RingNo)
  | fwActivate (ring : RingNo)
  | pwrSet (ring : RingNo)
  | mintSet (ring : RingNo)
  | freezeSet (ring : RingNo)
  | genSet (ring : RingNo)
  | fwLoad (ring : RingNo) (image : Bytes)
  | stashSet (ring : RingNo)
  | watchSet (ring : RingNo)
  | fwQuote (ring : RingNo)
  -- partition commands (13_partitions_and_isolation.md, 11_fabric_and_collectives.md)
  | partConfig (ring : RingNo) (record : Bytes)
  | partStart (ring : RingNo)
  | partStop (ring : RingNo)
  | partPreempt (ring : RingNo)
  | partEvict (ring : RingNo)
  | partResume (ring : RingNo)
  | partRelease (ring : RingNo)
  | turnSet (ring : RingNo)
  | mapSet (ring : RingNo)
  -- work (05_matrix_array.md, 08_training_passes.md, 11_fabric_and_collectives.md, 09_mint_and_vault.md, 10)
  | program (ring : RingNo)
  | programIf (ring : RingNo)
  | copy (ring : RingNo)
  | strikeCopy (ring : RingNo)
  | reduceScatter (ring : RingNo)
  | allGather (ring : RingNo)
  | allReduce (ring : RingNo)
  | broadcast (ring : RingNo)
  | allToAll (ring : RingNo)
  | queuePush (ring : RingNo)
  | queuePop (ring : RingNo)
  | layerDef (ring : RingNo)
  | layerUndef (ring : RingNo)
  | update (ring : RingNo)
  | strike (ring : RingNo)
  | layerIo (ring : RingNo)
  | route (ring : RingNo)
  | dispatch (ring : RingNo)
  | combine (ring : RingNo)
  | embGather (ring : RingNo)
  | embSegsum (ring : RingNo)
  | evict (ring : RingNo)
  | seqJoin (ring : RingNo)
  | seqLeave (ring : RingNo)
  | seqPark (ring : RingNo)
  | seqUnpark (ring : RingNo)
  | seqPrio (ring : RingNo)
  -- tile operations of running programs: the next record of a core, or of a hall's shared unit
  | load (core : CoreNo)
  | pass (core : CoreNo) (fault : Option PassFault) (run : ArrayRun := ArrayRun.none)
  | thin (hall : HallNo)
  | tallyRecord (core : CoreNo)
  | tileNop (hall : HallNo)
  | seal (core : CoreNo)
  | drain (core : CoreNo)
  | free (core : CoreNo)
  | spill (core : CoreNo)
  | restore (core : CoreNo)
  | pageAdd (core : CoreNo)
  | vload (hall : HallNo)
  | vstore (hall : HallNo)
  | arith (hall : HallNo)
  | func (hall : HallNo)
  | rowred (hall : HallNo)
  | smax (hall : HallNo)
  | norm (hall : HallNo)
  | dropout (hall : HallNo)
  | convert (hall : HallNo)
  | xpose (core : CoreNo)
  | stash (core : CoreNo)
  | unstash (core : CoreNo)
  | sdrop (core : CoreNo)
  | lease (core : CoreNo)
  | watch (core : CoreNo)
  /-- `stays` has bit c set where core c's array does not ramp down, because another program's pass follows back to back
  (R145). -/
  | programEnd (program : Nat) (stays : Half := 0)
  | drainFillEnd (hall : HallNo) (entry : Nat)
  | spillWriteEnd (hall : HallNo) (tag : Nat)
  | restoreFillEnd (core : CoreNo) (page : Fin 8)
  | dmaTransferEnd (hall : HallNo) (tag : Nat) (hostData : Bytes)
  | mintExchangeReceived (link : LinkNo) (frame : Frame)
  | updateStaged (part : PartNo) (layer : Nat) (fault : Option MintFault := none)
  | parkCopyEnd (slot : SeqNo)
  -- partitions and firmware in time
  | saveStart (part : PartNo)
  | partSaved (part : PartNo) (readOk : Bool)
  | requestFence (part : PartNo)
  | restoreEnd (part : PartNo) (readOk : Bool)
  | scrubDone (part : PartNo) (readOk : Bool)
  | checkpointReloadEnd (core : CoreNo) (readOk : Bool)
  | fwImageChecked (slot : Fin 2) (writeOk signatureOk : Bool)
  | handoverReady
  | handoverTimeout
  | tellerWatchdogExpiry
  | tellerRestartDone
  | quoteBatchClose
  | batchSigned (writeOk : Bool)
  | traversalRebuildEnd
  -- treads and stairwell in time (02, 11); a stamp is a port timestamp in sixteenths of a reference cycle (R355), a count
  -- the reference counter as a follower reads it before the correction of R325
  | riser (found : RiserFindings := RiserFindings.none)
  | riserBeaconSend
  | budgetEvaluation (us : Nat) (progress : List Progress)
  | alignTimeout
  | memberBeaconTimeout (member : Half)
  | formationComplete
  | formationTimeout (failed : Fin 65)
  | waitLimitExpiry (place : WaitPlace)
  | probeSend (stamp : Nat)
  | helloSend
  | helloReceived (link : LinkNo) (frame : Frame)
  | neighbourTimeout (link : LinkNo)
  | ackReceived (link : LinkNo) (frame : Frame)
  | ackTimer (conn : ConnId)
  | resendTimeout (conn : ConnId)
  | riserBeaconReceived (link : LinkNo) (frame : Frame) (count : Nat)
  | slipBeaconReceived (link : LinkNo) (frame : Frame)
  | holdBeaconReceived (link : LinkNo) (frame : Frame)
  | poisonBeaconReceived (link : LinkNo) (frame : Frame)
  | haltBeaconReceived (link : LinkNo) (frame : Frame)
  | resumeBeaconReceived (link : LinkNo) (frame : Frame)
  | probeRequestReceived (link : LinkNo) (frame : Frame) (stamp sent : Nat)
  | probeResponseReceived (link : LinkNo) (frame : Frame) (stamp : Nat)
  | remoteAddReq (link : LinkNo) (frame : Frame)
  | stwResumeReq (link : LinkNo) (frame : Frame)
  | readyReq (link : LinkNo) (frame : Frame)
  | countReq (link : LinkNo) (frame : Frame)
  | respReceived (link : LinkNo) (frame : Frame)
  | collectiveData (link : LinkNo) (frame : Frame)
  | queueData (link : LinkNo) (frame : Frame)
  | creditReceived (link : LinkNo) (frame : Frame)
  | frameRelay (link : LinkNo) (frame : Frame)
  -- optical ports and the MAC (12_optical_ports.md)
  | pauseFrame (link : LinkNo) (quanta : Half)
  | pfcFrame (link : LinkNo) (enable : Byte) (quanta : List Half)
  | lldpduReceived (link : LinkNo) (bytes : Bytes)
  | frameDrop (link : LinkNo) (frame : EthFrame)
  | pauseExpired (link : LinkNo) (priority : Fin 8)
  | xoffRepeat (port : PortNo) (occupancy : Nat := 0)
  | pauseStorm (link : LinkNo) (priority : Fin 8)
  | stormEnd (link : LinkNo) (priority : Fin 8)
  | lldpSend (link : LinkNo)
  | lldpTtlExpiry (link : LinkNo)
  | linkUp (link : LinkNo)
  | linkDown (link : LinkNo) (cause : Fin 5) (lane : Option (Fin 4))
  | fecInterval (link : LinkNo) (corrected uncorrected : Nat) (symbols : List Nat) (powers : List (Half × Half))
      (remoteFault : Bool := false)
  -- host attach (14_host_attach.md)
  | ucieTrainingEnd (module : ModuleNo) (half0 half1 : Bool)
  | ucieRetrain (module : ModuleNo) (replays : Nat) (linkError lanes0 lanes1 : Bool)
  | ucieRetrainEnd (module : ModuleNo) (half0 half1 : Bool)
  | hostSnoop (line : Nat)
  | hdmAccess (addr : Nat) (write : Option Bytes)
  -- power and temperature (15_power_and_thermal.md)
  | estimateTick (estimate : PowerEstimate)
  | calibrationWindow (gain0 gain1 : Nat)
  | galleryTempStretch (gallery : GalleryNo)
  | galleryCurrentStretch (gallery : GalleryNo)
  | droopStretch (gallery : GalleryNo)
  | droopStretchEnd (gallery : GalleryNo)
  | stretchEnd (gallery : GalleryNo) (current : Bool) (us : Nat)
  | mintDieThrottle
  | memoryStackThrottle (vault : Bool) (stack : Fin 8)
  | throttleEnd (unit : Fin 17)
  | opticsOff (engine : Fin 4) (temp : Half)
  | opticsOn (engine : Fin 4) (temp : Half)
  -- ends of host accesses, copies, bring-up steps and the HDM decoder
  | hostAccessAborted (access : HostAccess)
  | usherLastWrite (gallery : GalleryNo)
  | layerIoCopyEnd (ring : RingNo) (hostData : Bytes)
  | zeroFillEnd (part : PartNo) (page : Nat)
  | signalDetected (link : LinkNo)
  | alignmentMarkerLock (link : LinkNo)
  | hdmDecoderCommit (base : Option Nat)
  deriving DecidableEq, Repr

end Sys2Proof
end

