-- ==== Sys2Proof/Config.lean ====
section
/-!
DEFINITION. What an implementation fixes and what the manual leaves open. Every constant here is opaque: no proof can
see its value, so a claim about the model holds whatever the value is (assumption log 8 and 9).
-/
namespace Sys2Proof

/-- The configuration record of this part, by byte offset 0x0000 to 0x1FFF (R449, Table 16-9): written by Tsuevo at
manufacture only. The manual gives its layout and no contents. -/
opaque Config.configRecord : Nat → Byte

/-- An XMSS signature of the key unit over a batch header with a leaf (R453, R458): 2,820 bytes, from a device secret
that the manual does not give (R451). Arguments: leaf index, the 64 bytes of the batch header, byte offset. -/
opaque Config.signature : Nat → Bytes → Nat → Byte

/-- A value the manual leaves undefined or unstated, the k-th that the block has met (assumption log 8). -/
opaque Config.freeWord : Nat → Word

/-- Bytes of a save area whose layout the manual does not give: feeder entries, stationary slots, and what a hall has under way, by
core or hall and offset (Table 13-7). -/
opaque Config.savedCore : Nat → Nat → Byte

/-- The same of a hall. -/
opaque Config.savedHall : Nat → Nat → Byte

/-- What flash holds where no command of the model has written it: the images with which the part shipped, by flash address
(R435). -/
opaque Config.flash : Nat → Byte

/-- The bytes of the fault log in flash after a number of entries, whose layout the manual does not give (R432, R435). -/
opaque Config.faultLog : Nat → Nat → Byte

/-- The boot record in eMRAM, whose layout the manual does not give: selected slot, SVN floor, revocation mask, byte
offset (Table 16-8). -/
opaque Config.bootRecord : Nat → Word → Nat → Nat → Byte

/-- The persistent counters in eMRAM, whose layout the manual does not give: the uncorrected events held as resource code
and operating time, byte offset (R470, Table 16-8). -/
opaque Config.persistentCounters : List (Nat × Nat) → Nat → Byte

end Sys2Proof
end

