-- ==== Sys2Proof/Machine/State.lean ====
section
/-!
DEFINITION. The state of the Z2 block as plain data: every piece of state the manual names, the queue of commands that
wait, and the state after reset (INVENTORY.md lists each with its rule and reset value).
-/
namespace Sys2Proof.Machine

/-- Why the block stops. -/
inductive Fault where
  /-- A field marked RSV was changed by a write; until the next cold reset no labelled statement binds the Z2 (R495).
  Raised by every command that reaches a powered block in that condition. Safe: the model stops where the part goes on
  in a way the manual does not state. -/
  | testControl
  deriving DecidableEq, Repr

/-- Why the block answers without a state. -/
inductive Refusal where
  /-- The command has no meaning in the model yet. Raised by exec's arm of that command. Safe. -/
  | notModelled (mnemonic : String)
  /-- An operand does not have the form of `Instr.wellFormed`, so no bus or pin can carry it (a descriptor that is not
  64 bytes). Raised by the meanings that take data from outside. Safe. -/
  | illFormed (mnemonic : String)
  deriving DecidableEq, Repr

/-- A byte memory in canonical form: rising addresses, no entry equal to 0, which an unlisted address reads as (R483). -/
abbrev Memory := List Host.Cell

/-! ## Device, pins and registers (R478 to R489, R497) -/

/-- Device states of Table 18-1. `up` is Ready or Running, which the partition states tell apart. -/
inductive DevState where
  | off | standby | boot | up | fault
  deriving DecidableEq, Repr

structure Dev where
  state : DevState
  /-- DEV_STATUS.FAULT (Table 18-6). -/
  faultCode : Nat
  /-- Last Boot step begun (R483). -/
  bootStep : Nat
  bootMs : Half
  /-- The rows of Table 18-7 that have run since an accepted orderly shutdown (R486). -/
  shutdown : Option Nat
  refused : Bool
  /-- Level of RESET_N; true is high (R511). -/
  resetN : Bool
  mainEn : Bool
  /-- THERMTRIP_N is asserted (R512). -/
  thermTrip : Bool
  vaux : Bool
  rails : Bool
  /-- The next RESET_N release follows Off, so it is the power-on reset of Table 18-4. -/
  fromOff : Bool
  /-- An RSV field was changed (R495). -/
  unbound : Bool
  /-- Kept in eMRAM and counted up by the teller at every Boot (R314). -/
  bootEpoch : Word
  /-- PWR_TRIP (R429). -/
  tripCause : Byte
  /-- Slot refused at Boot and its reason, posted on reaching Ready (R447, R483). -/
  reverted : Option (Nat × Nat)
  deriving DecidableEq, Repr

/-- The search of the porter on one port (R359): which interval of the wake pattern is awaited, and the bits read. -/
structure Search where
  lit : Bool
  /-- Half periods of the wake pattern accepted so far; 0 before the first light. -/
  got : Nat
  /-- Milliseconds of the code part accepted so far, bits least significant first. -/
  bits : List Bool
  deriving DecidableEq, Repr

structure Porter where
  code : Half
  searches : Table Search
  deriving DecidableEq, Repr

structure Regs where
  /-- RNG_BOOT_CTRL_LO to RNG_BOOT_CB_HI in the order of Table 3-17. -/
  bootBases : List Word
  bootEnable : Bool
  bootErr : Bool
  bootVector : BitVec 11
  bootCtrlSize : BitVec 4
  bootCplSize : BitVec 4
  bootEvtSize : BitVec 4
  iaSel : BitVec 4
  iaAddr : Word
  iaErr : Bool
  hstTimeout : Byte
  hstRetryLim : Half
  attMinGap : Half
  attWindow : Half
  /-- MSI-X function mask (R408). -/
  funcMask : Bool
  wakeBusy : Bool
  wakePort : BitVec 4
  wakeCode : Half
  deriving DecidableEq, Repr

/-! ## Time and stairwell (R29 to R67) -/

inductive TreadKind where
  | normal | slip | hold | settle | halted
  deriving DecidableEq, Repr

structure Time where
  /-- The reference counter (R29). -/
  ref : Nat
  /-- Its value at the last riser (R30). -/
  riserAt : Nat
  tread : BitVec 48
  /-- Tread period P in µs. -/
  period : Nat
  kind : TreadKind
  deriving DecidableEq, Repr

inductive StwState where
  | alone | forming | aligned | halted
  deriving DecidableEq, Repr

/-- Slip causes of a beacon (R45, Table 11-6). -/
inductive SlipCause where
  | budget | queue | banister
  deriving DecidableEq, Repr

/-- One flight-set entry of a RISER beacon (Table 11-6). -/
structure SetEntry where
  set : Half
  members : Half
  flight : Word
  pendingFlight : Word
  pendingLength : Half
  lands : Bool
  planPending : Bool
  poison : Bool
  part : Byte
  deriving DecidableEq, Repr

/-- What the last RISER beacon of another member said (R51, R323). -/
structure Member where
  addr : Half
  /-- Own tread count when it came. -/
  heardAt : BitVec 48
  /-- Riser it named. -/
  riser : BitVec 48
  offset : Int
  state : Nat
  sets : List SetEntry
  deriving DecidableEq, Repr

/-- An STW_FORM in progress (R54). -/
structure Forming where
  ring : Nat
  tag : Word
  members : List Half
  leader : Half
  period : Nat
  bound : Nat
  deriving DecidableEq, Repr

structure Stw where
  state : StwState
  members : List Half
  leader : Half
  bound : Nat
  run : Nat
  haltCause : Nat
  others : List Member
  /-- Slips announced: the riser, the cause and the announcing member (R44, R45). -/
  slips : List (BitVec 48 × SlipCause × Half)
  /-- Risers for which a hold is announced (R64). -/
  holdsFor : List (BitVec 48)
  /-- A halt that a later riser takes: the riser, the cause, and the address it is charged to (R48, R67). -/
  haltAt : Option (BitVec 48 × Nat × Half)
  /-- Owners to which STW_HALTED was posted (R67). -/
  haltOwners : List Nat
  resumeAt : Option (BitVec 48)
  forming : Option Forming
  /-- Own offset from the leader, ns, and consecutive beacons beyond 40 ns (R52). -/
  offset : Int
  badOffsets : Nat
  /-- Reference cycles that a follower has still to add (positive) or drop, and the reference count up to which its slewing
  has been done (R51, R325). -/
  slew : Int
  slewAt : Nat
  /-- Path delay to the leader in sixteenths of a reference cycle, and t1 of the PROBE in flight (R325, R356). -/
  pathDelay : Int
  probeT1 : Option Nat
  /-- The last RISER beacon that this device sent: the riser it named and its flight-set entries (R35, R323). -/
  sent : Option (BitVec 48 × List SetEntry)
  /-- Beacons kept: kind, riser, source (R323). -/
  seen : List (Nat × BitVec 48 × Half)
  /-- Stairwell settings pending on the leader for the coming riser: period, bound, leader (R51). -/
  leaderPending : Option Nat × Option Nat × Option Half
  /-- The reference counter was stepped to the leader's count for this formation (R325). -/
  stepped : Bool
  deriving DecidableEq, Repr

/-! ## Rings (R68 to R109) -/

inductive RingState where
  | disabled | enabled | paused | error
  deriving DecidableEq, Repr

/-- A fetched descriptor that is not yet taken (R76), with the progress of a TALLY that waits at the head (R104). -/
structure Fetched where
  tag : Word
  bytes : Bytes
  /-- Tally records of a TALLY descriptor that have run. -/
  done : Nat
  /-- Treads a WAIT of it has waited while its partition was Running (R105, R389). -/
  waited : Nat
  /-- Its target flight has landed since it came to the head (R105). -/
  landed : Bool
  /-- Value seen by the last record that was not a NOP. -/
  seen : Word
  deriving DecidableEq, Repr

/-- An accepted descriptor whose final completion has not posted yet, fetched or admitted (R95, R98), or a duplicate
that is set aside. `slots` are the CPL slots still reserved for it. -/
structure Live where
  tag : Word
  irq : Bool
  slots : Nat
  /-- Opcode, for what its completions report. -/
  opcode : Nat
  deriving DecidableEq, Repr

/-- A completion record without its phase bit (Table 3-11). -/
structure Cpl where
  tag : Word
  status : Nat
  detail : Nat
  ring : Nat
  result : Word64
  tread : BitVec 48
  phase : Half
  aux : Word64
  /-- The descriptor set IRQ and this completion is final (R108); not a field of the record. -/
  counts : Bool
  /-- It is the final completion of a descriptor of class 0x0, for which those behind it wait (R90); not a field of the
  record. -/
  first : Bool := false
  deriving DecidableEq, Repr

/-- An event record without its phase bit and ring, which the ring that it is written to gives (Table 3-13). -/
structure Evt where
  code : Half
  owner : Nat
  severity : Nat
  source : Word64
  tread : BitVec 48
  phase : Half
  payload : Word64
  deriving DecidableEq, Repr

/-- A record in the memory of a CPL or EVENT ring, with the phase bit it was written with (R78). Machine/Ops.lean lays out
its bytes. -/
inductive Rec where
  | cpl (phase : Bool) (c : Cpl)
  | evt (phase : Bool) (e : Evt)
  deriving DecidableEq, Repr

/-- A final completion in a replay window (R99). -/
structure Final where
  tag : Word
  status : Nat
  result : Word64
  aux : Word64
  deriving DecidableEq, Repr

/-- A RING_DISABLE or a release that waits for a ring's admitted descriptors (R81). -/
structure Closing where
  /-- Ring and tag of the RING_DISABLE; none when registers or PART_RELEASE disable the ring. -/
  by_ : Option (Nat × Word)
  aborted : Nat
  deriving DecidableEq, Repr

structure Ring where
  cls : Nat
  owner : Nat
  state : RingState
  /-- The ring holds 2^k entries (R72). -/
  k : Nat
  prod : Word
  cons : Word
  cpl : Nat
  base : Word64
  control : Word64
  vector : Nat
  countThr : Nat
  timeThr : Nat
  /-- Pending interrupt count (R108). -/
  irqs : Nat
  cause : Nat
  fetched : List Fetched
  /-- Descriptors at the front of `fetched` that stood there at the last riser, at which they may be admitted (R40, R41). -/
  due : Nat
  live : List Live
  high : Option Word
  window : List Final
  /-- Duplicates set aside until the original's final completion (R98). -/
  dups : List Live
  /-- CPL slots reserved by fetched descriptors of the paired rings (R95). -/
  reserved : Nat
  /-- Records written and not yet consumed by the host, oldest first. -/
  posted : List Rec
  /-- Completions that wait because the CPL ring is Paused or in Error. -/
  waiting : List Cpl
  backlog : List Evt
  lost : Nat
  closing : Option Closing
  deriving DecidableEq, Repr

/-- Backlog of an owner with no EVENT ring (R101). -/
structure Backlog where
  events : List Evt
  lost : Nat
  deriving DecidableEq, Repr

structure Tally where
  value : Word
  open_ : Bool
  deriving DecidableEq, Repr

/-- An MSI-X table entry and its pending bit (R408, Table 14-4). -/
structure Vector where
  masked : Bool
  pending : Bool
  addr : Word64
  data : Word
  deriving DecidableEq, Repr


/-! ## Pages, cores and programs (R130 to R229) -/

/-- Page types of Table 6-1. -/
inductive PageType where
  | fp32 | int32 | pair
  deriving DecidableEq, Repr

/-- Page states of Table 6-3 that a slot can be in; Spilled is a state of an image in HBM. -/
inductive PageState where
  | free | open_ | sealed | held | poisoned | lo
  deriving DecidableEq, Repr

/-- The content of one page: 2,048 entries in row order then feature order, and the sticky flags of Table 6-2. -/
structure PageImage where
  state : PageState
  type : PageType
  nan : Bool
  ovf : Bool
  isat : Bool
  loss : Bool
  entries : List Word
  deriving DecidableEq, Repr

structure Page where
  image : PageImage
  /-- A checkpoint of the landing state was taken since the last landing; it lies in the checkpoint area (R192, R193). -/
  ckpt : Bool
  /-- Page state at the last completed landing: whether it was Free there (R195). -/
  freeAtLanding : Bool
  /-- A RESTORE has taken the slot and its bytes have not all arrived (R191). -/
  filling : Bool
  deriving DecidableEq, Repr

/-- A stationary tile in the slots of an array (R130, R131, R139): 16 tokens. -/
structure Tile where
  format : Nat
  sparse : Bool
  /-- Codes of each token's reduction positions. -/
  codes : List (List Nat)
  /-- Block scale codes of each token. -/
  scales : List (List Nat)
  /-- Every stationary code is a zero code (R149). -/
  zero : Bool
  deriving DecidableEq, Repr

structure Core where
  front : Option Tile
  back : Option Tile
  /-- Load entries that wait in the feeders of the rows for their back slots, oldest first (R139, R143). -/
  feeder : List Tile
  /-- The array has ramped up and is not gated (R144, R145). -/
  active : Bool
  pages : Table Page
  /-- Declared cost admitted on this core in the present tread (R40). -/
  cost : Nat
  /-- A checkpoint reload of the core has not ended (R195). -/
  reloading : Bool
  /-- The reload failed, so the ledger is undefined until PART_RELEASE (R469). -/
  undefined_ : Bool
  deriving DecidableEq, Repr

/-- One 32-byte record of an admitted program (R157). -/
structure Record where
  bytes : Bytes
  /-- A RESTORE: the page type of the image header that it read at admission (R190). -/
  type : PageType
  issued : Bool
  /-- A DRAIN's fill, a STASH's or an UNSTASH's transfer has ended; other records end when they issue. -/
  done : Bool
  deriving DecidableEq, Repr

/-- A strike that a descriptor reads under a lease (R248): partition, layer and strike number. -/
structure ReadLease where
  part : Nat
  layer : Nat
  strike : Word
  deriving DecidableEq, Repr

/-- A hyper-parameter set (Table 9-7). -/
structure HyperSet where
  relative : Bool
  noclip : Bool
  slot : Nat
  lr : Word
  rhomax : Word
  c : Word
  eps1 : Word
  eps2 : Word
  d : Word
  lam : Word
  b1 : Word
  deriving DecidableEq, Repr

structure Watch where
  enabled : Bool
  report : Word64
  s1 : Dy
  s2 : Dy
  folds : Word
  finals : Word
  nan : Bool
  deriving DecidableEq, Repr

inductive StashState where
  | empty | stashed | vaulted | unstashed
  deriving DecidableEq, Repr

structure StashEntry where
  state : StashState
  size : Nat
  fallback : Nat
  pred : Nat
  /-- Made after the last completed landing (R243). -/
  fresh : Bool
  /-- A part of it has been written, so that its extents are chosen (R241). -/
  placed : Bool
  data : Memory
  deriving DecidableEq, Repr

/-- An admitted PROGRAM or PROGRAM_IF (R156, R157). -/
structure Program where
  id : Nat
  ring : Nat
  tag : Word
  part : Nat
  hall : Nat
  cores : Half
  cost : Nat
  flight : Word
  records : List Record
  /-- Charged and held cycles by core of the hall (R42, R163). -/
  charged : Table Nat
  heldCycles : Table Nat
  streamed : Nat
  skipped : Nat
  /-- Condition bits of the completion's detail byte (R196, R211). -/
  flags : Byte
  leases : List ReadLease
  /-- Final status, detail and result when the program ends early (R105, R106, R466). -/
  outcome : Option (Nat × Nat)
  /-- Transaction tags of remote ADDs whose RESP is awaited, with the record's offset (R326). -/
  awaiting : List Word
  /-- Treads that the TALLY record at the head of a core has waited, by core. -/
  waited : Table Nat
  /-- The program had stalled on a pipeline queue or a banister hold in this tread. -/
  stalled : Bool
  /-- The stash entry that the condition of a PROGRAM_IF names (R244, R245). -/
  condition : Option Nat
  /-- Entries that its SDROP records have made Empty, whose data its earlier UNSTASH records still read and whose extents
  are not reused before it ends (R241, R243). -/
  dropped : Table StashEntry
  /-- Source pages of unread PAGE_ADD records that a later record of the program changes: the content to be added, by the
  record's position (R188). -/
  pinned : Table (PageImage × List Word)
  deriving DecidableEq, Repr

/-- A transfer of a DMA engine that holds a tag (R102). -/
inductive DmaKind where
  /-- The COPY or STRIKE_COPY of this work number. -/
  | copy (work : Nat)
  /-- A STASH or UNSTASH record of a program: program, index of the record. -/
  | stash (program record : Nat)
  /-- A spill image: partition, HBM address and the bytes still to be written (R191). -/
  | spill (part : Nat) (addr : Nat) (bytes : Bytes)
  deriving DecidableEq, Repr

structure Dma where
  tag : Nat
  kind : DmaKind
  deriving DecidableEq, Repr

/-- An entry of a hall's finished-tile queue (R203). -/
structure Ftq where
  program : Nat
  record : Nat
  core : Nat
  page : Nat
  buffer : Nat
  keep : Bool
  /-- The fill port reads the page (R204). -/
  begun : Bool
  deriving DecidableEq, Repr

structure Hall where
  ftq : List Ftq
  dma : List Dma
  /-- Declared cost of COPY and CLEAR admitted in the present tread (R40). -/
  cost : Nat
  deriving DecidableEq, Repr

/-- Admitted COPY, STRIKE_COPY, CLEAR, queue and usher work (R251, R252, R285, R332, R335). -/
structure Work where
  id : Nat
  ring : Nat
  tag : Word
  part : Nat
  opcode : Nat
  bytes : Bytes
  hall : Nat
  cost : Nat
  flight : Word
  prefetch : Bool
  /-- Its wait tally is satisfied and it has started. -/
  started : Bool
  /-- An usher descriptor has made its results, and its completion waits for the last write. -/
  ready : Option (Nat × Nat × Word64 × Word64)
  leases : List ReadLease
  /-- Bytes still to be moved (R42); of an usher descriptor, its remaining estimate in cycles (R284). -/
  left : Nat
  /-- READY addresses by rank (R333), those of the second half of ALL_REDUCE, READY sent. -/
  readys : Table Nat
  readys2 : Table Nat
  readySent : Bool
  /-- Counts by rank of the first ALL_TO_ALL round (R336). -/
  counts : Table Nat
  countSent : Bool
  /-- Bytes of each rank's region that have arrived, by rank. -/
  arrived : Table Nat
  /-- Ranks to which DATA has been sent. -/
  sentTo : List Nat
  /-- Second half of ALL_REDUCE has begun (R334). -/
  gather : Bool
  /-- The own reduction has been written (R334). -/
  reduced : Bool
  sent : Nat
  /-- Push number of a queue operation, once it holds its credit. -/
  slot : Option Nat
  /-- Reference count at which a queue operation began to stall, and its stall cycles (R335). -/
  since : Option Nat
  stall : Nat
  flags : Byte
  outcome : Option (Nat × Nat)
  deriving DecidableEq, Repr

/-! ## Partitions (R364 to R391) -/

inductive PartState where
  | free | configured | running | draining | saved | faulted
  deriving DecidableEq, Repr

/-- The configuration record of Table 13-1 as read, in bytes and GiB or extents as the table gives. -/
structure PartRecord where
  wings : Half
  hbmBase : Nat
  hbmSize : Nat
  vaultBase : Nat
  vaultSize : Nat
  ringFirst : Nat
  ringCount : Nat
  tallyFirst : Nat
  tallyCount : Nat
  vectorFirst : Nat
  vectorCount : Nat
  slotFirst : Nat
  slotCount : Nat
  context : Nat
  save : Nat
  ckpt : Nat
  stashBase : Nat
  stashSize : Nat
  kvBase : Nat
  kvSize : Nat
  hostBase : Nat
  hostSize : Nat
  /-- The 128 bytes, for attestation (R456). -/
  raw : Bytes
  deriving DecidableEq, Repr

/-- A flight plan that is pending (R34, R35). -/
structure Plan where
  ring : Nat
  tag : Word
  flight : Word
  length : Nat
  set : Half
  members : Half
  replay : Bool
  deriving DecidableEq, Repr

/-- A flight in progress. -/
structure Flight where
  plan : Plan
  /-- Planned treads that have passed. -/
  pos : Nat
  slips : Nat
  holds : Nat
  deriving DecidableEq, Repr

structure GenSlot where
  seed : Word64
  stream : Word64
  epoch : Word
  auto : Bool
  deriving DecidableEq, Repr

/-- A read or held lease slot (R249). -/
structure LeaseSlot where
  layer : Nat
  strike : Word
  deriving DecidableEq, Repr

/-- Codes 0x00 to 0x03 of Table 9-3. -/
inductive LayerState where
  | undefined_ | idle | running | staged
  deriving DecidableEq, Repr

structure RowRec where
  r : Word
  last : Word
  xs : Word
  deriving DecidableEq, Repr

/-- A body of a mint exchange (Table 9-8) that a shard holds (R266). -/
structure MintBody where
  shard : Nat
  round : Nat
  bytes : Bytes
  deriving DecidableEq, Repr

/-- The shadow of an UPDATE or STRIKE (R269): what replaces the layer's regions at the commit. -/
structure Shadow where
  masters : Table Byte
  rows : Table RowRec
  colst : Table Word
  momentum : Memory
  step : Word
  deriving DecidableEq, Repr

/-- The UPDATE or STRIKE that a layer runs or has staged. -/
structure MintJob where
  ring : Nat
  tag : Word
  bytes : Bytes
  isStrike : Bool
  flight : Word
  /-- Exchange round awaited: 0 before pass A, then 1, 2, and 3 after pass C. -/
  round : Nat
  /-- Set in force when the job began (R263). -/
  hyper : HyperSet
  /-- Rows touched, frozen rows of all shards, CLIP, SAT. -/
  frozenRows : Nat
  clip : Bool
  sat : Bool
  /-- Abort cause this shard sends (Table 9-8). -/
  cause : Nat
  shadow : Option Shadow
  /-- Extents of the shadow, and those that the pool lacked for it (R269). -/
  extents : Nat
  short : Nat
  newStrike : Word
  /-- Has announced a slip in this tread (R270). -/
  late : Bool
  deriving DecidableEq, Repr

structure Layer where
  state : LayerState
  momentum : Bool
  lazy : Bool
  sparse : Bool
  rowLayout : Bool
  format : Nat
  rows : Nat
  base : Nat
  n : Nat
  cols : Nat
  set : Nat
  shards : Nat
  shard : Nat
  peers : List (Half × Nat)
  slot0 : Nat
  slot1 : Nat
  step : Word
  current : Word
  pending : Word
  /-- The last strike number that a strike of the layer took (R275). -/
  taken : Word
  frozen : Bool
  mask : List Nat
  /-- Bytes of the masters region that have been written (R257); others are free values with this number (log 8). -/
  masters : Table Byte
  mastersFree : Nat
  rowRecs : Table RowRec
  colst : Table Word
  mom : Memory
  /-- Exchange bodies held, in order of arrival, the own ones among them (R266). -/
  bodies : List MintBody
  job : Option MintJob
  deriving DecidableEq, Repr

inductive SeqState where
  | free | joining | running | leaving | parking | parked | unparking
  deriving DecidableEq, Repr

/-- One KV stream of a sequence (R301). -/
structure Stream where
  fill : Nat
  /-- Fill point at the last completed landing (R308), which is that at the start of the flight (R302). -/
  landed : Nat
  pages : List Nat
  deriving DecidableEq, Repr

structure SeqSlot where
  state : SeqState
  prio : Nat
  streams : List Stream
  i0 : Nat
  join : Nat
  /-- Vault extents a parked sequence holds, and its bytes (R306). -/
  extents : Nat
  parked : Memory
  /-- 64-byte lines of the parked bytes that are poisoned (R462). -/
  parkedPoison : List Nat
  /-- A park copy still reads these pages, or an unpark copy still writes the slot's pages (R307). -/
  copying : List Nat
  /-- Has announced a slip in this tread (R307). -/
  late : Bool
  deriving DecidableEq, Repr

/-- A group entry of a fabric map (Table 11-7). -/
structure Group where
  rank : Nat
  staging : Nat
  stagingBytes : Nat
  members : List (Half × Nat)
  digest : Word
  deriving DecidableEq, Repr

/-- A queue of a fabric map (Table 11-9) and its counts (R335). -/
structure Queue where
  receive : Bool
  depth : Nat
  peer : Half
  peerPart : Nat
  entryBytes : Nat
  buffer : Nat
  report : Nat
  credits : Nat
  /-- Pushes or pops begun since MAP_SET. -/
  begun : Nat
  /-- Bytes of the message that is arriving, and the lengths of the complete messages not yet popped, oldest first. -/
  arrived : Nat
  complete : List Nat
  /-- Pushes or pops and stall cycles since the last report. -/
  since : Nat
  stall : Nat
  deriving DecidableEq, Repr

/-- A collective control REQ that came before the CLEAR it belongs to (R329, R330). -/
structure EarlyReq where
  digest : Word
  tag : Word
  rank : Nat
  count : Bool
  value : Nat
  deriving DecidableEq, Repr

/-- Why a partition command holds an unfinished completion: PART_START, PART_STOP, PART_EVICT, PART_RESUME,
PART_RELEASE (Table 13-5). -/
structure PartCmd where
  opcode : Nat
  ring : Nat
  tag : Word
  deriving DecidableEq, Repr

/-- What a partition's stash, leases and fill points were at the last completed landing (R247, R249). -/
structure Landed where
  stash : Table StashEntry
  leases : Table LeaseSlot
  deriving DecidableEq, Repr

structure Partition where
  state : PartState
  record : PartRecord
  scrub : Bool
  wingsHeld : Bool
  saveBusy : Bool
  restoreBusy : Bool
  evicted : Bool
  startPend : Bool
  /-- The riser at which an accepted PART_START, PART_RESUME or PART_EVICT takes effect (R64, R375, R387). -/
  takesAt : BitVec 48
  /-- A save is to begin when the work has ended or waits (R386), and whether by eviction. -/
  saveAsked : Option Bool
  /-- The 64 µs drain of an eviction's remote requests goes on (R388). -/
  fenceDue : Bool
  cmds : List PartCmd
  holds : Nat
  fenced : Nat
  flight : Option Flight
  plans : List Plan
  lastFlight : Word
  /-- The last flight ended with POISONED, so only its replay may be planned (R34). -/
  replayDue : Bool
  /-- The poison flag: the first detail code (R467), and the riser at which the flight ends (R62). -/
  poison : Option (Nat × Nat)
  shares : List Nat
  strict : List Bool
  gens : Table GenSlot
  hypers : Table HyperSet
  watches : Table Watch
  leases : Table LeaseSlot
  stash : Table StashEntry
  hbmLimit : Nat
  vaultLimit : Nat
  fallback : Nat
  /-- Extents that return at the next completed landing (R243): HBM and vault. -/
  returning : Nat × Nat
  landed : Landed
  layers : Table Layer
  groups : List Group
  queues : List Queue
  early : List EarlyReq
  seqs : Table SeqSlot
  joins : Nat
  /-- KV pages whose zero-fill is still running (R307). -/
  zeroing : List Nat
  /-- Hall that ran the last placed program, by ring (R381). -/
  placed : Table Nat
  /-- The stored on-die state of the wings (Table 13-7): core, pages and slots; scratchpad and buffer bytes. -/
  savedCores : Table Core
  savedPads : Memory
  savedBufs : Memory
  savedHalls : Table Hall
  /-- Poison marks of the saved scratchpad lines (R462). -/
  savedPadPoison : List Nat
  deriving DecidableEq, Repr

/-! ## Settings held pending (R58, R59) -/

/-- One setting of Table 2-8 with its new value. -/
inductive SettingKind where
  | mintSet (k : Nat) (h : HyperSet)
  | freezeSet (layer : Nat) (frozen : Bool) (load clear : Bool) (mask : List Nat)
  | genSet (slot : Nat) (g : GenSlot) (keepEpoch : Bool)
  | stashSet (hbm vault : Nat) (fallback : Nat)
  | watchSet (k : Nat) (enable : Bool) (report : Word64)
  | turnSet (part select : Nat) (shares : List Nat) (strict : Nat)
  | preempt (part : Nat)
  | evict (layer : Nat)
  | seqJoin (slot prio streams i0 : Nat)
  | seqLeave (slot : Nat)
  | seqPark (slot : Nat)
  | seqUnpark (slot : Nat)
  | seqPrio (slot prio : Nat)
  | cap (watts : Nat)
  | vf (fixed boost : Bool) (base floor : Nat)
  | period (us : Nat)
  | slipBound (n : Nat)
  | leader (a : Half)
  | fwActivate (slot : Nat) (cold : Bool)
  deriving DecidableEq, Repr

structure Setting where
  ring : Nat
  tag : Word
  /-- Partition whose landing it waits for; 8 for the device, 9 for the stairwell. -/
  scope : Nat
  target : Word
  kind : SettingKind
  /-- DEFERRED has been posted for a firmware activation (R444). -/
  deferred : Bool
  deriving DecidableEq, Repr

/-! ## Fabric (R312 to R340) -/

structure Neighbour where
  addr : Half
  /-- The source address of its last HELLO frame, to which frames for it go (R316, R346). -/
  mac : BitVec 48
  peerLink : Nat
  epoch : Word
  /-- HELLO frames received since the link was last down, saturating at 2 (R314). -/
  hellos : Nat
  up : Bool
  deriving DecidableEq, Repr

/-- A route entry (Table 11-1): the words as held and the entry in effect (R503). -/
structure Route where
  w0 : Word
  w1 : Word
  w2 : Word
  links : List Nat
  mode : Nat
  gateway : Nat
  via : Half
  deriving DecidableEq, Repr

/-- A reliable frame that is not yet acknowledged, the work item whose message it belongs to (R337), and the partition that
sends it, if any. -/
structure Sent where
  frame : Frame
  work : Option Nat
  part : Nat
  deriving DecidableEq, Repr

structure Conn where
  id : ConnId
  /-- Sequence number of the next reliable frame. -/
  next : Word
  unacked : List Sent
  /-- Frames that wait because 512 are unacknowledged. -/
  queued : List Sent
  /-- Next sequence number expected from the peer. -/
  expect : Word
  /-- Frames accepted since the last acknowledgement. -/
  owed : Nat
  lastAck : Word
  repeats : Nat
  /-- Resends without progress on the present link (R321). -/
  resends : Nat
  /-- Resend timeouts that passed while no link was up (R321). -/
  idle : Nat
  link : Option Nat
  tried : List Nat
  nextTxn : Word
  /-- The last 1,024 requests executed, with status and value (R322). -/
  kept : List (Word × Nat × Nat)
  deriving DecidableEq, Repr

/-- What waits for a RESP: a tally record of a descriptor or of a program, an STW_RESUME, or collective control. -/
inductive Waiter where
  | tally (ring : Nat) (tag : Word) (offset : Nat)
  | record (program : Nat) (record : Nat)
  | resume (ring : Nat) (tag : Word)
  | control (work : Nat)
  deriving DecidableEq, Repr

structure Request where
  conn : ConnId
  txn : Word
  waiter : Waiter
  part : Nat
  frame : Frame
  /-- Fenced at an eviction and to be reissued on resume (R388). -/
  fenced : Bool
  deriving DecidableEq, Repr

structure Fabric where
  etype : Half
  rto : Byte
  enable : Bool
  domain : Byte
  device : Byte
  neighbours : Table Neighbour
  routes : Table Route
  gateways : Table (Word × Word)
  conns : List Conn
  requests : List Request
  /-- Queue stall cycles beyond the last 1,024 that FAB_QSTALL counted (R339). -/
  stallRest : Nat
  /-- Frames of mint exchanges not yet complete: peer, layer, bytes so far. -/
  partial_ : List (Half × Word × Bytes)
  deriving DecidableEq, Repr

/-! ## Optical ports (R341 to R363) -/

structure Sa where
  key : List Word
  pn : Word64
  ssci : Word
  salt : List Word
  /-- Its packet numbers are used up (R354). -/
  spent : Bool
  deriving DecidableEq, Repr

/-- A secure channel entry (Table 12-7). -/
structure Secy where
  valid : Bool
  tx : Bool
  link : Nat
  txAn : Nat
  xpn : Bool
  window : Byte
  saValid : List Bool
  sci : Word64
  sas : List Sa
  deriving DecidableEq, Repr

structure Port where
  enable : Bool
  breakout : Bool
  wdEn : Bool
  macsec : Bool
  flow : Nat
  retired : List Nat
  xoff : Half
  xon : Half
  pauseWd : Half
  fecSym : Half
  fecUnc : Half
  /-- Bytes that the receive buffer holds, and whether an XOFF stands that no quanta of 0 have ended (R349). -/
  occupancy : Nat
  xoffSent : Bool
  channels : Table Secy
  deriving DecidableEq, Repr

/-- Bring-up of one link (Table 12-3). -/
inductive Bringup where
  | dark | waiting | signal | locked | up
  deriving DecidableEq, Repr

structure Link where
  stage : Bringup
  lldpTx : Bool
  tag : Bool
  strict : Bool
  vid : BitVec 12
  storm : List Nat
  paused : List Nat
  /-- Frames that wait in the link because their priority is paused (R349). -/
  held : List Frame
  fecDegrade : Bool
  remoteFault : Bool
  localFault : Bool
  /-- The kept LLDPDU and its length, which is 0 when none is kept or its TTL has run out (R357). -/
  lldp : Bytes
  lldpLen : Nat
  /-- Received and launched power of the lanes of this link, 0.01 dBm (R502). -/
  powers : List (Half × Half)
  deriving DecidableEq, Repr

/-! ## Host attach, power, firmware and faults -/

structure HostLink where
  /-- Trained half-modules 0 to 7 (R392). -/
  halves : List Nat
  halvesRetired : List Nat
  /-- Modules that retrain, with the width they had (R397). -/
  retraining : Table Nat
  /-- HDM base once a decoder is committed (R405). -/
  hdm : Option Nat
  /-- HBM lines, by address / 64, that the host may hold (R403). -/
  hostLines : List Nat
  /-- Host-memory accesses that wait, with the reissues made (R400, R463). -/
  accesses : List (HostAccess × Nat)
  deriving DecidableEq, Repr

structure Power where
  vf : Nat
  /-- The voltage that each gallery's regulator was last asked for and took, in mV (R510). -/
  volts : List Nat
  fixed : Bool
  boost : Bool
  base : Nat
  floor : Nat
  cap : Nat
  tempStretch : List Nat
  currentStretch : List Nat
  droopStretch : List Nat
  mintThrottle : Bool
  hbmThrottle : List Nat
  vaultThrottle : List Nat
  opticsOff : List Nat
  capUnmet : Bool
  temps : Table Half
  /-- The last estimate (R419). -/
  last : PowerEstimate
  /-- Peaks since the last device landing (R416), mW: calibrated dynamic and leakage power of each gallery, the rest. -/
  peakDyn : List Nat
  peakLeak : List Nat
  peakOther : Nat
  gains : List Nat
  newGains : List Nat
  /-- A temperature or current stretch has been in force since the last device landing (R416). -/
  stretched : Bool
  /-- EMERG has been set since the last device landing (R426). -/
  emergSince : Bool
  /-- Consecutive clear device landings. -/
  clears : Nat
  /-- Galleries whose clock was stretched or arrays held since the start of the tread (R45). -/
  touched : List Nat
  deriving DecidableEq, Repr

/-- Slot states of Table 16-5. -/
inductive SlotState where
  | empty | loading | valid | invalid | pending | active
  deriving DecidableEq, Repr

structure FwSlot where
  state : SlotState
  /-- Image bytes as copied, header first. -/
  image : Bytes
  deriving DecidableEq, Repr

/-- A quote that waits in a batch (R455, R457). -/
structure Quote where
  ring : Nat
  tag : Word
  part : Nat
  nonce : Bytes
  addr : Word64
  deriving DecidableEq, Repr

structure Firmware where
  slot0 : FwSlot
  slot1 : FwSlot
  /-- Boot record: selected slot, SVN floor, revocation mask (Table 16-8). -/
  bootSlot : Nat
  svnFloor : Word
  revoked : List Nat
  /-- Active slot while the teller runs. -/
  active : Option Nat
  /-- Warm activation in progress: new slot, and the FW_ACTIVATE that asked for it. -/
  handover : Option (Nat × Nat × Word)
  /-- Handover block of eMRAM: gains (R445). -/
  handoverBlock : List Nat
  /-- FW_LOAD in progress: slot, ring, tag. -/
  loading : List (Nat × Nat × Word)
  /-- Operating times in ms of the watchdog expiries of the last hour (R434). -/
  restarts : List Nat
  /-- The teller is held in reset for a restart. -/
  tellerRestarting : Bool
  tellerDown : Bool
  cfgBad : Bool
  pufFail : Bool
  noImage : Bool
  /-- The key unit holds its seeds (R451). -/
  keyed : Bool
  /-- Leaf counter copies A and B with their complements' agreement (R453). -/
  leafA : Nat × Bool
  leafB : Nat × Bool
  /-- The traversal state agrees with the counter (R454). -/
  traversalOk : Bool
  batch : List Quote
  closed : List (Quote × Bytes)
  keyLowPosted : Bool
  keyOutPosted : Bool
  /-- Fault log in flash: events recorded by the teller (R432). -/
  log : List Evt
  deriving DecidableEq, Repr

/-- A resource of Table 17-6. -/
structure Resource where
  type : Nat
  index : Nat
  deriving DecidableEq, Repr

/-- An entry of the retirement record (Table 17-7): the time is in s of operating time. -/
structure Retired where
  res : Resource
  cause : Nat
  time : Nat
  deriving DecidableEq, Repr

structure Flt where
  /-- The retirement record (R473). -/
  retired : List Retired
  /-- Memory units retired and waiting for Boot. -/
  pendRet : List Resource
  /-- Units out of service for this Boot because they failed training (R485). -/
  outOfService : List Resource
  /-- Entries of the record that this Boot has applied. -/
  applied : List Resource
  /-- Recent corrected events (last 1 s) and uncorrected events (last 24 h) by resource, with their operating time in ms
  (R464, R470). -/
  ce : List (Resource × Nat)
  ue : List (Resource × Nat)
  /-- Lines already counted uncorrected until rewritten whole: 0 HBM, 1 vault; line number (R464). -/
  counted : List (Nat × Nat)
  /-- Operating time in ms at the last reset of the reference counter (R470). -/
  operating : Nat
  deriving DecidableEq, Repr

/-- What MACsec adds to a frame that is sent: the channel, its SCI, the association and the packet number (R351). -/
structure Secured where
  channel : Nat
  sci : Word64
  an : Nat
  pn : Word64
  deriving DecidableEq, Repr

/-- The Ethernet header of a frame that is sent: the addresses, the priority and VID of an 802.1Q tag, whose DEI is 0, what
MACsec adds, and the EtherType (R317, R346, R347, R351). -/
structure Ether where
  dst : BitVec 48
  src : BitVec 48
  tag : Option (Nat × BitVec 12)
  sec : Option Secured
  etherType : Half
  deriving DecidableEq, Repr

/-- What the block sends out on its boundary. -/
inductive Output where
  /-- A frame that a link sends, with its Ethernet header. -/
  | frame (link : Nat) (header : Ether) (f : Frame)
  /-- A frame to the own address, which takes no link. -/
  | loopback (f : Frame)
  | msix (vector : Nat) (addr : Word64) (data : Word)
  | lldpdu (link : Nat) (bytes : Bytes)
  | flowControl (link : Nat) (pfc : Bool) (priorities : List Nat) (quanta : Half)
  /-- The 32-bit answer to a register read. -/
  | read (value : Word)
  /-- An access answered with Unsupported Request (R395, R404). -/
  | unsupported
  /-- HDM data returned, with the CXL poison indication (R403, R465). -/
  | hdmData (bytes : Bytes) (poison : Bool)
  | snoopAnswer (line : Nat)
  | backInvalidate (line : Nat)
  /-- A read of host memory: address and length. -/
  | hostRead (addr n : Nat)
  /-- A write of host memory: address and bytes, and whether with poison (R72, R77, R251, R280, R458). -/
  | hostWrite (addr : Nat) (bytes : Bytes) (poison : Bool)
  /-- Light driven on lane 0 of a port: the wake code (R360). -/
  | wake (port : Nat) (code : Half)
  /-- A voltage write on a gallery's AVSBus, in mV (R510). -/
  | avsWrite (gallery mv : Nat)
  deriving DecidableEq, Repr

/-! ## The whole state -/

structure State where
  dev : Dev
  porter : Porter
  regs : Regs
  /-- Counter registers with access HV, by register key (Machine/Registers.lean). -/
  cnt : Table Word
  time : Time
  stw : Stw
  rings : Table Ring
  owners : Table Backlog
  tallies : Table Tally
  vectors : Table Vector
  parts : Table Partition
  settings : List Setting
  hbm : Memory
  vault : Memory
  pads : Memory
  bufs : Memory
  /-- Lines marked poisoned: HBM and vault by address / 64, scratchpads by (core × 262,144 + address) / 32 (R462). -/
  hbmPoison : List Nat
  vaultPoison : List Nat
  padPoison : List Nat
  cores : Table Core
  halls : Table Hall
  programs : List Program
  work : List Work
  /-- Number of the next program or work item admitted. -/
  nextId : Nat
  fab : Fabric
  ports : Table Port
  links : Table Link
  host : HostLink
  pwr : Power
  fw : Firmware
  flt : Flt
  out : List Output
  /-- Writes of host memory that wait because no UCIe module is up, oldest first (R400). -/
  hostWaits : List Output
  /-- Counter that the free values read (assumption log 8); the model's own, not the manual's. -/
  free : Nat
  /-- Parameters committed beyond the last whole 65,536 that MNT_PARAM counted (R283). -/
  mintParams : Nat
  /-- Commands that wait, first in first out. -/
  pending : List Instr
  deriving DecidableEq, Repr

/-! ## The state after reset -/

/-- A ring that nothing has enabled (R68, R79): Disabled, every other field 0 (assumption log 1). -/
def Ring.atReset : Ring :=
  { cls := 0, owner := 0, state := .disabled, k := 6, prod := 0, cons := 0, cpl := 0, base := 0, control := 0,
    vector := 0, countThr := 0, timeThr := 0, irqs := 0, cause := 0, fetched := [], due := 0, live := [], high := none,
    window := [], dups := [], reserved := 0, posted := [], waiting := [], backlog := [], lost := 0, closing := none }

/-- An owner backlog that holds nothing (R101). -/
def Backlog.atReset : Backlog := { events := [], lost := 0 }

/-- A tally that nothing has set (R103, R373). -/
def Tally.atReset : Tally := { value := 0, open_ := false }

/-- A vector after reset: masked, not pending (R408, assumption log 1). -/
def Vector.atReset : Vector := { masked := true, pending := false, addr := 0, data := 0 }

/-- A partition record that names nothing. -/
def PartRecord.none : PartRecord :=
  { wings := 0, hbmBase := 0, hbmSize := 0, vaultBase := 0, vaultSize := 0, ringFirst := 0, ringCount := 0,
    tallyFirst := 0, tallyCount := 0, vectorFirst := 0, vectorCount := 0, slotFirst := 0, slotCount := 0, context := 0,
    save := 0, ckpt := 0, stashBase := 0, stashSize := 0, kvBase := 0, kvSize := 0, hostBase := 0, hostSize := 0,
    raw := [] }

/-- A Free partition (R371). -/
def Partition.atReset : Partition :=
  { state := .free, record := PartRecord.none, scrub := false, wingsHeld := false, saveBusy := false,
    restoreBusy := false, evicted := false, startPend := false, takesAt := 0, saveAsked := none, fenceDue := false, cmds := [], holds := 0, fenced := 0,
    flight := none, plans := [], lastFlight := 0, replayDue := false, poison := none, shares := [0, 0, 0, 0],
    strict := [false, false, false, false], gens := [], hypers := [], watches := [], leases := [], stash := [],
    hbmLimit := 0, vaultLimit := 0, fallback := 0, returning := (0, 0), landed := { stash := [], leases := [] },
    layers := [], groups := [], queues := [], early := [], seqs := [], joins := 0, zeroing := [], placed := [], savedCores := [],
    savedPads := [], savedBufs := [], savedHalls := [], savedPadPoison := [] }

/-- A page that is Free (R165). -/
def PageImage.free : PageImage :=
  { state := .free, type := .fp32, nan := false, ovf := false, isat := false, loss := false, entries := [] }

/-- A page slot that nothing has opened. -/
def Page.atReset : Page :=
  { image := PageImage.free, ckpt := false, freeAtLanding := true, filling := false }

/-- A core whose array holds no tile and whose ledger is Free (R483 step 7). -/
def Core.atReset : Core :=
  { front := none, back := none, feeder := [], active := false, pages := [], cost := 0, reloading := false, undefined_ := false }

/-- A hall with nothing in flight. -/
def Hall.atReset : Hall := { ftq := [], dma := [], cost := 0 }

/-- A sequence slot that is Free (R299). -/
def SeqSlot.atReset : SeqSlot :=
  { state := .free, prio := 0, streams := [], i0 := 0, join := 0, extents := 0, parked := [], parkedPoison := [], copying := [], late := false }

/-- A secure channel entry that holds nothing (Table 12-7). -/
def Secy.atReset : Secy :=
  { valid := false, tx := false, link := 0, txAn := 0, xpn := false, window := 0,
    saValid := [false, false, false, false], sci := 0, sas := [] }

/-- A port after reset (Table 12-9). -/
def Port.atReset : Port :=
  { enable := false, breakout := false, wdEn := true, macsec := false, flow := 2, retired := [], xoff := 1536,
    xon := 1024, pauseWd := 2000, fecSym := 0x0400, fecUnc := 0x0004, occupancy := 0, xoffSent := false, channels := [] }

/-- A link after reset (Tables 12-10 and 12-11). -/
def Link.atReset : Link :=
  { stage := .dark, lldpTx := true, tag := false, strict := false, vid := 0, storm := [], paused := [], held := [],
    fecDegrade := false, remoteFault := false, localFault := false, lldp := [], lldpLen := 0, powers := [] }

/-- A firmware slot with no image. -/
def FwSlot.atReset : FwSlot := { state := .empty, image := [] }

/-- No power drawn (assumption log 1). -/
def PowerEstimate.none : PowerEstimate :=
  { dyn0 := 0, dyn1 := 0, leak0 := 0, leak1 := 0, other := 0, rails := 0, temps := [] }

/-- The machine right after the release of RESET_N at power-on: Boot, step 1, every register at its reset value
(R478, R482, R489, R494). -/
def State.reset : State :=
  { dev :=
      { state := .boot, faultCode := 0, bootStep := 1, bootMs := 0, shutdown := none, refused := false, resetN := true,
        mainEn := true, thermTrip := false, vaux := true, rails := true, fromOff := false, unbound := false,
        bootEpoch := 0, tripCause := 0, reverted := none }
    porter := { code := 0, searches := [] }
    regs :=
      { bootBases := [0, 0, 0, 0, 0, 0, 0, 0], bootEnable := false, bootErr := false, bootVector := 0,
        bootCtrlSize := 0, bootCplSize := 0, bootEvtSize := 0, iaSel := 0, iaAddr := 0, iaErr := false, hstTimeout := 0x32, hstRetryLim := 0x0100, attMinGap := 0, attWindow := 0x64,
        funcMask := false, wakeBusy := false, wakePort := 0, wakeCode := 0 }
    cnt := []
    time := { ref := 0, riserAt := 0, tread := 0, period := 32, kind := .normal }
    stw :=
      { state := .alone, members := [], leader := 0, bound := 8, run := 0, haltCause := 0, others := [], slips := [],
        holdsFor := [], haltAt := none, haltOwners := [], resumeAt := none, forming := none, offset := 0, badOffsets := 0,
        slew := 0, slewAt := 0, pathDelay := 0, probeT1 := none, sent := none, seen := [],
        leaderPending := (none, none, none), stepped := false }
    rings := []
    owners := []
    tallies := []
    vectors := []
    parts := []
    settings := []
    hbm := []
    vault := []
    pads := []
    bufs := []
    hbmPoison := []
    vaultPoison := []
    padPoison := []
    cores := []
    halls := []
    programs := []
    work := []
    nextId := 0
    fab :=
      { etype := 0x88B5, rto := 0x10, enable := false, domain := 0, device := 0, neighbours := [], routes := [],
        gateways := [], conns := [], requests := [], stallRest := 0, partial_ := [] }
    ports := []
    links := []
    host := { halves := [], halvesRetired := [], retraining := [], hdm := none, hostLines := [], accesses := [] }
    pwr :=
      { vf := 12, volts := [660, 660], fixed := false, boost := false, base := 12, floor := 12, cap := 800, tempStretch := [],
        currentStretch := [], droopStretch := [], mintThrottle := false, hbmThrottle := [], vaultThrottle := [],
        opticsOff := [], capUnmet := false, temps := [], last := PowerEstimate.none, peakDyn := [0, 0], peakLeak := [0, 0], peakOther := 0,
        gains := [1000, 1000], newGains := [1000, 1000], stretched := false, emergSince := false, clears := 0,
        touched := [] }
    fw :=
      { slot0 := FwSlot.atReset, slot1 := FwSlot.atReset, bootSlot := 0, svnFloor := 0, revoked := [], active := none,
        handover := none, handoverBlock := [], loading := [], restarts := [], tellerRestarting := false,
        tellerDown := false, cfgBad := false, pufFail := false, noImage := false, keyed := false, leafA := (0, true),
        leafB := (0, true), traversalOk := true, batch := [], closed := [], keyLowPosted := false,
        keyOutPosted := false, log := [] }
    flt :=
      { retired := [], pendRet := [], outOfService := [], applied := [], ce := [], ue := [], counted := [],
        operating := 0 }
    out := []
    hostWaits := []
    free := 0
    mintParams := 0
    pending := [] }

end Sys2Proof.Machine
end

