-- ==== Sys2Proof/Machine/Store.lean ====
section
/-!
DEFINITION. The named operations over sparse tables, byte memories and byte strings: every store of the model goes
through them. Multi-byte fields are little-endian (R8).
-/
namespace Sys2Proof.Machine

/-! ## Tables -/

/-- The value listed for key k. -/
def tget? {α : Type} : Table α → Nat → Option α
  | [], _ => none
  | (j, v) :: t, k => if j = k then some v else tget? t k

/-- The value of key k, d where none is listed. -/
def tget {α : Type} (d : α) (t : Table α) (k : Nat) : α := (tget? t k).getD d

/-- The table with v listed for key k, rising keys kept. -/
def tset {α : Type} : Table α → Nat → α → Table α
  | [], k, v => [(k, v)]
  | (j, w) :: t, k, v =>
    if k < j then (k, v) :: (j, w) :: t else if j = k then (k, v) :: t else (j, w) :: tset t k v

/-- The table with nothing listed for key k. -/
def tdel {α : Type} (t : Table α) (k : Nat) : Table α := t.filter (fun e => e.1 != k)

/-- The table with the value of key k changed by f. -/
def tmod {α : Type} (d : α) (t : Table α) (k : Nat) (f : α → α) : Table α := tset t k (f (tget d t k))

/-- The listed keys, rising. -/
def tkeys {α : Type} (t : Table α) : List Nat := t.map Prod.fst

/-- Every listed value changed by f. -/
def tmap {α β : Type} (t : Table α) (f : Nat → α → β) : Table β := t.map (fun e => (e.1, f e.1 e.2))

/-! ## Byte memories -/

/-- The byte at an address: 0 where nothing is listed (R483: Boot zeroes every store). -/
def Memory.get (m : Memory) (a : Nat) : Byte := tget 0 m a

/-- The memory with byte b at address a, in canonical form. -/
def Memory.set (m : Memory) (a : Nat) (b : Byte) : Memory := if b = 0 then tdel m a else tset m a b

/-- The n bytes from address a, the lowest first. -/
def Memory.read (m : Memory) (a : Nat) : Nat → Bytes
  | 0 => []
  | n + 1 => m.get a :: m.read (a + 1) n

/-- The memory with the bytes bs from address a. -/
def Memory.write (m : Memory) (a : Nat) : Bytes → Memory
  | [] => m
  | b :: bs => (m.set a b).write (a + 1) bs

/-- The memory with n zero bytes from address a. -/
def Memory.zero (m : Memory) (a n : Nat) : Memory := m.filter (fun c => c.1 < a || a + n ≤ c.1)

/-- The listed cells of n bytes from address a, as a memory that starts at 0. -/
def Memory.slice (m : Memory) (a n : Nat) : Memory :=
  (m.filter (fun c => a ≤ c.1 && c.1 < a + n)).map (fun c => (c.1 - a, c.2))

/-- The memory whose n bytes from address a are those of the slice `src`. -/
def Memory.paste (m : Memory) (a n : Nat) (src : Memory) : Memory :=
  (src.filter (fun c => c.1 < n)).foldl (fun acc c => acc.set (a + c.1) c.2) (m.zero a n)

/-- The memory with the n bytes that f gives from address a, the highest first. -/
def Memory.fill (m : Memory) (a : Nat) (f : Nat → Byte) : Nat → Memory
  | 0 => m
  | n + 1 => (m.set (a + n) (f n)).fill a f n

/-- Rising addresses and no zero byte. -/
def Memory.wf : Memory → Bool
  | [] => true
  | [(_, b)] => b != 0
  | (a, b) :: (c, d) :: t => b != 0 && a < c && Memory.wf ((c, d) :: t)

/-! ## Byte strings -/

/-- The byte at an offset, 0 beyond the end. -/
def byteAt (bs : Bytes) (o : Nat) : Nat := (bs.getD o 0).toNat

/-- The unsigned value of a byte string, the byte of offset 0 least significant (R8). -/
def leNat : Bytes → Nat
  | [] => 0
  | b :: bs => b.toNat + 256 * leNat bs

/-- n bytes from offset o, zeros beyond the end. -/
def sub (bs : Bytes) (o n : Nat) : Bytes := (List.range n).map (fun i => bs.getD (o + i) 0)

/-- A 16-bit field at an offset. -/
def u16 (bs : Bytes) (o : Nat) : Nat := byteAt bs o + 256 * byteAt bs (o + 1)
/-- A 32-bit field at an offset. -/
def u32 (bs : Bytes) (o : Nat) : Nat := u16 bs o + 0x10000 * u16 bs (o + 2)
/-- A 64-bit field at an offset. -/
def u64 (bs : Bytes) (o : Nat) : Nat := u32 bs o + 0x100000000 * u32 bs (o + 4)

/-- Bits [lo+w-1:lo] of a number (R7). -/
def bits (v lo w : Nat) : Nat := v / 2 ^ lo % 2 ^ w

/-- Bit i of a number. -/
def bit (v i : Nat) : Bool := v / 2 ^ i % 2 == 1

/-- A number as n bytes, little-endian. -/
def toLE (v : Nat) : Nat → Bytes
  | 0 => []
  | n + 1 => BitVec.ofNat 8 v :: toLE (v / 256) n

/-- A flag as a bit value. -/
def b2n (b : Bool) : Nat := if b then 1 else 0

/-- A number below 2^w read as two's complement. -/
def signed (w v : Nat) : Int := if v < 2 ^ (w - 1) then (v : Int) else (v : Int) - 2 ^ w

/-- An integer as a w-bit two's-complement code. -/
def unsignedOf (w : Nat) (v : Int) : Nat := (v % (2 ^ w : Int)).toNat

/-- Whether the byte ranges [a, a+n) and [b, b+m) share a byte. -/
def overlaps (a n b m : Nat) : Bool := a < b + m && b < a + n

/-- The numbers from a up, n of them. -/
def upFrom (a n : Nat) : List Nat := (List.range n).map (a + ·)

/-- The set bits of a mask below w, rising. -/
def setBits (v w : Nat) : List Nat := (List.range w).filter (bit v)

/-- The mask whose set bits are the listed numbers. -/
def maskOf (l : List Nat) : Nat := l.eraseDups.foldl (fun acc i => acc + 2 ^ i) 0

/-- The list with element i replaced by v. -/
def setAt {α : Type} (l : List α) (i : Nat) (v : α) : List α := l.set i v

/-- Serial order of 32-bit tags and indices (R97): t is newer than u. -/
def newer (t u : Word) : Bool := let d := (t - u).toNat; 1 ≤ d && d < 2 ^ 31

end Sys2Proof.Machine
end

