-- ==== Sys2Proof/Machine/Ops.lean ====
section
/-!
DEFINITION. The operations that every meaning shares: the gate of a command, the parts of the state by number, counters,
events, completions and interrupts (03_command_rings.md, 18_start_up.md).
-/
namespace Sys2Proof.Machine

/-- What a command answers. -/
abbrev Result := Host.Outcome State Fault Refusal

/-! ## Gates (R478, R495) -/

/-- The effect f, unless an RSV field has been changed since the last cold reset (R495, assumption log 6). -/
def whenBound (s : State) (f : State → State) : Result :=
  if s.dev.unbound then .fault .testControl else .next (f s)

/-- Whether the device is Ready or Running with its rails in range (Table 18-1, R487). -/
def State.isUp (s : State) : Bool := s.dev.state == .up && s.dev.rails

/-- Whether the device is in Boot, Ready or Running with its rails in range. -/
def State.isOn (s : State) : Bool := (s.dev.state == .up || s.dev.state == .boot) && s.dev.rails

/-- The effect f in Ready and Running; in the other states of Table 18-1 the command's event does not arise and nothing
changes (assumption log 3). -/
def whenUp (s : State) (f : State → State) : Result := whenBound s (fun s => if s.isUp then f s else s)

/-- The effect f in Boot, Ready and Running, in which the galleries and the banister are powered and not stopped. -/
def whenOn (s : State) (f : State → State) : Result := whenBound s (fun s => if s.isOn then f s else s)

/-- As `whenUp`, for a command with data that a bus carries only in the form `ok`. -/
def whenUpWf (ok : Bool) (mnemonic : String) (s : State) (f : State → State) : Result :=
  if ok then whenUp s f else .refused (.illFormed mnemonic)

/-! ## Parts of the state -/

/-- Ring n (R68). -/
def State.ring (s : State) (n : Nat) : Ring := tget Ring.atReset s.rings n
/-- The state with ring n replaced. -/
def State.setRing (s : State) (n : Nat) (r : Ring) : State := { s with rings := tset s.rings n r }
/-- The state with ring n changed by f. -/
def State.modRing (s : State) (n : Nat) (f : Ring → Ring) : State := s.setRing n (f (s.ring n))

/-- Partition p (R364). -/
def State.part (s : State) (p : Nat) : Partition := tget Partition.atReset s.parts p
/-- The state with partition p replaced. -/
def State.setPart (s : State) (p : Nat) (q : Partition) : State := { s with parts := tset s.parts p q }
/-- The state with partition p changed by f. -/
def State.modPart (s : State) (p : Nat) (f : Partition → Partition) : State := s.setPart p (f (s.part p))

/-- Core c (R16). -/
def State.core (s : State) (c : Nat) : Core := tget Core.atReset s.cores c
/-- The state with core c replaced. -/
def State.setCore (s : State) (c : Nat) (x : Core) : State := { s with cores := tset s.cores c x }
/-- The state with core c changed by f. -/
def State.modCore (s : State) (c : Nat) (f : Core → Core) : State := s.setCore c (f (s.core c))

/-- Hall h (R16). -/
def State.hall (s : State) (h : Nat) : Hall := tget Hall.atReset s.halls h
/-- The state with hall h changed by f. -/
def State.modHall (s : State) (h : Nat) (f : Hall → Hall) : State := { s with halls := tset s.halls h (f (s.hall h)) }

/-- Tally t (R103). -/
def State.tally (s : State) (t : Nat) : Tally := tget Tally.atReset s.tallies t
/-- The state with tally t replaced. -/
def State.setTally (s : State) (t : Nat) (v : Tally) : State := { s with tallies := tset s.tallies t v }

/-- MSI-X vector v (R408). -/
def State.vector (s : State) (v : Nat) : Vector := tget Vector.atReset s.vectors v
/-- The state with vector v replaced. -/
def State.setVector (s : State) (v : Nat) (x : Vector) : State := { s with vectors := tset s.vectors v x }

/-- Port q (R341). -/
def State.port (s : State) (q : Nat) : Port := tget Port.atReset s.ports q
/-- The state with port q changed by f. -/
def State.modPort (s : State) (q : Nat) (f : Port → Port) : State := { s with ports := tset s.ports q (f (s.port q)) }

/-- Link n (R313). -/
def State.link (s : State) (n : Nat) : Link := tget Link.atReset s.links n
/-- The state with link n changed by f. -/
def State.modLink (s : State) (n : Nat) (f : Link → Link) : State := { s with links := tset s.links n (f (s.link n)) }

/-- Owner backlog of owner o (R101). -/
def State.ownerBacklog (s : State) (o : Nat) : Backlog := tget Backlog.atReset s.owners o
/-- The state with the backlog of owner o replaced. -/
def State.setOwnerBacklog (s : State) (o : Nat) (b : Backlog) : State := { s with owners := tset s.owners o b }

/-- The state with one more output. -/
def State.emit (s : State) (o : Output) : State := { s with out := s.out ++ [o] }

/-- A free value, and the state whose free counter has moved on (assumption log 8). -/
def State.fresh (s : State) : Word × State := (Config.freeWord s.free, { s with free := s.free + 1 })

/-- Gallery of a core. -/
def galleryOfCore (c : Nat) : Nat := c / 2048

/-- Key of counter i of a block with one set per gallery (Table 19-2). -/
def kGal (block i core : Nat) : Nat := block * 0x10000 + 0x10 + 0x20 * galleryOfCore core + 4 * i

/-- The owner code of the device domain (R68). -/
def deviceOwner : Nat := 0xFF

/-- The admitted program of a number. -/
def State.program? (s : State) (id : Nat) : Option Program := s.programs.find? (fun g => g.id == id)
/-- The state with program g in place of the program of its number. -/
def State.setProgram (s : State) (g : Program) : State :=
  { s with programs := s.programs.map (fun h => if h.id == g.id then g else h) }
/-- The work item of a number. -/
def State.work? (s : State) (id : Nat) : Option Work := s.work.find? (fun w => w.id == id)
/-- The state with work item w in place of the item of its number. -/
def State.setWork (s : State) (w : Work) : State := { s with work := s.work.map (fun v => if v.id == w.id then w else v) }
/-- The state without the work item of a number. -/
def State.dropWork (s : State) (id : Nat) : State := { s with work := s.work.filter (fun w => w.id != id) }

/-! ## Counters (R10, R11) -/

/-- The counter register of a key: its address in the direct window, or (space + 1) × 2^32 + its indirect address. -/
def State.counter (s : State) (key : Nat) : Word := tget 0 s.cnt key

/-- The state whose counter has counted n more, modulo 2^32 (R11). -/
def State.bump (s : State) (key : Nat) (n : Nat := 1) : State :=
  if n = 0 then s else { s with cnt := tset s.cnt key (s.counter key + BitVec.ofNat 32 n) }

/-- Key of a counter in an indirect space. -/
def indirectKey (space addr : Nat) : Nat := (space + 1) * 0x100000000 + addr

/-! ## Time (R29, R30) -/

/-- The tread phase: reference cycles since the riser, divided by 8 (R30). -/
def State.phase (s : State) : Half := BitVec.ofNat 16 ((s.time.ref - s.time.riserAt) / 8)

/-- Whether gallery-side work runs: not while the stairwell is Halted (R55). -/
def State.halted (s : State) : Bool := s.time.kind == .halted

/-! ## Host memory (R72, R400) -/

/-- What goes to the host: while no UCIe module is up it waits, after what waits already (R400). -/
def sendHost (o : Output) (s : State) : State :=
  if s.host.halves.isEmpty then { s with hostWaits := s.hostWaits ++ [o] } else s.emit o

/-- A write of host memory (R400). -/
def toHost (addr : Nat) (bytes : Bytes) (poison : Bool) (s : State) : State := sendHost (.hostWrite addr bytes poison) s

/-- What waits for the host goes, in order, once a module is up (R400). -/
def flushHost (s : State) : State :=
  if s.host.halves.isEmpty then s else { s with out := s.out ++ s.hostWaits, hostWaits := [] }

/-! ## Interrupts (R108, R408) -/

/-- A firing of vector v: a message after every record that caused it, or the pending bit while the vector or the function
is masked. -/
def fireVector (v : Nat) (s : State) : State :=
  let x := s.vector v
  if x.masked || s.regs.funcMask then s.setVector v { x with pending := true } else sendHost (.msix v x.addr x.data) s

/-- One more pending entry on ring n, and the firing that it causes (R108). -/
def countEntry (n : Nat) (s : State) : State :=
  let r := s.ring n
  if r.countThr ≠ 0 ∧ r.countThr ≤ r.irqs + 1 then fireVector r.vector (s.setRing n { r with irqs := 0 })
  else s.setRing n { r with irqs := r.irqs + 1 }

/-! ## Records (R78, R93, R100) -/

/-- Number of entries of a ring (R72). -/
def Ring.size (r : Ring) : Nat := 2 ^ r.k

/-- (P - C) mod 2^32 (R73). -/
def Ring.occupancy (r : Ring) : Nat := (r.prod - r.cons).toNat

/-- The phase bit of the record that a ring writes next (R78). -/
def Ring.phase (r : Ring) : Bool := r.prod.toNat / r.size % 2 == 0

/-- The ring with one more record written. -/
def Ring.put (r : Ring) (x : Rec) : Ring := { r with posted := r.posted ++ [x], prod := r.prod + 1 }

/-- Bytes of an entry of a ring: a descriptor, or a record (R68, R72). -/
def Ring.entryBytes (r : Ring) : Nat := if r.cls ≤ 5 then 64 else 32

/-- Host address of the entry with index i (R72). -/
def Ring.entryAddr (r : Ring) (i : Word) : Nat := r.base.toNat + i.toNat % r.size * r.entryBytes

/-- The ring control block (R77, Table 3-2). -/
def Ring.controlBlock (r : Ring) : Bytes :=
  toLE (if r.cls ≤ 5 then r.cons.toNat else r.prod.toNat) 4 ++
    [match r.state with | .disabled => 0 | .enabled => 1 | .paused => 2 | .error => 3, BitVec.ofNat 8 r.cause, 0, 0] ++
    toLE (if r.cls ≤ 5 then (r.high.getD 0).toNat else 0) 4 ++ toLE 0 52

/-- The control block of ring n written to host memory (R77). -/
def tellBlock (n : Nat) (s : State) : State := toHost (s.ring n).control.toNat (s.ring n).controlBlock false s

/-- A change of ring n, with its control block written when a field of it changed (R77). -/
def telling (n : Nat) (f : State → State) (s : State) : State :=
  let t := f s
  if (t.ring n).controlBlock = (s.ring n).controlBlock then t else tellBlock n t

/-- The 32 bytes of a completion record (Table 3-11). -/
def Cpl.bytes (phase : Bool) (c : Cpl) : Bytes :=
  toLE c.tag.toNat 4 ++ toLE (128 * (if phase then 1 else 0) + c.status % 64) 1 ++ toLE c.detail 1 ++ toLE c.ring 2 ++
    toLE c.result.toNat 8 ++ toLE c.tread.toNat 6 ++ toLE c.phase.toNat 2 ++ toLE c.aux.toNat 8

/-- The 32 bytes of an event record in EVENT ring n (Table 3-13). -/
def Evt.bytes (n : Nat) (phase : Bool) (e : Evt) : Bytes :=
  toLE e.code.toNat 2 ++ toLE e.owner 1 ++ toLE (e.severity % 4) 1 ++ toLE (128 * (if phase then 1 else 0)) 1 ++ toLE 0 1 ++
    toLE n 2 ++ toLE e.source.toNat 8 ++ toLE e.tread.toNat 6 ++ toLE e.phase.toNat 2 ++ toLE e.payload.toNat 8

/-- The bytes of a record in ring n. -/
def Rec.bytes (n : Nat) : Rec → Bytes
  | .cpl p c => c.bytes p
  | .evt p e => e.bytes n p

/-- Record x written into ring n at its producer index, and the control block with the new index (R72, R77). -/
def writeRec (n : Nat) (x : Rec) (s : State) : State :=
  let r := s.ring n
  tellBlock n (toHost (r.entryAddr r.prod) (x.bytes n) false (s.setRing n (r.put x)))

/-- The code of a ring state (Table 3-3). -/
def RingState.code : RingState → Nat
  | .disabled => 0
  | .enabled => 1
  | .paused => 2
  | .error => 3

/-- Whether a ring is not Disabled. -/
def Ring.live? (r : Ring) : Bool := r.state != .disabled

/-! ## Events (R70, R100, R101) -/

/-- Counter RNG_EVT_LOST. -/
def kEvtLost : Nat := 0x030028
/-- Counter RNG_DB_IGNORED. -/
def kDbIgnored : Nat := 0x030024

/-- Event e written into EVENT ring n. -/
def writeEvent (n : Nat) (e : Evt) (s : State) : State :=
  countEntry n (writeRec n (.evt (s.ring n).phase e) s)

/-- The record EVENT_LOST of ring n (R100). -/
def lostEvent (n : Nat) (s : State) : Evt :=
  { code := 0x2002, owner := (s.ring n).owner, severity := 1, source := BitVec.ofNat 64 n, tread := s.time.tread,
    phase := s.phase, payload := BitVec.ofNat 64 (s.ring n).lost }

/-- The backlog of EVENT ring n drained into free entries, then EVENT_LOST; `fuel` bounds the records written. In Fault no
record is posted (Table 18-1). -/
def drainEvents (n : Nat) : Nat → State → State
  | 0, s => s
  | fuel + 1, s =>
    let r := s.ring n
    if r.state = .enabled ∧ r.occupancy < r.size ∧ s.dev.state ≠ .fault then
      match r.backlog with
      | e :: rest => drainEvents n fuel (writeEvent n e (s.setRing n { r with backlog := rest }))
      | [] =>
        if r.lost = 0 then s
        else drainEvents n fuel (writeEvent n (lostEvent n s) (s.setRing n { r with lost := 0 }))
    else s

/-- Event e handed to EVENT ring n: at once, into the backlog, or lost (R101). -/
def deliverEvent (e : Evt) (s : State) (n : Nat) : State :=
  let r := s.ring n
  if r.backlog.length < 64 then drainEvents n 66 (s.setRing n { r with backlog := r.backlog ++ [e] })
  else (s.setRing n { r with lost := r.lost + 1 }).bump kEvtLost

/-- The EVENT rings of an owner that are not Disabled, rising (R70). -/
def eventRings (o : Nat) (s : State) : List Nat :=
  (tkeys s.rings).filter (fun n => let r := s.ring n; r.cls == 6 && r.owner == o && r.live?)

/-- Event e handed to every EVENT ring of its owner, or to the owner backlog (R70, R101). -/
def deliver (e : Evt) (s : State) : State :=
  match eventRings e.owner s with
  | [] =>
    let b := s.ownerBacklog e.owner
    if b.events.length < 64 then s.setOwnerBacklog e.owner { b with events := b.events ++ [e] }
    else (s.setOwnerBacklog e.owner { b with lost := b.lost + 1 }).bump kEvtLost
  | l => l.foldl (deliverEvent e) s

/-- Whether the teller enters an event in the fault log in flash: the device-domain events of the fault, power and
firmware classes, while it runs (R432, R434). -/
def logged (e : Evt) (s : State) : Bool :=
  e.owner == deviceOwner && [4, 7, 8].contains (e.code.toNat / 4096) && !s.fw.tellerDown && !s.fw.tellerRestarting

/-- The event of a code, severity, source and payload, for owner o, arisen now (Table 3-13). -/
def postEvent (o code severity source payload : Nat) (s : State) : State :=
  let e : Evt :=
    { code := BitVec.ofNat 16 code, owner := o, severity := severity, source := BitVec.ofNat 64 source,
      tread := s.time.tread, phase := s.phase, payload := BitVec.ofNat 64 payload }
  deliver e (if logged e s then { s with fw := { s.fw with log := s.fw.log ++ [e] } } else s)

/-! ## Completions (R93 to R99) -/

/-- Completion c written into CPL ring n (R93, R108). -/
def writeCpl (n : Nat) (c : Cpl) (s : State) : State :=
  let s := writeRec n (.cpl (s.ring n).phase c) s
  if c.counts then countEntry n s else s

/-- Completions that wait on CPL ring n, written while the ring is Enabled; in Fault no record is posted (Table 18-1). -/
def drainCpls (n : Nat) : Nat → State → State
  | 0, s => s
  | fuel + 1, s =>
    let r := s.ring n
    if r.state = .enabled ∧ s.dev.state ≠ .fault then
      match r.waiting with
      | c :: rest => drainCpls n fuel (writeCpl n c (s.setRing n { r with waiting := rest }))
      | [] => s
    else s

/-- Completion c posted to CPL ring n: it waits while the ring is Paused or in Error (Table 3-3). -/
def postCpl (n : Nat) (c : Cpl) (s : State) : State :=
  let s := s.modRing n (fun r => { r with waiting := r.waiting ++ [c] })
  drainCpls n (s.ring n).waiting.length s

/-- The completion record of a descriptor of ring rn at this moment (Table 3-11). -/
def record (rn : Nat) (tag : Word) (status detail result aux : Nat) (counts : Bool) (s : State) : Cpl :=
  { tag := tag, status := status, detail := detail % 256, ring := rn, result := BitVec.ofNat 64 result,
    tread := s.time.tread, phase := s.phase, aux := BitVec.ofNat 64 aux, counts := counts }

/-- A completion of ring rn posted to its CPL ring (R69). -/
def postFor (rn : Nat) (tag : Word) (status detail result aux : Nat) (counts : Bool) (s : State) : State :=
  postCpl (s.ring rn).cpl (record rn tag status detail result aux counts s) s

/-- k slots of CPL ring n given back (R95). -/
def releaseSlots (n k : Nat) (s : State) : State := s.modRing n (fun r => { r with reserved := r.reserved - k })

/-- The DONE_REPLAY of duplicate l, for the final completion w (R98). -/
def postReplay (rn : Nat) (w : Final) (s : State) (l : Live) : State :=
  let s := releaseSlots (s.ring rn).cpl l.slots s
  postFor rn l.tag 0x01 w.status w.result.toNat w.aux.toNat l.irq s

/-- The replay window with one more final completion: the newest 256 (R99). -/
def pushWindow (w : List Final) (f : Final) : List Final := (w ++ [f]).drop (w.length + 1 - 256)

/-- The final completion of the accepted descriptor `tag` of ring rn: its slots are given back, the record is posted,
the window takes it, and its duplicates complete after it (R95, R96, R98, R99). -/
def finishOne (rn : Nat) (tag : Word) (status detail result aux : Nat) (s : State) : State :=
  let r := s.ring rn
  match r.live.find? (fun l => l.tag == tag) with
  | none => s
  | some l =>
    let w : Final :=
      { tag := tag, status := status, result := BitVec.ofNat 64 result, aux := BitVec.ofNat 64 aux }
    let dups := r.dups.filter (fun d => d.tag == tag)
    let s := s.setRing rn
      { r with live := r.live.filter (fun d => d.tag != tag), window := pushWindow r.window w,
               dups := r.dups.filter (fun d => d.tag != tag) }
    let s := releaseSlots r.cpl l.slots s
    let s := postCpl r.cpl { record rn tag status detail result aux l.irq s with first := decide (l.opcode < 16) } s
    dups.foldl (postReplay rn w) s

/-- Completions of ring rn that have not posted yet: they wait on its CPL ring, which is Paused or in Error (Table 3-3). -/
def unposted (rn : Nat) (s : State) : List Cpl := (s.ring (s.ring rn).cpl).waiting.filter (fun c => c.ring == rn)

/-- Whether a submission ring that is not Disabled posts to CPL ring n (R82). -/
def feeds (n : Nat) (s : State) : Bool :=
  (tkeys s.rings).any (fun m => let r := s.ring m; decide (r.cls ≤ 5) && r.live? && r.cpl == n)

/-- The rings whose disabling has nothing more to wait for: every admitted descriptor has posted its final completion
(R81, R82). -/
def closable (s : State) : List Nat :=
  (tkeys s.rings).filter (fun n =>
    let r := s.ring n
    r.closing.isSome && r.live.isEmpty && (unposted n s).isEmpty && !(r.cls == 7 && feeds n s))

/-- Ring n goes to Disabled, and the RING_DISABLE that asked for it completes with the number of descriptors aborted and
the consumer index (R81). -/
def closeRing (n : Nat) (s : State) : State :=
  let r := s.ring n
  match r.closing with
  | none => s
  | some c =>
    let s := telling n (fun s => s.setRing n { r with state := .disabled, cause := 0, closing := none, fetched := [] }) s
    match c.by_ with
    | none => s
    | some (rn, tag) => finishOne rn tag 0x00 0 c.aborted r.cons.toNat s

/-- Boot ring n: class, size register, base and control block; rings 1 and 2 take a count threshold of 1 (R109). -/
def bootRing (cls size base control : Nat) (s : State) : Ring :=
  { Ring.atReset with
    cls := cls, owner := deviceOwner, state := .enabled, k := 6 + size, cpl := 1, base := BitVec.ofNat 64 base,
    control := BitVec.ofNat 64 control, vector := if cls = 5 then 0 else s.regs.bootVector.toNat,
    countThr := if cls = 5 then 0 else 1 }

/-- The owner backlog delivered to EVENT ring n, in order before any later event (R101). -/
def adoptBacklog (n : Nat) (s : State) : State :=
  let r := s.ring n
  let b := s.ownerBacklog r.owner
  let s := s.setOwnerBacklog r.owner Backlog.atReset
  drainEvents n 66 (s.setRing n { r with backlog := b.events, lost := b.lost })

/-- The 64-bit value of a pair of boot base registers: 0 CTRL, 1 CPL, 2 EVT, 3 control blocks (Table 3-17). -/
def bootBase (i : Nat) (s : State) : Nat :=
  (s.regs.bootBases.getD (2 * i) 0).toNat + 2 ^ 32 * (s.regs.bootBases.getD (2 * i + 1) 0).toNat

/-- Rings 0 to 2 Enabled from their registers (R109). DESIGN CHOICE: also as a fifth EVENT ring of the device domain, for
which the boot registers have no outcome (R70; assumption log 99). -/
def enableBootRings (s : State) : State :=
  let g := s.regs
  let cb := bootBase 3 s
  let s := tellBlock 0 (s.setRing 0 (bootRing 5 g.bootCtrlSize.toNat (bootBase 0 s) cb s))
  let s := tellBlock 1 (s.setRing 1 (bootRing 7 g.bootCplSize.toNat (bootBase 1 s) (cb + 64) s))
  let s := tellBlock 2 (s.setRing 2 (bootRing 6 g.bootEvtSize.toNat (bootBase 2 s) (cb + 128) s))
  adoptBacklog 2 s

/-- Whether rings 0 to 2 are all Disabled. -/
def bootDown (s : State) : Bool := !(s.ring 0).live? && !(s.ring 1).live? && !(s.ring 2).live?

/-- Boot rings that were enabled while they still closed come up once they are Disabled (assumption log 20), but not in an orderly
shutdown, which has ended them (Table 18-7). -/
def bootWaits (s : State) : State :=
  if s.regs.bootEnable && !s.regs.bootErr && bootDown s && s.dev.shutdown.isNone then enableBootRings s else s

/-- Every ring that can go to Disabled does; `fuel` bounds the chain of disables that end one another. -/
def closeRings : Nat → State → State
  | 0, s => s
  | fuel + 1, s =>
    match closable s with
    | [] => s
    | n :: _ => closeRings fuel (bootWaits (closeRing n s))

/-- The final completion of a descriptor and the disables that waited for it (R81, R95). -/
def finish (rn : Nat) (tag : Word) (status detail result aux : Nat) (s : State) : State :=
  let s := finishOne rn tag status detail result aux s
  closeRings s.rings.length s

/-- The interim completion DEFERRED of a descriptor: it uses one of its two slots (R94, R95). -/
def interim (rn : Nat) (tag : Word) (detail result aux : Nat) (s : State) : State :=
  let r := s.ring rn
  let s := s.setRing rn
    { r with live := r.live.map (fun l => if l.tag == tag then { l with slots := l.slots - 1 } else l) }
  let s := releaseSlots r.cpl 1 s
  postFor rn tag 0x08 detail result aux false s

/-! ## Taking a descriptor (R87, R90) -/

/-- A FENCE descriptor waits until every earlier descriptor of its ring has posted its final completion (R87). -/
def fenceHolds (rn : Nat) (f : Fetched) (s : State) : Bool :=
  bit (byteAt f.bytes 1) 0 &&
    ((match (s.ring rn).live with | [] => false | l :: _ => l.tag != f.tag) ||
      (unposted rn s).any (fun c => c.status != 0x08 && newer f.tag c.tag))

/-- Descriptors behind one of class 0x0 wait until it has posted its final completion (R90). -/
def orderHolds (rn : Nat) (s : State) : Bool := (unposted rn s).any Cpl.first

/-- Whether an opcode is admitted into treads: classes 0x1 to 0x3 and the usher opcodes (R90, R284). -/
def treadOp (op : Nat) : Bool := (0x10 ≤ op && op < 0x40) || (0x50 ≤ op && op ≤ 0x54)

/-- The descriptor at the head of ring rn, when the ring admits and the opcode is `op` (Table 3-3, R87); work is
admitted only at risers, so a descriptor of a tread must have stood in the ring at the last one (R40, R41). -/
def headOf (op rn : Nat) (s : State) : Option Fetched :=
  let r := s.ring rn
  match r.fetched with
  | [] => none
  | f :: _ =>
    if r.state = .enabled ∧ byteAt f.bytes 0 = op ∧ fenceHolds rn f s = false ∧ orderHolds rn s = false ∧
        (treadOp op = true → 0 < r.due) then some f
    else none

/-- Ring rn without its head descriptor, which is taken. -/
def popHead (rn : Nat) (s : State) : State :=
  s.modRing rn (fun r => { r with fetched := r.fetched.tail, due := r.due - 1 })

/-- The head of ring rn waits at this riser, and with it the rest of the ring: the next riser decides again (R40). -/
def holdHead (rn : Nat) (s : State) : State := s.modRing rn (fun r => { r with due := 0 })

/-- The descriptors at the front of ring n that the scheduler may admit at a riser (R40, R41, R87, R90). -/
def dueNow (n : Nat) (r : Ring) (s : State) : Nat :=
  if r.state = .enabled ∧ orderHolds n s = false then
    (r.fetched.takeWhile (fun f => treadOp (byteAt f.bytes 0) && !fenceHolds n f s)).length
  else 0

/-- The effect k of the head descriptor of ring rn, which must have opcode `op`; with no such head nothing changes
(assumption log 3). k gets the state from which the descriptor has been taken. -/
def withHead (op rn : Nat) (s : State) (k : Fetched → State → State) : State :=
  match headOf op rn s with
  | none => s
  | some f => k f (popHead rn s)

/-! ## Shares (R365, R366) -/

/-- Whether n lies in a share of `count` numbers from `first`. -/
def inShare (first count n : Nat) : Bool := first ≤ n && n < first + count

/-- The partition whose share, chosen by `pick`, holds number n; the device domain where none does. -/
def holder (pick : PartRecord → Nat × Nat) (n : Nat) (s : State) : Nat :=
  match (tkeys s.parts).find? (fun p =>
    let q := s.part p
    q.state != .free && inShare (pick q.record).1 (pick q.record).2 n) with
  | some p => p
  | none => deviceOwner

/-- The holder of ring number n (R83). -/
def ringHolder (n : Nat) (s : State) : Nat := holder (fun r => (r.ringFirst, r.ringCount)) n s
/-- The holder of tally t (R103). -/
def tallyHolder (t : Nat) (s : State) : Nat := holder (fun r => (r.tallyFirst, r.tallyCount)) t s
/-- The holder of vector v (R108). -/
def vectorHolder (v : Nat) (s : State) : Nat := holder (fun r => (r.vectorFirst, r.vectorCount)) v s

end Sys2Proof.Machine
end

