-- ==== Sys2Proof/Machine/Faults.lean ====
section
/-!
DEFINITION. Poison, events of corrected and uncorrected errors, thresholds and retirement (17_faults_and_availability.md),
and the accesses to HBM, vault and scratchpad that carry poison marks.
-/
namespace Sys2Proof.Machine

/-- Counter FLT_CE and those after it (Table 17-10). -/
def kCe : Nat := 0x0D0010
/-- Counter FLT_UE. -/
def kUe : Nat := 0x0D0014
/-- Counter FLT_RETRY. -/
def kRetry : Nat := 0x0D0018
/-- Counter FLT_POISON. -/
def kPoison : Nat := 0x0D001C
/-- Counter FLT_ABORT. -/
def kAbort : Nat := 0x0D0020

/-! ## Capacity (R471, R485) -/

/-- Pseudo-channels out of the interleave since Boot. -/
def hbmOut (s : State) : List Nat :=
  ((s.flt.applied.filter (fun r => r.type == 1)) ++ (s.flt.outOfService.filter (fun r => r.type == 1))).map Resource.index
    |>.eraseDups

/-- Vault channels out of the interleave since Boot. -/
def vaultOut (s : State) : List Nat :=
  ((s.flt.applied.filter (fun r => r.type == 2)) ++ (s.flt.outOfService.filter (fun r => r.type == 2))).map Resource.index
    |>.eraseDups

/-- Usable HBM pseudo-channels (Table 17-9). -/
def hbmPc (s : State) : Nat := 256 - (hbmOut s).length
/-- Usable vault channels. -/
def vaultCh (s : State) : Nat := 64 - (vaultOut s).length
/-- First byte beyond the usable HBM range. -/
def hbmUsable (s : State) : Nat := hbmPc s * 0x100000000
/-- First extent beyond the usable vault range. -/
def vaultUsable (s : State) : Nat := vaultCh s * 1048576

/-- The pseudo-channel of an HBM address: 256-byte interleave over the channels in service (R365). -/
def pcOfAddr (s : State) (a : Nat) : Nat :=
  ((List.range 256).filter (fun c => !(hbmOut s).contains c)).getD (a / 256 % (hbmPc s)) 0

/-- The vault channel of a vault address: 4,096-byte interleave over the channels in service (R255, R471). -/
def vaultChOfAddr (s : State) (a : Nat) : Nat :=
  ((List.range 64).filter (fun c => !(vaultOut s).contains c)).getD (a / 4096 % (vaultCh s)) 0

/-- The stack, and its vault controller, that a channel belongs to (R255). -/
def vaultStack (channel : Nat) : Nat := channel / 8

/-! ## Events and retirement (R464, R470, R471, R472, R475) -/

/-- A resource as the source of an event (R475). -/
def Resource.code (r : Resource) : Nat := 65536 * r.type + r.index

/-- Operating time in ms (R470). -/
def operatingNow (s : State) : Nat := s.flt.operating + s.time.ref / 1400000

/-- Whether the teller runs and takes its decisions (R434, R470). -/
def tellerUp (s : State) : Bool := !s.fw.tellerDown && !s.fw.tellerRestarting

/-- The state with the fault section changed. -/
def modFlt (s : State) (f : Flt → Flt) : State := { s with flt := f s.flt }

/-- GiB of a memory tier after the next Boot: the payload of RETIRE_PENDING (Table 17-8). -/
def tierGiB (s : State) (type : Nat) : Nat :=
  let gone := ((s.flt.retired.map Retired.res).filter (fun r => r.type == type)).eraseDups.length
  if type = 1 then 4 * (256 - gone) else 64 * (64 - gone)

/-- A decided retirement: appended to the record; a memory unit waits for Boot, the others go at once (Table 17-5; what
that means for a lane, a link or a half-module stands in Machine/Mac.lean and Machine/HostAttach.lean). -/
def retire (r : Resource) (cause : Nat) (s : State) : State :=
  if (s.flt.retired.map Retired.res).contains r then s
  else
    let s := modFlt s (fun f => { f with retired := f.retired ++ [{ res := r, cause := cause, time := operatingNow s / 1000 }] })
    if r.type ≤ 2 then
      let s := modFlt s (fun f => { f with pendRet := f.pendRet ++ [r] })
      postEvent deviceOwner 0x4004 1 r.code (tierGiB s r.type % 65536) s
    else postEvent deviceOwner 0x4003 2 r.code cause s

/-- The teller's decision on a resource with n events of a kind whose threshold is t: one of types 1 to 5 retires, any
other posts DEGRADED when it crosses the threshold (R470, R472). -/
def thresholdCrossed (r : Resource) (cause n t : Nat) (s : State) : State :=
  if tellerUp s = false then s
  else if r.type ≤ 5 then (if t ≤ n then retire r cause s else s)
  else if n = t then postEvent deviceOwner 0x4005 1 r.code cause s
  else s

/-- One corrected event on a resource (R463, R464, R470). -/
def corrected (r : Resource) (s : State) : State :=
  let now := operatingNow s
  let s := (modFlt s (fun f => { f with ce := (f.ce.filter (fun e => now < e.2 + 1000)) ++ [(r, now)] })).bump kCe
  thresholdCrossed r 1 (s.flt.ce.filter (fun e => e.1 == r)).length 16 s

/-- One uncorrected event on a resource, with the address and owner that the event UNCORRECTED carries (R463, R470). -/
def uncorrected (r : Resource) (addr owner : Nat) (s : State) : State :=
  let now := operatingNow s
  let s := (modFlt s (fun f => { f with ue := (f.ue.filter (fun e => now < e.2 + 86400000)) ++ [(r, now)] })).bump kUe
  let payload := addr % 2 ^ 48 + 2 ^ 56 * owner
  let s := postEvent deviceOwner 0x4001 2 r.code payload s
  let s := if owner < 8 then postEvent owner 0x4001 2 r.code payload s else s
  thresholdCrossed r 2 (s.flt.ue.filter (fun e => e.1 == r)).length 2 s

/-- Corrected events of a resource in the last 1 s (R470, R504). -/
def ce1s (r : Resource) (s : State) : Nat :=
  (s.flt.ce.filter (fun (e : Resource × Nat) => e.1 == r && decide (operatingNow s < e.2 + 1000))).length

/-- Uncorrected events of a resource in the last 24 h of operating time (R470, R504). -/
def ue24h (r : Resource) (s : State) : Nat :=
  (s.flt.ue.filter (fun (e : Resource × Nat) => e.1 == r && decide (operatingNow s < e.2 + 86400000))).length

/-- The decisions of a teller that starts, from the counts that the hardware kept (R470). -/
def tellerDecides (s : State) : State :=
  let l := ((s.flt.ce ++ s.flt.ue).map Prod.fst).eraseDups
  l.foldl (fun s r =>
    let d := if 16 ≤ ce1s r s then some 1 else if 2 ≤ ue24h r s then some 2 else none
    match d with
    | none => s
    | some c => if r.type ≤ 5 then retire r c s else postEvent deviceOwner 0x4005 1 r.code c s) s

/-- The partition whose HBM share holds an address; the device domain where none does. -/
def hbmOwner (a : Nat) (s : State) : Nat :=
  holder (fun r => (r.hbmBase * 0x40000000, r.hbmSize * 0x40000000)) a s

/-- The partition whose vault share holds an address; the device domain where none does. -/
def vaultOwner (a : Nat) (s : State) : Nat :=
  holder (fun r => (r.vaultBase * 65536, r.vaultSize * 65536)) a s

/-- A vault line that no retry corrects, as for HBM (R463, R464). -/
def vaultLineFails (a : Nat) (s : State) : State :=
  let line := a / 64
  let s := s.bump kRetry 3
  let s := { s with vaultPoison := if s.vaultPoison.contains line then s.vaultPoison else s.vaultPoison ++ [line] }
  if s.flt.counted.contains (1, line) then s
  else
    let s := modFlt s (fun f => { f with counted := f.counted ++ [(1, line)] })
    uncorrected { type := 2, index := vaultChOfAddr s a } (line * 64) (vaultOwner a s) s

/-- A line of HBM that no retry corrects: three re-reads, the poison mark, and one uncorrected event until the line is
rewritten whole (R463, R464). -/
def hbmLineFails (a : Nat) (s : State) : State :=
  let line := a / 64
  let s := s.bump kRetry 3
  let s := { s with hbmPoison := if s.hbmPoison.contains line then s.hbmPoison else s.hbmPoison ++ [line] }
  if s.flt.counted.contains (0, line) then s
  else
    let s := modFlt s (fun f => { f with counted := f.counted ++ [(0, line)] })
    uncorrected { type := 1, index := pcOfAddr s a } (line * 64) (hbmOwner a s) s

/-! ## Host-memory accesses (R400, R463) -/

/-- Reissues made of a host-memory access that waits. -/
def reissues (a : HostAccess) (s : State) : Nat := ((s.host.accesses.find? (fun e => e.1 == a)).map Prod.snd).getD 0

/-- The state in which access a waits with n reissues made; 0 forgets it. -/
def setReissues (a : HostAccess) (n : Nat) (s : State) : State :=
  let l := s.host.accesses.filter (fun e => e.1 != a)
  { s with host := { s.host with accesses := if n = 0 then l else l ++ [(a, n)] } }

/-- A host-memory access completes: one that a reissue brought is a corrected event (R463). -/
def accessDone (a : HostAccess) (s : State) : State :=
  if reissues a s = 0 then s else (setReissues a 0 s).bump kCe

/-! ## Accesses -/

/-- Whether some byte of a range lies in a marked line of the given size. -/
def rangePoisoned (marks : List Nat) (lineBytes a n : Nat) : Bool :=
  marks.any (fun l => overlaps (l * lineBytes) lineBytes a n) && n != 0

/-- Marks without those of lines that a write covers whole (R462). -/
def clearMarks (marks : List Nat) (lineBytes a n : Nat) : List Nat :=
  marks.filter (fun l => !(a ≤ l * lineBytes && (l + 1) * lineBytes ≤ a + n))

/-- Marks with every line of a range marked. -/
def addMarks (marks : List Nat) (lineBytes a n : Nat) : List Nat :=
  if n = 0 then marks
  else
    let first := a / lineBytes
    let count := (a + n - 1) / lineBytes - first + 1
    (marks ++ upFrom first count).eraseDups

/-- n bytes of HBM from address a; at and above the usable range all-ones (R471). -/
def hbmRead (a n : Nat) (s : State) : Bytes :=
  if a + n ≤ hbmUsable s then s.hbm.read a n
  else (upFrom a n).map (fun x => if x < hbmUsable s then s.hbm.get x else 0xFF)

/-- Whether a read of n bytes of HBM from address a returns poison (R462, R471). -/
def hbmPoisoned (a n : Nat) (s : State) : Bool :=
  rangePoisoned s.hbmPoison 64 a n || decide (hbmUsable s < a + n)

/-- Back-invalidate snoops of the lines that a write of n bytes at a touches and the host may hold (R403). -/
def snoopLines (a n : Nat) (s : State) : State :=
  let hit := s.host.hostLines.filter (fun l => overlaps (l * 64) 64 a n)
  if hit.isEmpty then s
  else
    ({ s with host := { s.host with hostLines := s.host.hostLines.filter (fun l => !overlaps (l * 64) 64 a n) },
              out := s.out ++ hit.map Output.backInvalidate }).bump 0x0B001C hit.length

/-- HBM with the bytes bs from address a: the marks of lines written whole clear, and the host's copies are invalidated
first. -/
def hbmWrite (a : Nat) (bs : Bytes) (s : State) : State :=
  let s := snoopLines a bs.length s
  { s with hbm := s.hbm.write a bs, hbmPoison := clearMarks s.hbmPoison 64 a bs.length,
           flt := { s.flt with counted := s.flt.counted.filter (fun c =>
             !(c.1 == 0 && a ≤ c.2 * 64 && (c.2 + 1) * 64 ≤ a + bs.length)) } }

/-- A write of poisoned data: the marks are set (R462). -/
def hbmWritePoison (a : Nat) (bs : Bytes) (s : State) : State :=
  let s := hbmWrite a bs s
  { s with hbmPoison := addMarks s.hbmPoison 64 a bs.length }

/-- Vault bytes written. -/
def vaultWrite (a : Nat) (bs : Bytes) (s : State) : State :=
  { s with vault := s.vault.write a bs, vaultPoison := clearMarks s.vaultPoison 64 a bs.length,
           flt := { s.flt with counted := s.flt.counted.filter (fun c =>
             !(c.1 == 1 && a ≤ c.2 * 64 && (c.2 + 1) * 64 ≤ a + bs.length)) } }

/-- First byte of a core's scratchpad in the scratchpad memory (R230). -/
def padBase (core : Nat) : Nat := core * 262144

/-- Scratchpad bytes of a core. -/
def padRead (core a n : Nat) (s : State) : Bytes := s.pads.read (padBase core + a) n

/-- Whether a read of scratchpad bytes returns poison. -/
def padPoisoned (core a n : Nat) (s : State) : Bool := rangePoisoned s.padPoison 32 (padBase core + a) n

/-- Scratchpad bytes of a core written. -/
def padWrite (core a : Nat) (bs : Bytes) (s : State) : State :=
  { s with pads := s.pads.write (padBase core + a) bs,
           padPoison := clearMarks s.padPoison 32 (padBase core + a) bs.length }

/-- First byte of tile buffer b of a hall in the buffer memory (R200). -/
def bufBase (hall b : Nat) : Nat := hall * 49152 + b * 8192

/-! ## Aborts (R466) -/

/-- Event PASS_ABORT, to the device domain and to the partition (Table 17-8). -/
def passAbortEvent (core part : Nat) (flight : Word) (detail : Nat) (s : State) : State :=
  let payload := part + 256 * flight.toNat + 2 ^ 40 * detail
  postEvent part 0x4002 2 core payload (postEvent deviceOwner 0x4002 2 core payload s)

end Sys2Proof.Machine
end

