-- ==== Sys2Proof/WellFormed.lean ====
section
/-!
DEFINITION. Which operands a bus, a fibre or a pin can carry. A command that is not well-formed is refused by name
(`Refusal.illFormed`); most rows carry only numbers that their types bound, and are always well-formed.
-/
namespace Sys2Proof

/-- A Zusia frame as its header fields can carry it (R317, Table 11-3). -/
def Frame.wellFormed (f : Frame) : Bool :=
  f.version < 256 && f.type < 256 && f.hops < 256 && f.senderRank < 256 && f.receiverRank < 256 &&
    f.payload.length ≤ 8192

/-- A frame of a type and class (Tables 11-4 and 11-5). -/
def Frame.is (type cls : Nat) (f : Frame) : Bool := f.wellFormed && f.type == type && f.cls.val == cls

/-- A collective control REQ of a kind (R330). -/
def Frame.isControl (kind : Nat) (f : Frame) : Bool :=
  f.is 0x05 1 && f.payload.length == 16 && (f.payload.headD 0).toNat == kind

/-- A BEACON of a kind (R323, Table 11-6). -/
def Frame.isBeacon (kind : Nat) (f : Frame) : Bool :=
  f.wellFormed && f.type == 0x03 && 32 ≤ f.payload.length && (f.payload.headD 0).toNat == kind

/-- A PROBE of an operation (R356). -/
def Frame.isProbe (op : Nat) (f : Frame) : Bool :=
  f.wellFormed && f.type == 0x04 && f.operation.toNat == op && f.payload.length == 16

/-- Whether the operands have the form that the manual gives them. -/
def Instr.wellFormed : Instr → Bool
  | .bootStepEnd f =>
    f.slot0Reason < 256 && f.slot1Reason < 256 && f.hbmFailed.all (· < 256) && f.vaultFailed.all (· < 64)
  | .descriptorFetched _ bytes => bytes.length == 64
  | .partConfig _ record => record.length == 128
  | .stwForm _ members => members.length == 64
  | .hdmAccess addr write =>
    addr % 64 == 0 && (match write with | none => true | some b => b.length == 64)
  | .pfcFrame _ _ quanta => quanta.length == 8
  | .estimateTick e => e.temps.length == 92
  | .fecInterval _ _ _ symbols powers _ => symbols.length == 4 && powers.length ≤ 4
  | .helloReceived _ f => f.wellFormed && f.type == 0x01 && f.payload.length == 8
  | .ackReceived _ f => f.wellFormed && f.type == 0x02
  | .riserBeaconReceived _ f _ => f.isBeacon 1
  | .slipBeaconReceived _ f => f.isBeacon 2
  | .holdBeaconReceived _ f => f.isBeacon 3
  | .poisonBeaconReceived _ f => f.isBeacon 4
  | .haltBeaconReceived _ f => f.isBeacon 5
  | .resumeBeaconReceived _ f => f.isBeacon 6
  | .probeRequestReceived _ f _ _ => f.isProbe 0
  | .probeResponseReceived _ f _ => f.isProbe 1
  | .remoteAddReq _ f => f.is 0x05 1 && f.payload.length == 16
  | .stwResumeReq _ f => f.is 0x05 1
  | .readyReq _ f => f.isControl 1
  | .countReq _ f => f.isControl 2
  | .respReceived _ f => f.is 0x06 1
  | .mintExchangeReceived _ f => f.is 0x07 1
  | .collectiveData _ f => f.is 0x07 3
  | .queueData _ f => f.is 0x07 2
  | .creditReceived _ f => f.is 0x08 2
  | .frameRelay _ f => f.wellFormed
  | _ => true

end Sys2Proof
end

