-- ==== Sys2Proof/Machine/Power.lean ====
section
/-!
DEFINITION. Power, droop and temperature (15_power_and_thermal.md): V/F states, the estimator, the choice of a state at a
device landing, stretches and throttles.
-/
namespace Sys2Proof.Machine

/-- Frequency of a V/F state in MHz (Table 15-1). -/
def vfMHz (n : Nat) : Nat :=
  [700, 750, 800, 850, 900, 950, 1000, 1100, 1200, 1250, 1300, 1350, 1400, 1450, 1500, 1550].getD n 1400

/-- N of a tread (R31). -/
def treadCycles (s : State) : Nat := s.time.period * vfMHz s.pwr.vf

/-- The admission ceiling (R31). -/
def ceiling (s : State) : Nat := 9 * treadCycles s / 10

/-- Calibrated voltage of state n on gallery g in mV, from the configuration record (R411, Table 16-9). -/
def calibratedMv (n g : Nat) : Nat :=
  (Config.configRecord (0x20 + 4 * n + 2 * g)).toNat + 256 * (Config.configRecord (0x21 + 4 * n + 2 * g)).toNat

/-- Configured current limit of gallery g in A (Table 15-4, Table 16-9). -/
def currentLimit (g : Nat) : Nat :=
  (Config.configRecord (0x80 + 2 * g)).toNat + 256 * (Config.configRecord (0x81 + 2 * g)).toNat

/-- The effective clock of gallery g in MHz: halved under a stretch, quartered when a droop stretch coincides (R422). -/
def effectiveMHz (s : State) (g : Nat) : Nat :=
  let f := vfMHz s.pwr.vf
  let slow := s.pwr.tempStretch.contains g || s.pwr.currentStretch.contains g
  let droop := s.pwr.droopStretch.contains g
  if slow && droop then f / 4 else if slow || droop then f / 2 else f

/-- Emergency (R426). -/
def emergency (s : State) : Bool :=
  !s.pwr.tempStretch.isEmpty || !s.pwr.currentStretch.isEmpty || s.pwr.mintThrottle || !s.pwr.hbmThrottle.isEmpty ||
    !s.pwr.vaultThrottle.isEmpty || !s.pwr.opticsOff.isEmpty

/-- A list with x once. -/
def addOnce (l : List Nat) (x : Nat) : List Nat := if l.contains x then l else x :: l

/-- A list without x. -/
def dropAll (l : List Nat) (x : Nat) : List Nat := l.filter (· != x)

/-- The state with the power section changed. -/
def modPwr (s : State) (f : Power → Power) : State := { s with pwr := f s.pwr }

/-- Counter PWR_DROOP of gallery g; PWR_THROT follows at 8, PWR_ILIM, PWR_BOOST and PWR_UNMET after it (Table 15-13). -/
def kDroop (g : Nat) : Nat := 0x0C0020 + 4 * g
/-- Counter PWR_THROT of gallery g. -/
def kThrot (g : Nat) : Nat := 0x0C0028 + 4 * g
/-- Counter PWR_ILIM. -/
def kIlim : Nat := 0x0C0030
/-- Counter PWR_BOOST. -/
def kBoost : Nat := 0x0C0034
/-- Counter PWR_UNMET. -/
def kUnmet : Nat := 0x0C0038

/-- Event THROTTLE (Table 15-12). -/
def throttleEvent (source : Nat) (begins : Bool) (cause : Nat) (s : State) : State :=
  postEvent deviceOwner 0x7001 1 source (b2n begins + 256 * cause) s

/-! ## Estimation (R419, R420) -/

/-- The larger of two lists, place by place. -/
def maxEach (a b : List Nat) : List Nat := (a.zip b).map (fun (x, y) => max x y)

/-- The estimate of a tick, kept for PWR_EST and PWR_TEMP, and its calibrated peaks in mW. -/
def estimateEffect (e : PowerEstimate) (s : State) : State :=
  let g0 := s.pwr.gains.getD 0 1000
  let g1 := s.pwr.gains.getD 1 1000
  modPwr s (fun p =>
    { p with last := e, temps := e.temps.zipIdx.map (fun (t, i) => (i, t)),
             peakDyn := maxEach p.peakDyn [e.dyn0 * g0, e.dyn1 * g1],
             peakLeak := maxEach p.peakLeak [e.leak0 * g0, e.leak1 * g1],
             peakOther := max p.peakOther (1000 * e.other) })

/-- ESTIMATE_TICK. -/
def execEstimateTick (estimate : PowerEstimate) (s : State) : Result :=
  if Instr.wellFormed (.estimateTick estimate) then whenOn s (estimateEffect estimate)
  else .refused (.illFormed "ESTIMATE_TICK")

/-- A gain clamped to 0.80 to 1.25, with CALIB_RANGE for one outside (R420). -/
def calibrateOne (g gain : Nat) (s : State) : State :=
  let s := modPwr s (fun p => { p with newGains := p.newGains.set g (max 800 (min 1250 gain)) })
  if gain < 800 ∨ 1250 < gain then postEvent deviceOwner 0x7005 1 g (gain % 65536) s else s

/-- CALIBRATION_WINDOW: not while the teller is down or restarting, since the teller sets the gains. -/
def calibrationEffect (gain0 gain1 : Nat) (s : State) : State :=
  if s.fw.tellerDown || s.fw.tellerRestarting || s.fw.handover.isSome then s
  else calibrateOne 1 gain1 (calibrateOne 0 gain0 s)

/-- CALIBRATION_WINDOW (R420). -/
def execCalibrationWindow (gain0 gain1 : Nat) (s : State) : Result := whenUp s (calibrationEffect gain0 gain1)

/-! ## Stretches and throttles (R421 to R423) -/

/-- Every active array of gallery g ramps up as a hold for a banister cause ends (R147, R422). -/
def rampGallery (g : Nat) (s : State) : State :=
  s.bump (kGal 4 3 (2048 * g)) ((s.cores.filter (fun c => c.2.active && galleryOfCore c.1 == g)).length)

/-- Whether a temperature or current stretch of gallery g is in force. -/
def stretchedAt (g : Nat) (p : Power) : Bool := p.tempStretch.contains g || p.currentStretch.contains g

/-- Temperature and current stretches of gallery g changed by `f`: a change of the stretch level holds the arrays and they
ramp up again, unless a droop goes on holding them (R422). -/
def changeStretch (g : Nat) (f : Power → Power) (s : State) : State :=
  let t := modPwr s f
  if s.pwr.droopStretch.contains g || stretchedAt g s.pwr == stretchedAt g t.pwr then t else rampGallery g t

/-- A temperature stretch of gallery g begins. -/
def tempStretchEffect (g : Nat) (s : State) : State :=
  if s.pwr.tempStretch.contains g then s
  else
    let s := changeStretch g (fun p =>
      { p with tempStretch := addOnce p.tempStretch g, stretched := true, emergSince := true,
               touched := addOnce p.touched g }) s
    throttleEvent g true 1 s

/-- GALLERY_TEMP_STRETCH. -/
def execGalleryTempStretch (gallery : GalleryNo) (s : State) : Result := whenOn s (tempStretchEffect gallery)

/-- A current stretch of gallery g begins. -/
def currentStretchEffect (g : Nat) (s : State) : State :=
  if s.pwr.currentStretch.contains g then s
  else
    let s := changeStretch g (fun p =>
      { p with currentStretch := addOnce p.currentStretch g, stretched := true, emergSince := true,
               touched := addOnce p.touched g }) s
    throttleEvent g true 2 s

/-- GALLERY_CURRENT_STRETCH. -/
def execGalleryCurrentStretch (gallery : GalleryNo) (s : State) : Result := whenOn s (currentStretchEffect gallery)

/-- A droop stretch begins, counted once; a further droop extends it (R423). -/
def droopEffect (g : Nat) (s : State) : State :=
  if s.pwr.droopStretch.contains g then s
  else
    (modPwr s (fun p => { p with droopStretch := addOnce p.droopStretch g, touched := addOnce p.touched g })).bump (kDroop g)

/-- DROOP_STRETCH. -/
def execDroopStretch (gallery : GalleryNo) (s : State) : Result := whenOn s (droopEffect gallery)

/-- A droop stretch ends: the arrays that it held ramp up before issue resumes (R147, R422, Table 15-5). -/
def droopEndEffect (g : Nat) (s : State) : State :=
  if s.pwr.droopStretch.contains g then
    rampGallery g (modPwr s (fun p => { p with droopStretch := dropAll p.droopStretch g }))
  else s

/-- DROOP_STRETCH_END. -/
def execDroopStretchEnd (gallery : GalleryNo) (s : State) : Result := whenOn s (droopEndEffect gallery)

/-- A temperature or current stretch ends after us microseconds. -/
def stretchEndEffect (g : Nat) (current : Bool) (us : Nat) (s : State) : State :=
  if current then
    if s.pwr.currentStretch.contains g then
      throttleEvent g false 2
        ((changeStretch g (fun p => { p with currentStretch := dropAll p.currentStretch g }) s).bump kIlim us)
    else s
  else
    if s.pwr.tempStretch.contains g then
      throttleEvent g false 1
        ((changeStretch g (fun p => { p with tempStretch := dropAll p.tempStretch g }) s).bump (kThrot g) us)
    else s

/-- STRETCH_END. -/
def execStretchEnd (gallery : GalleryNo) (current : Bool) (us : Nat) (s : State) : Result :=
  whenOn s (stretchEndEffect gallery current us)

/-- The mint die's throttle begins. -/
def mintThrottleEffect (s : State) : State :=
  if s.pwr.mintThrottle then s
  else throttleEvent 2 true 1 (modPwr s (fun p => { p with mintThrottle := true, emergSince := true }))

/-- MINT_DIE_THROTTLE. -/
def execMintDieThrottle (s : State) : Result := whenOn s mintThrottleEffect

/-- The throttle of HBM or vault stack n begins. -/
def stackThrottleEffect (vault : Bool) (n : Nat) (s : State) : State :=
  if vault then
    if s.pwr.vaultThrottle.contains n then s
    else throttleEvent (0x20 + n) true 1
      (modPwr s (fun p => { p with vaultThrottle := addOnce p.vaultThrottle n, emergSince := true }))
  else
    if s.pwr.hbmThrottle.contains n then s
    else throttleEvent (0x10 + n) true 1
      (modPwr s (fun p => { p with hbmThrottle := addOnce p.hbmThrottle n, emergSince := true }))

/-- MEMORY_STACK_THROTTLE. -/
def execMemoryStackThrottle (vault : Bool) (stack : Fin 8) (s : State) : Result :=
  whenOn s (stackThrottleEffect vault stack)

/-- A throttle ends: unit 0 is the mint die, 1 to 8 the HBM stacks, 9 to 16 the vault stacks. -/
def throttleEndEffect (unit : Nat) (s : State) : State :=
  if unit = 0 then
    if s.pwr.mintThrottle then throttleEvent 2 false 1 (modPwr s (fun p => { p with mintThrottle := false })) else s
  else if unit ≤ 8 then
    if s.pwr.hbmThrottle.contains (unit - 1) then
      throttleEvent (0x10 + (unit - 1)) false 1
        (modPwr s (fun p => { p with hbmThrottle := dropAll p.hbmThrottle (unit - 1) }))
    else s
  else
    if s.pwr.vaultThrottle.contains (unit - 9) then
      throttleEvent (0x20 + (unit - 9)) false 1
        (modPwr s (fun p => { p with vaultThrottle := dropAll p.vaultThrottle (unit - 9) }))
    else s

/-- THROTTLE_END. -/
def execThrottleEnd (unit : Fin 17) (s : State) : Result := whenOn s (throttleEndEffect unit)

/-! ## The choice of a state (R416, R418) -/

/-- Numerator and denominator of the predicted power of state n in mW (R416). -/
def predicted (s : State) (n : Nat) : Nat × Nat :=
  let c := s.pwr.vf
  let fs := vfMHz n
  let fc := vfMHz c
  let den := fc * calibratedMv c 0 ^ 2 * calibratedMv c 1 ^ 2
  let term (g other : Nat) : Nat :=
    (s.pwr.peakDyn.getD g 0 * fs + s.pwr.peakLeak.getD g 0 * fc) * calibratedMv n g ^ 2 * calibratedMv c other ^ 2
  (s.pwr.peakOther * den + term 0 1 + term 1 0, den)

/-- Whether state n keeps the cap. -/
def fitsCap (s : State) (n : Nat) : Bool :=
  let p := predicted s n
  p.1 ≤ 1000 * s.pwr.cap * p.2

/-- The hottest gallery sensor in 1/16 degC (Table 15-11). -/
def hottestGallery (s : State) : Int :=
  (List.range 64).foldl (fun m i => max m (signed 16 (tget 0 s.pwr.temps i).toNat)) (-32768)

/-- The first state from top down to floor that keeps the cap. -/
def firstFitting (s : State) : Nat → Nat → Option Nat
  | floor, 0 => if floor = 0 ∧ fitsCap s 0 then some 0 else none
  | floor, n + 1 => if n + 1 < floor then none else if fitsCap s (n + 1) then some (n + 1) else firstFitting s floor n

/-- choose_state, and whether the cap is unmet (R416, R418). -/
def chooseState (s : State) : Nat × Bool :=
  if s.pwr.fixed then (s.pwr.base, !fitsCap s s.pwr.base)
  else
    let top := if s.pwr.boost && decide (hottestGallery s ≤ 95 * 16) && !s.pwr.stretched then 15 else s.pwr.base
    match firstFitting s s.pwr.floor top with
    | some n => (n, false)
    | none => (s.pwr.floor, true)

/-! ## Voltage requests (R413, R510) -/

/-- The voltage asked of gallery g for state n: the calibrated one, in steps of 5 mV. -/
def requestMv (n g : Nat) : Nat := calibratedMv n g / 5 * 5

/-- Whether the banister lets the requests of a state pass (Table 15-4). -/
def requestsPass (n : Nat) : Bool := [0, 1].all (fun g => 600 ≤ requestMv n g && requestMv n g ≤ 850)

/-- A voltage write to gallery g's regulator that answers `errors` times with an error: up to 3 retries, after which the rail keeps
its voltage; whether it took the write (R463, R510). -/
def avsWrite (g mv errors : Nat) (s : State) : State × Bool :=
  let retries := min errors 3
  let s := { s with out := s.out ++ List.replicate (retries + 1) (Output.avsWrite g mv) }
  let s := s.bump kRetry retries
  if 4 ≤ errors then (s.bump kUe, false)
  else ((modPwr s (fun p => { p with volts := p.volts.set g mv })).bump kCe (min retries 1), true)

/-- Both galleries asked for the voltage of state n; where the second refuses, the first goes back. Whether the change of state
stands (R411, R412, R510). -/
def changeVolts (n avs0 avs1 : Nat) (s : State) : State × Bool :=
  if requestsPass n = false then (s, false)
  else
    let a := avsWrite 0 (requestMv n 0) avs0 s
    if a.2 = false then a
    else
      let b := avsWrite 1 (requestMv n 1) avs1 a.1
      if b.2 then b else ((avsWrite 0 (s.pwr.volts.getD 0 0) 0 b.1).1, false)

/-- The state of the coming flights after a choice: the chosen one, unless its voltages are refused, when the present state is kept
(Table 15-4, R510). -/
def takeState (n : Nat) (found : RiserFindings) (s : State) : State × Nat :=
  if n = s.pwr.vf then (s, n)
  else
    let a := changeVolts n found.avs0 found.avs1 s
    (a.1, if a.2 then n else s.pwr.vf)

/-- The V/F part of step 7 of Table 2-9: the state of the coming flights, its events and counters, new gains, and new
peaks. -/
def landPower (found : RiserFindings) (s : State) : State :=
  let old := s.pwr.vf
  let c := chooseState s
  let p := predicted s c.1
  let s := if c.2 then
      (postEvent deviceOwner 0x7003 1 0 (p.1 / p.2 / 1000 % 65536 + 65536 * s.pwr.cap) s).bump kUnmet
    else s
  let a := takeState c.1 found s
  let s := if a.2 = old then a.1
    else postEvent deviceOwner 0x7002 0 0 (a.2 + 16 * old + 256 * b2n s.pwr.fixed) a.1
  let s := if c.1 > s.pwr.base then s.bump kBoost else s
  modPwr s (fun q =>
    { q with vf := a.2, capUnmet := c.2, gains := q.newGains, peakDyn := [0, 0], peakLeak := [0, 0], peakOther := 0,
             stretched := !(q.tempStretch.isEmpty && q.currentStretch.isEmpty) })

end Sys2Proof.Machine
end

