-- ==== Sys2Proof/Machine/Treads.lean ====
section
/-!
DEFINITION. Flights, target flights and admission (02_treads_and_landings.md, R32 to R41; 13_partitions_and_isolation.md,
R374, R376, R387). The riser itself stands in Machine/Riser.lean.
-/
namespace Sys2Proof.Machine

/-- Flight a is earlier than flight b (R32). -/
def flightEarlier (a b : Word) : Bool := newer b a

/-- The flight number after f: 0 is never one (R32). -/
def flightAfter (f : Word) : Word := if f = 0xFFFFFFFF then 1 else f + 1

/-- State code of Table 13-3. -/
def PartState.code : PartState → Nat
  | .free => 0
  | .configured => 1
  | .running => 2
  | .draining => 3
  | .saved => 4
  | .faulted => 5

/-- Whether a descriptor may be admitted now, must wait, or is rejected with BAD_STATE and a detail. -/
inductive Gate where
  | go
  | wait
  | bad (detail : Nat)
  deriving DecidableEq, Repr

/-- The flight that a waiting partition begins next (R34). -/
def nextFlight (q : Partition) : Word := if q.replayDue then q.lastFlight else flightAfter q.lastFlight

/-- The target flight of a descriptor against the partition's flights (R39). -/
def targetGate (q : Partition) (target : Word) : Gate :=
  match q.flight with
  | some f =>
    if target = 0 ∨ target = f.plan.flight then .go
    else if flightEarlier target f.plan.flight then .bad q.state.code else .wait
  | none => if target ≠ 0 ∧ flightEarlier target (nextFlight q) = true then .bad q.state.code else .wait

/-- Whether the partition's state lets it admit work (Table 13-3, R374, R376, R387). -/
def partGate (q : Partition) (target : Word) : Gate :=
  match q.state with
  | .running => if q.restoreBusy || q.saveBusy || q.saveAsked.isSome then .wait else targetGate q target
  | .draining => if q.restoreBusy || q.saveBusy || q.saveAsked.isSome then .wait else targetGate q target
  | .configured => .bad q.state.code
  | .free => .bad q.state.code
  | _ => .wait

/-- Whether a partition's engines go on: not while it is Saved or Faulted, nor while its save or restore runs
(R377, R385, R387, R388). -/
def partLive (q : Partition) : Bool :=
  q.state != .saved && q.state != .faulted && !q.saveBusy && !q.restoreBusy

/-- The admitted programs of partitions whose engines go on; another partition may hold the wings of the others. -/
def livePrograms (s : State) : List Program := s.programs.filter (fun g => partLive (s.part g.part))

/-- Whether the present tread admits work: a normal tread does; slip and hold treads admit prefetch copies only; settle
treads and a halted stairwell admit nothing (R46, R55, R61, R64). -/
def treadAdmits (prefetch : Bool) (s : State) : Bool :=
  match s.time.kind with
  | .normal => s.stw.state != .halted
  | .slip => prefetch && s.stw.state != .halted
  | .hold => prefetch && s.stw.state != .halted
  | .settle => false
  | .halted => false

/-- The gate of a TREAD, COPY or CLEAR descriptor of owner o (R38 to R41); the device domain has no flights. -/
def workGate (o : Nat) (target : Word) (prefetch : Bool) (s : State) : Gate :=
  let g := if o < 8 then partGate (s.part o) target else .go
  match g with
  | .go => if treadAdmits prefetch s then .go else .wait
  | g => g

/-- The cores of a mask in a hall, as device core numbers (R16). -/
def coresOf (hall : Nat) (mask : Nat) : List Nat := (setBits mask 16).map (fun c => 16 * hall + c)

/-- Wing of a hall (Table 1-1): 16 halls. -/
def wingOfHall (h : Nat) : Nat := h / 16
/-- Gallery of a hall. -/
def galleryOfHall (h : Nat) : Nat := h / 128
/-- Hall of a core. -/
def hallOfCore (c : Nat) : Nat := c / 16

/-- The wings of a partition, rising. -/
def wingsOf (q : Partition) : List Nat := setBits q.record.wings.toNat 16
/-- The halls of a partition, rising. -/
def hallsOf (q : Partition) : List Nat := (wingsOf q).flatMap (fun w => upFrom (16 * w) 16)
/-- The cores of a partition, rising. -/
def partCores (q : Partition) : List Nat := (wingsOf q).flatMap (fun w => upFrom (256 * w) 256)
/-- Whether a hall lies in the partition's wings. -/
def ownsHall (q : Partition) (h : Nat) : Bool := bit q.record.wings.toNat (wingOfHall h) && h < 256
/-- Whether a core lies in the partition's wings. -/
def ownsCore (q : Partition) (c : Nat) : Bool := bit q.record.wings.toNat (c / 256) && c < 4096

/-- Whether a program's cost fits this tread on every core of its mask (R40). -/
def coresFit (cores : List Nat) (cost : Nat) (s : State) : Bool :=
  cores.all (fun c => (s.core c).cost + cost ≤ ceiling s)

/-- Cost charged to cores. -/
def chargeCores (cores : List Nat) (cost : Nat) (s : State) : State :=
  cores.foldl (fun s c => s.modCore c (fun x => { x with cost := x.cost + cost })) s

/-! ## Areas of a partition (R365 to R369) -/

/-- First byte and size of the HBM share. -/
def hbmShare (q : Partition) : Nat × Nat := (q.record.hbmBase * 0x40000000, q.record.hbmSize * 0x40000000)

/-- Whether n bytes from a lie within a share of `size` bytes from `base`. -/
def within (base size a n : Nat) : Bool := base ≤ a && a + n ≤ base + size

/-- Number of wings of a record. -/
def wingCount (r : PartRecord) : Nat := (setBits r.wings.toNat 16).length

/-- A size rounded up to 65,536. -/
def round64K (n : Nat) : Nat := (n + 65535) / 65536 * 65536

/-- The private areas: context, save, checkpoint (R367, R368, Table 13-2). -/
def privateAreas (r : PartRecord) : List (Nat × Nat) :=
  [(r.context, round64K (4194304 + 8320 * r.ringCount + 8 * r.tallyCount)),
   (r.save, 91095040 * wingCount r), (r.ckpt, 16908288 * wingCount r)]

/-- Whether a range touches a private area (R368). -/
def touchesPrivate (q : Partition) (a n : Nat) : Bool := (privateAreas q.record).any (fun p => overlaps p.1 p.2 a n)

/-- Whether a partition may name n bytes of HBM from a: in its share and outside its private areas. -/
def hbmAllowed (q : Partition) (a n : Nat) : Bool :=
  within (hbmShare q).1 (hbmShare q).2 a n && !touchesPrivate q a n

/-- Whether n bytes of the vault from byte a lie in the partition's vault share. -/
def vaultAllowed (q : Partition) (a n : Nat) : Bool :=
  within (q.record.vaultBase * 65536) (q.record.vaultSize * 65536) a n

/-- Whether n bytes of host memory from a lie in the partition's host window (R369). -/
def hostAllowed (q : Partition) (a n : Nat) : Bool := within q.record.hostBase q.record.hostSize a n

end Sys2Proof.Machine
end

