-- ==== Sys2Proof/Machine/Transport.lean ====
section
/-!
DEFINITION. The Zusia transport (11_fabric_and_collectives.md, R312 to R322): routes, the sending and the acceptance of
frames, acknowledgement, and requests. What a failed connection completes stands in Machine/Fabric.lean.
-/
namespace Sys2Proof.Machine

/-! ## Addresses, routes and links -/

/-- This device's fabric address, FAB_ADDR (R312). -/
def fabAddr (s : State) : Half := s.fab.domain ++ s.fab.device

/-- ADDR_OK (Table 11-12). -/
def addrOk (s : State) : Bool := s.fab.device != 0 && s.fab.device != 0xFF

/-- The state with the fabric section changed. -/
def modFab (s : State) (f : Fabric → Fabric) : State := { s with fab := f s.fab }

/-- A route entry after reset (Table 11-1). -/
def Route.atReset : Route := { w0 := 0, w1 := 0, w2 := 0, links := [], mode := 0, gateway := 0, via := 0 }

/-- A neighbour entry of a link that has heard nothing. -/
def Neighbour.atReset : Neighbour := { addr := 0, mac := 0, peerLink := 0, epoch := 0, hellos := 0, up := false }

/-- The route entry of an address. -/
def routeOf (a : Half) (s : State) : Route := tget Route.atReset s.fab.routes a.toNat

/-- The neighbour entry of a link. -/
def neighbourOf (n : Nat) (s : State) : Neighbour := tget Neighbour.atReset s.fab.neighbours n

/-- The entry by which a frame toward an address leaves: a relayed one goes as for VIA (R316); `fuel` bounds the relays. -/
def routeEnd (s : State) : Nat → Half → Route
  | 0, a => routeOf a s
  | fuel + 1, a => if (routeOf a s).mode = 2 then routeEnd s fuel (routeOf a s).via else routeOf a s

/-- Whether a frame toward an address has a route; frames to the own address need none (R316, R335). -/
def routed (a : Half) (s : State) : Bool := a == fabAddr s || (routeEnd s 3 a).mode != 0

/-- The links that are up and carry frames toward an address, ascending (R316, R319); `fuel` bounds the relays. -/
def upLinks (s : State) : Nat → Half → List Nat
  | 0, _ => []
  | fuel + 1, a =>
    let r := routeOf a s
    let up := r.links.filter (fun n => (neighbourOf n s).up)
    if s.fab.enable = false then []
    else if r.mode = 1 then up.filter (fun n => (neighbourOf n s).addr == a)
    else if r.mode = 2 then upLinks s fuel r.via
    else if r.mode = 3 then up
    else []

/-- The links toward an address; at most three device-to-device links are crossed (R316). -/
def linksTo (a : Half) (s : State) : List Nat := upLinks s 3 a

/-- The ((s + a) mod u)-th of the links that are up (R319). -/
def pickLink (c : ConnId) (l : List Nat) : Option Nat :=
  match l with
  | [] => none
  | _ => l[(c.stripe.val + c.peer.toNat) % l.length]?

/-! ## Frames out -/

/-- Counter FAB_TX and those after it (Table 11-11). -/
def kTx : Nat := 0x090010
/-- Counter FAB_RX. -/
def kRx : Nat := 0x090014
/-- Counter FAB_RX_BAD. -/
def kRxBad : Nat := 0x090018
/-- Counter FAB_RESEND. -/
def kResend : Nat := 0x09001C
/-- Counter FAB_DUP. -/
def kDup : Nat := 0x090020
/-- Counter FAB_RELAY. -/
def kRelay : Nat := 0x090024
/-- Counter FAB_RELAY_DROP. -/
def kRelayDrop : Nat := 0x090028
/-- Counter FAB_FENCED. -/
def kFenced : Nat := 0x09002C
/-- Counter FAB_QSTALL. -/
def kQstall : Nat := 0x090030

/-- Priority of a traffic class (Table 11-5). -/
def classPriority (c : Fin 4) : Nat := 7 - c.val

/-- Address of a counter of link n (Table 12-5) as a counter key. -/
def kLink (n off : Nat) : Nat := indirectKey 5 (0x10000 + 0x400 * n + off)

/-- Lane group of a link in its port: 0 in whole mode (R313). -/
def laneGroup (n : Nat) : Nat := n % 4

/-- Whether a link is retired and held disabled (R471). -/
def linkRetired (n : Nat) (s : State) : Bool := s.flt.retired.any (fun e => e.res == { type := 4, index := n })

/-- Whether a link exists and may come up: the port's mode has it, its lanes are not retired, and neither is the link
(R313, R358, R471). -/
def linkExists (n : Nat) (s : State) : Bool :=
  let p := s.port (n / 4)
  !linkRetired n s &&
    (if p.breakout then !p.retired.contains (laneGroup n) else laneGroup n == 0 && p.retired.isEmpty)

/-- A secure channel that holds nothing is what an unlisted channel is (Table 12-7). -/
def channelOf (q i : Nat) (s : State) : Secy := tget Secy.atReset (s.port q).channels i

/-- The channel that a link sends through: the lowest valid transmit channel that names it (R352). -/
def txChannel (n : Nat) (s : State) : Option Nat :=
  (List.range 16).find? (fun i => let c := channelOf (n / 4) i s; c.valid && c.tx && c.link == laneGroup n)

/-- A secure association that nothing has written. -/
def Sa.atReset : Sa := { key := List.replicate 8 0, pn := 0, ssci := 0, salt := [0, 0, 0], spent := false }

/-- Secure association a of a channel. -/
def saOf (c : Secy) (a : Nat) : Sa := c.sas.getD a Sa.atReset

/-- A channel with association a changed. -/
def setSa (c : Secy) (a : Nat) (x : Sa) : Secy :=
  { c with sas := ((List.range 4).map (fun k => if k = a then x else saOf c k)) }

/-- Whether a link can send Zusia frames under MACsec: it is off, or the channel's association is installed and has
packet numbers left (R352, R354). -/
def secured (n : Nat) (s : State) : Bool :=
  !(s.port (n / 4)).macsec ||
    (match txChannel n s with
    | none => false
    | some i =>
      let c := channelOf (n / 4) i s
      c.saValid.getD c.txAn false && !(saOf c c.txAn).spent)

/-- Whether a link carries Zusia frames and HELLOs (R350, R352, R358). -/
def linkCarries (n : Nat) (s : State) : Bool := linkExists n s && (s.link n).storm.isEmpty && secured n s

/-- A neighbour entry replaced. -/
def setNeighbour (n : Nat) (x : Neighbour) (s : State) : State :=
  modFab s (fun f => { f with neighbours := tset f.neighbours n x })

/-- Event NEIGHBOUR (Table 11-10). -/
def neighbourEvent (n : Nat) (s : State) : State :=
  let x := neighbourOf n s
  postEvent deviceOwner 0x5001 0 n (x.addr.toNat + 65536 * b2n x.up) s

/-- The MAC address of a link: the record's base address plus the link number (R346). -/
def macAddress (n : Nat) : Nat := (leNat ((upFrom 0x10 6).map Config.configRecord) + n) % 2 ^ 48

/-- The group address to which HELLO frames go, which step 4 of Table 12-4 lets pass (assumption log 14). -/
def nearestBridge : BitVec 48 := 0x0180C200000E

/-- Where a frame that link n sends goes: to the gateway of a switched route through it, else to the neighbour (R316,
R346). -/
def macDst (n : Nat) (f : Frame) (s : State) : BitVec 48 :=
  let r := routeEnd s 3 f.dst
  if f.type = 0x01 then nearestBridge
  else if r.mode = 3 ∧ r.links.contains n = true then
    let g := tget (0, 0) s.fab.gateways r.gateway
    BitVec.ofNat 48 (g.2.toNat % 65536 * 2 ^ 32 + g.1.toNat)
  else (neighbourOf n s).mac

/-- The Ethernet header of a frame that link n sends (R317, R346, R347, R351). -/
def etherOf (n : Nat) (f : Frame) (s : State) : Ether :=
  let p := s.port (n / 4)
  { dst := macDst n f s, src := BitVec.ofNat 48 (macAddress n),
    tag := if (s.link n).tag then some (classPriority f.cls, (s.link n).vid)
      else if p.flow = 2 then some (classPriority f.cls, 0) else none,
    sec := if p.macsec then (txChannel n s).map (fun i =>
        let c := channelOf (n / 4) i s
        { channel := i, sci := c.sci, an := c.txAn, pn := (saOf c c.txAn).pn }) else none,
    etherType := s.fab.etype }

/-- Bytes of a Zusia frame with its header: Ethernet header and FCS, the 802.1Q tag, SecTAG and ICV, Zusia header, payload
(R317, R347, R351). -/
def wireBytes (h : Ether) (f : Frame) : Nat :=
  max 64 (50 + f.payload.length + (if h.tag.isSome then 4 else 0) + (if h.sec.isSome then 32 else 0))

/-- Size counter of a frame length (Table 12-5). -/
def sizeBin (n : Nat) : Nat :=
  if n ≤ 64 then 0 else if n ≤ 127 then 1 else if n ≤ 255 then 2 else if n ≤ 511 then 3 else if n ≤ 1023 then 4
  else if n ≤ 1518 then 5 else if n ≤ 2047 then 6 else if n ≤ 4095 then 7 else 8

/-- A port's secure channel replaced. -/
def setChannel (q i : Nat) (c : Secy) (s : State) : State :=
  s.modPort q (fun p => { p with channels := tset p.channels i c })

/-- A link down for the fabric: NEIGHBOUR posts on the transition (R314). Connections are moved by `linkLost`. -/
def neighbourDown (n : Nat) (s : State) : State :=
  let x := neighbourOf n s
  if x.up then neighbourEvent n (setNeighbour n { x with up := false, hellos := 0 } s)
  else setNeighbour n { x with hellos := 0 } s

/-- No received Ethernet frame. -/
def noEther : EthFrame :=
  { length := 0, fcsOk := false, destOk := false, etherType := 0, controlOp := 0, serviceTag := false, vid := none,
    source := 0, sec := none }

/-- The frame of a type from this device to an address, with everything else 0 (Table 11-3). -/
def newFrame (type : Nat) (dst : Half) (cls : Fin 4) (s : State) : Frame :=
  { version := 1, type := type, dst := dst, src := fabAddr s, cls := cls, stripe := 0, hops := 2, seq := 0, ack := 0,
    txn := 0, operation := 0, offset := 0, senderRank := 0, receiverRank := 0, payload := [], rx := noEther }

/-! ## Connections (R319) -/

/-- A connection after a reset: its frames are numbered from 1 (R319). -/
def Conn.atReset (id : ConnId) : Conn :=
  { id := id, next := 1, unacked := [], queued := [], expect := 1, owed := 0, lastAck := 1, repeats := 0, resends := 0,
    idle := 0, link := none, tried := [], nextTxn := 1, kept := [] }

/-- A connection that is reset with the fabric (R340): its frames are numbered from 1 again and wait for RESEND_TIMEOUT;
request tags and kept answers stay (assumption log 73). -/
def Conn.restart (c : Conn) : Conn :=
  let l := c.unacked ++ c.queued
  { Conn.atReset c.id with
    next := 1 + BitVec.ofNat 32 (min 512 l.length),
    unacked := (l.take 512).zipIdx.map (fun (u, i) =>
      { u with frame := { u.frame with seq := 1 + BitVec.ofNat 32 i } }),
    queued := l.drop 512, nextTxn := c.nextTxn, kept := c.kept }

/-- The connection of an identity. -/
def connOf (id : ConnId) (s : State) : Conn :=
  (s.fab.conns.find? (fun c => c.id == id)).getD (Conn.atReset id)

/-- The state with a connection replaced. -/
def setConn (c : Conn) (s : State) : State :=
  modFab s (fun f => { f with conns :=
    (if f.conns.any (fun d => d.id == c.id) then f.conns.map (fun d => if d.id == c.id then c else d)
    else f.conns ++ [c]) })

/-- The link on which a connection sends now: its own while that is up, else the one that R319 picks. -/
def connLink (c : Conn) (s : State) : Option Nat :=
  let l := linksTo c.id.peer s
  match c.link with
  | some n => if l.contains n then some n else pickLink c.id l
  | none => pickLink c.id l

/-- The next link of a list after link n, in ascending order around, that is not among those tried. -/
def nextLink (n : Nat) (tried l : List Nat) : Option Nat :=
  let l := l.filter (fun m => m != n && !tried.contains m)
  (l.find? (fun m => n < m)).or l.head?

/-! ## Sending (R316, R319, R321, R348 to R354)

A link whose last packet number goes is down for the fabric, its connections move, and what they send again may use up the
next link's. So the frames are sent with `lost`, what to do with the connections of a link that is lost. -/

/-- The packet number that a frame on link n takes; a channel whose last number goes is exhausted: SA_EXHAUSTED posts,
its waiting frames are dropped, and the link is down for the fabric (R319, R354). -/
def takePn (lost : Nat → State → State) (n : Nat) (h : Secured) (s : State) : State :=
  let c := channelOf (n / 4) h.channel s
  let x := saOf c h.an
  let last := if c.xpn then x.pn = 0xFFFFFFFFFFFFFFFF else 2 ^ 32 - 1 ≤ x.pn.toNat % 2 ^ 32
  if last then
    let s := setChannel (n / 4) h.channel (setSa c h.an { x with spent := true }) s
    let s := postEvent deviceOwner 0x6005 2 n (h.channel + 16 * h.an) s
    let k := (s.link n).held.length
    lost n (neighbourDown n ((s.modLink n (fun l => { l with held := [] })).bump (kLink n 0x98) k))
  else setChannel (n / 4) h.channel (setSa c h.an { x with pn := x.pn + 1 }) s

/-- Whether the association through which a link sends has used up its packet numbers (R354). -/
def exhausted (n : Nat) (s : State) : Bool :=
  match txChannel n s with
  | none => false
  | some i =>
    let c := channelOf (n / 4) i s
    (saOf c c.txAn).spent

/-- A frame sent by a link (R348, R351). A link with no channel to send through sends none (R352), and one whose packet
numbers are used up drops it (R354). -/
def wireWith (lost : Nat → State → State) (n : Nat) (f : Frame) (s : State) : State :=
  if secured n s = false then (if exhausted n s then s.bump (kLink n 0x98) else s)
  else
    let h := etherOf n f s
    let s := (s.emit (.frame n h f)).bump (kLink n (0x24 + 4 * sizeBin (wireBytes h f)))
    match h.sec with
    | some x => takePn lost n x s
    | none => s

/-- A frame put on a link, where it waits while its priority is paused (R349); a frame to the own address takes no link
and comes back as a received frame (assumption log 14). While the fabric is disabled nothing is sent (R340). -/
def emitWith (lost : Nat → State → State) (link : Option Nat) (f : Frame) (s : State) : State :=
  if s.fab.enable = false then s else
  let s := s.bump kTx
  match link with
  | none => s.emit (.loopback f)
  | some n =>
    if (s.link n).paused.contains (classPriority f.cls) then
      s.modLink n (fun l => { l with held := l.held ++ [f] })
    else wireWith lost n f s

/-- A numbered frame of a connection put on its link, when one is up; it carries the reverse acknowledgement (R320). -/
def transmitWith (send : Option Nat → Frame → State → State) (c : Conn) (f : Frame) (s : State) : State :=
  let f := { f with ack := c.expect }
  if c.id.peer = fabAddr s then send none f s
  else
    match connLink c s with
    | none => s
    | some l => send (some l) f s

/-- Every unacknowledged frame of a connection sent again, oldest first (R321), as long as the connection does not move. -/
def resendWith (send : Option Nat → Frame → State → State) (id : ConnId) (s : State) : State :=
  let link := (connOf id s).link
  (connOf id s).unacked.foldl (fun s u =>
    let c := connOf id s
    if c.link = link ∧ ((connLink c s).isSome || c.id.peer == fabAddr s) = true then
      (transmitWith send c u.frame s).bump kResend
    else s) s

/-- A connection put on a link, and its unacknowledged frames sent again there. -/
def moveWith (send : Option Nat → Frame → State → State) (c : Conn) (n : Nat) (s : State) : State :=
  let tried := c.tried ++ c.link.toList
  resendWith send c.id
    (setConn { c with link := some n, tried := tried.eraseDups, resends := 0, idle := 0, repeats := 0 } s)

/-- The connections of a link that is down move to the next link that is up (R319). -/
def lostWith (send : Option Nat → Frame → State → State) (n : Nat) (s : State) : State :=
  (s.fab.conns.filter (fun c => c.link == some n)).foldl (fun s c =>
    let c := connOf c.id s
    let l := linksTo c.id.peer s
    match (if c.link = some n then (nextLink n c.tried l).or l.head? else none) with
    | some m => moveWith send c m s
    | none => s) s

/-- A frame sent, with at most `fuel` links lost one after another by it. -/
def sendFrame : Nat → Option Nat → Frame → State → State
  | 0 => emitWith (fun _ s => s)
  | fuel + 1 => emitWith (lostWith (sendFrame fuel))

/-- A frame put on a link, or on none (`emitWith`); the device has 64 links to lose. -/
def emitFrame (link : Option Nat) (f : Frame) (s : State) : State := sendFrame 64 link f s

/-- The connections of a link that is down move (R319). -/
def linkLost (n : Nat) (s : State) : State := lostWith emitFrame n s

/-- A frame that waited in a link sent by it. -/
def wireSend (n : Nat) (f : Frame) (s : State) : State := wireWith linkLost n f s

/-- A numbered frame of a connection sent. -/
def transmit (c : Conn) (f : Frame) (s : State) : State := transmitWith emitFrame c f s

/-- Every unacknowledged frame of a connection sent again. -/
def resendAll (id : ConnId) (s : State) : State := resendWith emitFrame id s

/-- A connection put on a link, and its unacknowledged frames sent again there. -/
def moveTo (c : Conn) (n : Nat) (s : State) : State := moveWith emitFrame c n s

/-- An unreliable frame sent on the link its address picks, or on nothing when no link is up. -/
def sendPlain (f : Frame) (s : State) : State :=
  if f.dst = fabAddr s then emitFrame none f s
  else
    match pickLink { peer := f.dst, cls := f.cls, stripe := f.stripe } (linksTo f.dst s) with
    | none => s
    | some l => emitFrame (some l) f s

/-! ## Reliable frames (R319 to R321) -/

/-- A reliable frame sent on its connection: numbered and put on a link, or queued while 512 are unacknowledged
(R319). `work` names the work item whose message it belongs to, and `part` the partition that sends it. -/
def sendReliable (f : Frame) (work : Option Nat) (part : Nat) (s : State) : State :=
  let c := connOf { peer := f.dst, cls := f.cls, stripe := f.stripe } s
  if c.unacked.length < 512 then
    let f := { f with seq := c.next }
    let c := { c with next := c.next + 1, unacked := c.unacked ++ [{ frame := f, work := work, part := part }], owed := 0,
                      link := connLink c s }
    transmit c f (setConn c s)
  else setConn { c with queued := c.queued ++ [{ frame := f, work := work, part := part }] } s

/-- Queued frames of a connection sent while fewer than 512 are unacknowledged; `fuel` bounds them. -/
def drainQueued (id : ConnId) : Nat → State → State
  | 0, s => s
  | fuel + 1, s =>
    let c := connOf id s
    match c.queued with
    | [] => s
    | q :: rest =>
      if c.unacked.length < 512 then
        drainQueued id fuel (sendReliable q.frame q.work q.part (setConn { c with queued := rest } s))
      else s

/-- An acknowledgement of a connection sent in an ACK frame (R320). -/
def sendAck (id : ConnId) (s : State) : State :=
  let c := connOf id s
  let s := setConn { c with owed := 0 } s
  let f := { newFrame 0x02 id.peer id.cls s with stripe := id.stripe, ack := c.expect }
  if id.peer = fabAddr s then emitFrame none f s
  else
    match connLink c s with
    | none => s
    | some l => emitFrame (some l) f s

/-- An acknowledge field taken by a connection: the frames before it are acknowledged and queued ones follow (R320). -/
def takeAck (id : ConnId) (ack : Word) (s : State) : State :=
  let c := connOf id s
  let left := c.unacked.filter (fun u => !newer ack u.frame.seq)
  if left.length < c.unacked.length then
    let s := setConn { c with unacked := left, lastAck := ack, repeats := 0, resends := 0, idle := 0, tried := [] } s
    drainQueued id c.queued.length s
  else s

/-! ## Frames in (R317, R320, R348, R351) -/

/-- The connection of a received frame. -/
def connIn (f : Frame) : ConnId := { peer := f.src, cls := f.cls, stripe := f.stripe }

/-- The SCI of a SecTAG: its own, or the source address with port identifier 1 (R351). -/
def sciOf (f : EthFrame) (x : SecTag) : Word64 := x.sci.getD (BitVec.ofNat 64 (f.source.toNat * 65536 + 1))

/-- The receive channel that a frame on link n names: a valid one of the link with its SCI, whose association is installed. -/
def rxChannel (n : Nat) (f : EthFrame) (x : SecTag) (s : State) : Option Nat :=
  (List.range 16).find? (fun i =>
    let c := channelOf (n / 4) i s
    c.valid && !c.tx && c.link == laneGroup n && c.sci == sciOf f x && c.saValid.getD x.an.val false)

/-- The packet number of a frame: with XPN its upper half is the one that the lowest acceptable number makes likeliest
(assumption log 110). -/
def packetNumber (c : Secy) (x : SecTag) : Nat :=
  let low := (saOf c x.an.val).pn.toNat
  if c.xpn = false then x.pn.toNat
  else
    let up := low / 2 ^ 32
    if x.pn.toNat < low % 2 ^ 32 ∧ 2 ^ 31 ≤ low % 2 ^ 32 ∧ x.pn.toNat < 2 ^ 31 then (up + 1) * 2 ^ 32 + x.pn.toNat
    else up * 2 ^ 32 + x.pn.toNat

/-- Lowest acceptable packet number of an association (Table 12-7): PN_HI counts only with XPN. -/
def lowestPn (c : Secy) (a : Nat) : Nat := if c.xpn then (saOf c a).pn.toNat else (saOf c a).pn.toNat % 2 ^ 32

/-- Step 8 of Table 12-4 on a port with MACsec: the counter of a frame that fails it (R351). -/
def secFails (n : Nat) (f : EthFrame) (s : State) : Option Nat :=
  match f.sec with
  | none => some 0x8C
  | some x =>
    match rxChannel n f x s with
    | none => some 0x8C
    | some i =>
      let c := channelOf (n / 4) i s
      if packetNumber c x < lowestPn c x.an.val then some 0x90 else if x.icvOk = false then some 0x8C else none

/-- A frame failed a VID test (R347). -/
def vidFails (n : Nat) (vid : Option (BitVec 12)) (s : State) : Bool :=
  (s.link n).strict &&
    (match vid with
    | none => true
    | some v => v != (s.link n).vid)

/-- Bytes of a port's receive buffer (R349). -/
def bufferBytes : Nat := 2097152

/-- The offset of the counter of the first check of Table 12-4 that a frame fails; none where the frame is one that
passes or is acted on (R348). -/
def dropCounter (n : Nat) (f : EthFrame) (s : State) : Option Nat :=
  let p := s.port (n / 4)
  if f.length < 64 then some 0x7C
  else if 9216 < f.length then some 0x80
  else if f.fcsOk = false then some 0x78
  else if f.destOk = false then some 0x84
  else if f.etherType = 0x8808 then
    if (f.controlOp = 0x0001 ∧ p.flow = 1) ∨ (f.controlOp = 0x0101 ∧ p.flow = 2) then none else some 0x84
  else if f.etherType = 0x88CC then none
  else if f.serviceTag then some 0x84
  else if vidFails n f.vid s then some 0x88
  else
    match (if p.macsec then secFails n f s else none) with
    | some k => some k
    | none =>
      if f.etherType ≠ s.fab.etype ∨ (p.macsec = false ∧ f.sec.isSome = true) then some 0x84
      else if p.flow = 0 ∧ bufferBytes < p.occupancy + f.length then some 0x94
      else none

/-- Whether a frame is dropped at step 9, which the fabric counts too (R317). -/
def dropsAtEtype (n : Nat) (f : EthFrame) (s : State) : Bool :=
  dropCounter n f s == some 0x84 && f.destOk && f.etherType != 0x8808 && !f.serviceTag

/-- A received frame of a length with a good FCS counted by its size (R348). -/
def countRx (n length : Nat) (s : State) : State := s.bump (kLink n (4 * sizeBin length))

/-- The counts of a frame that fails a check of Table 12-4; none of one that passes (R348). -/
def dropEffect (n : Nat) (f : EthFrame) (s : State) : State :=
  match dropCounter n f s with
  | none => s
  | some off =>
    let s' := s.bump (kLink n off)
    let s' := if 64 ≤ f.length ∧ f.length ≤ 9216 ∧ f.fcsOk = true then countRx n f.length s' else s'
    if dropsAtEtype n f s then s'.bump kRxBad else s'

/-- The lowest acceptable packet number of a receive association after a frame that passed: the window behind the highest
received (R351). -/
def notePn (n : Nat) (f : EthFrame) (s : State) : State :=
  match (if (s.port (n / 4)).macsec then f.sec else none) with
  | none => s
  | some x =>
    match rxChannel n f x s with
    | none => s
    | some i =>
      let c := channelOf (n / 4) i s
      let a := saOf c x.an.val
      let low := max (lowestPn c x.an.val) (packetNumber c x + 1 - c.window.toNat)
      setChannel (n / 4) i (setSa c x.an.val { a with pn := BitVec.ofNat 64 low }) s

/-- Whether the MAC hands a received frame to the fabric: it passes the checks of Table 12-4, or is one that this device sent to
itself, which takes no link. -/
def macPasses (link : Nat) (f : Frame) (s : State) : Bool := f.src == fabAddr s || (dropCounter link f.rx s).isNone

/-- What the MAC counts and keeps of a Zusia frame that passes (R348, R351, Table 12-5). -/
def macReceive (link : Nat) (f : Frame) (s : State) : State :=
  if f.src = fabAddr s then s
  else notePn link f.rx ((countRx link f.rx.length s).bump (kLink link 0x48))

/-- What becomes of a frame at this device: one that fails a check of the MAC is dropped (R348); while the fabric is disabled
nothing is accepted (R340); a wrong version or destination is discarded and counted (R317); otherwise `k` takes it. -/
def withFrame (link : Nat) (f : Frame) (s : State) (k : State → State) : State :=
  if macPasses link f s = false then dropEffect link f.rx s
  else
    let s := macReceive link f s
    if s.fab.enable = false then s
    else if f.version = 1 ∧ f.dst = fabAddr s then k s
    else s.bump kRxBad

/-- A reliable frame received: in order it is accepted and `k` takes it; an older one is counted as a duplicate, and both
it and a newer one are answered with the number expected (R320). -/
def receiveReliable (link : Nat) (f : Frame) (s : State) (k : State → State) : State :=
  withFrame link f s (fun s =>
    let id := connIn f
    let s := takeAck id f.ack s
    let c := connOf id s
    if f.seq = c.expect then
      let c := { c with expect := c.expect + 1, owed := c.owed + 1 }
      let s := (setConn c s).bump kRx
      k (if 16 ≤ c.owed then sendAck id s else s)
    else if newer c.expect f.seq then sendAck id (s.bump kDup)
    else sendAck id s)

/-! ## Requests (R322, R326, R330) -/

/-- The collective and queue messages of a connection that are not yet acknowledged: work item and receiver's rank. -/
def messagesOf (c : Conn) : List (Nat × Nat) :=
  ((c.unacked ++ c.queued).filterMap (fun u => u.work.map (fun w => (w, u.frame.receiverRank)))).eraseDups

/-- Outstanding fabric transactions: requests, and collective or queue messages not yet acknowledged (R322). The frames of one
message go to one address, on all stripes. -/
def transactions (s : State) : Nat :=
  s.fab.requests.length + ((s.fab.conns.flatMap messagesOf).eraseDups).length

/-- Whether n new fabric requests or messages may issue (Table 3-15). -/
def fabricFits (n : Nat) (s : State) : Bool := transactions s + n ≤ 16384

/-- Whether a new fabric request may issue (Table 3-15). -/
def fabricRoom (s : State) : Bool := fabricFits 1 s

/-- The connection of requests to an address: class 1, one stripe (Table 11-5). -/
def reqConn (a : Half) : ConnId := { peer := a, cls := 1, stripe := 0 }

/-- A REQ sent to an address, and its transaction tag. -/
def sendReq (a : Half) (operation : Word) (payload : Bytes) (waiter : Waiter) (part : Nat) (s : State) : State :=
  let c := connOf (reqConn a) s
  let f := { newFrame 0x05 a 1 s with txn := c.nextTxn, operation := operation, payload := payload }
  let s := setConn { c with nextTxn := c.nextTxn + 1 } s
  let r : Request := { conn := reqConn a, txn := f.txn, waiter := waiter, part := part, frame := f, fenced := false }
  sendReliable f none part (modFab s (fun g => { g with requests := g.requests ++ [r] }))

/-- The payload of a RESP: the status byte, and the value in 8 bytes (Table 11-4; assumption log 14). -/
def respPayload (status value : Nat) : Bytes := toLE status 1 ++ toLE value 8

/-- A RESP sent to a peer, and kept with its request's tag among the last 1,024 (R322). -/
def respond (f : Frame) (status value : Nat) (s : State) : State :=
  let c := connOf (connIn f) s
  let s := setConn { c with kept := (c.kept ++ [(f.txn, status, value)]).drop (c.kept.length + 1 - 1024) } s
  sendReliable { newFrame 0x06 f.src 1 s with txn := f.txn, operation := f.operation, payload := respPayload status value }
    none deviceOwner s

/-- A REQ received: one whose tag is among the kept is answered with the kept RESP and not executed again; otherwise `k`
executes it and gives the status and value (R322). -/
def receiveReq (link : Nat) (f : Frame) (s : State) (k : State → State × Nat × Nat) : State :=
  receiveReliable link f s (fun s =>
    match (connOf (connIn f) s).kept.find? (fun e => e.1 == f.txn) with
    | some (_, st, v) =>
      sendReliable
        { newFrame 0x06 f.src 1 s with txn := f.txn, operation := f.operation, payload := respPayload st v } none deviceOwner s
    | none =>
      let r := k s
      respond f r.2.1 r.2.2 r.1)

/-- Whether frames of a work item's messages are not yet acknowledged (R337). -/
def unackedOf (id : Nat) (s : State) : Bool :=
  s.fab.conns.any (fun c => (c.unacked ++ c.queued).any (fun u => u.work == some id))

end Sys2Proof.Machine
end

