-- ==== Sys2Proof/Machine/Beacons.lean ====
section
/-!
DEFINITION. The bodies of stairwell beacons and their sending (11_fabric_and_collectives.md, R323, R324, Table 11-6), and
the poison flag of a flight set with the beacon that tells it (R62). What a member does with a beacon stands in
Machine/Stairwell.lean.
-/
namespace Sys2Proof.Machine

/-- A beacon body as Table 11-6 lays it out. -/
structure Beacon where
  kind : Nat
  cause : Nat
  riser : Nat
  run : Nat
  state : Nat
  offset : Int
  timestamp : Nat
  pending : Nat
  period : Nat
  bound : Nat
  leader : Nat
  sets : List SetEntry
  deriving DecidableEq, Repr

/-- The bytes of a flight-set entry. -/
def setEntryBytes (e : SetEntry) : Bytes :=
  toLE e.set.toNat 2 ++ toLE e.members.toNat 2 ++ toLE e.flight.toNat 4 ++ toLE e.pendingFlight.toNat 4 ++
    toLE e.pendingLength.toNat 2 ++ toLE (b2n e.lands + 2 * b2n e.planPending + 4 * b2n e.poison) 1 ++ toLE e.part.toNat 1

/-- A flight-set entry read from 16 bytes. -/
def setEntryOf (b : Bytes) : SetEntry :=
  { set := BitVec.ofNat 16 (u16 b 0), members := BitVec.ofNat 16 (u16 b 2), flight := BitVec.ofNat 32 (u32 b 4),
    pendingFlight := BitVec.ofNat 32 (u32 b 8), pendingLength := BitVec.ofNat 16 (u16 b 12),
    lands := bit (byteAt b 14) 0, planPending := bit (byteAt b 14) 1, poison := bit (byteAt b 14) 2,
    part := BitVec.ofNat 8 (byteAt b 15) }

/-- The bytes of a beacon body. -/
def beaconBytes (b : Beacon) : Bytes :=
  toLE b.kind 1 ++ toLE b.cause 1 ++ toLE b.riser 6 ++ toLE b.run 1 ++ toLE b.state 1 ++
    toLE (unsignedOf 16 b.offset) 2 ++ toLE 0 4 ++ toLE b.timestamp 8 ++ toLE b.sets.length 1 ++ toLE b.pending 1 ++
    toLE b.period 2 ++ toLE b.bound 1 ++ toLE 0 1 ++ toLE b.leader 2 ++ (b.sets.map setEntryBytes).flatten

/-- A beacon body read from a payload; at most 8 entries. -/
def beaconOf (p : Bytes) : Beacon :=
  { kind := byteAt p 0, cause := byteAt p 1, riser := leNat (sub p 2 6), run := byteAt p 8, state := byteAt p 9,
    offset := signed 16 (u16 p 10), timestamp := u64 p 16, pending := byteAt p 25, period := u16 p 26,
    bound := byteAt p 28, leader := u16 p 30,
    sets := (List.range (min (byteAt p 24) 8)).map (fun f => setEntryOf (sub p (32 + 16 * f) 16)) }

/-- Code of STW_STATE (Table 2-11). -/
def StwState.code : StwState → Nat
  | .alone => 0
  | .forming => 1
  | .aligned => 2
  | .halted => 3

/-- Whether this device is the time leader (R50). -/
def isLeader (s : State) : Bool :=
  s.stw.members.isEmpty || s.stw.leader == fabAddr s

/-- The members to which this device sends beacons and probes: those of the stairwell, or of the one that forms. -/
def beaconMembers (s : State) : List Half :=
  match s.stw.forming with
  | some f => f.members
  | none => s.stw.members

/-- The member that leads, or would lead once formed; a device with no stairwell leads its own (R50). -/
def beaconLeader (s : State) : Half :=
  match s.stw.forming with
  | some f => f.leader
  | none => if s.stw.members.isEmpty then fabAddr s else s.stw.leader

/-- The riser that comes next. -/
def comingRiser (s : State) : Nat := (s.time.tread.toNat + 1) % 2 ^ 48

/-- Reference cycles of one µs (Table 0-3, R29). -/
def cyclesPerUs : Nat := 1400

/-- Whether the slip deadline of the coming riser, 2 µs before it, has passed (R43). -/
def pastDeadline (s : State) : Bool :=
  s.time.riserAt + cyclesPerUs * s.time.period < s.time.ref + 2 * cyclesPerUs

/-- The riser that a poison or a late announcement names: the coming one up to the slip deadline, else the one after. -/
def nextOpenRiser (s : State) : Nat := if pastDeadline s then (comingRiser s + 1) % 2 ^ 48 else comingRiser s

/-- The other members of the stairwell. -/
def otherMembers (s : State) : List Half := s.stw.members.filter (fun a => a != fabAddr s)

/-- The body that this device sends in a beacon of a kind, cause and riser (Table 11-6). -/
def newBeacon (kind cause riser : Nat) (sets : List SetEntry) (s : State) : Beacon :=
  { kind := kind, cause := cause, riser := riser, run := s.stw.run, state := s.stw.state.code,
    offset := if beaconLeader s = fabAddr s then 0 else s.stw.offset, timestamp := s.time.ref, pending := 0, period := 0, bound := 0,
    leader := 0, sets := sets }

/-- A beacon sent to one member: twice, on two links of its route when two are up (R323). -/
def sendBeaconTo (b : Beacon) (s : State) (a : Half) : State :=
  let f := { newFrame 0x03 a 0 s with operation := BitVec.ofNat 32 b.kind, payload := beaconBytes b }
  match linksTo a s with
  | [] => s
  | [l] => emitFrame (some l) f (emitFrame (some l) f s)
  | l :: m :: _ => emitFrame (some m) f (emitFrame (some l) f s)

/-- A beacon sent to every other member of the stairwell. -/
def sendBeacon (b : Beacon) (s : State) : State := (otherMembers s).foldl (sendBeaconTo b) s

/-- Whether a partition of this device holds the stairwell: its eviction's save, or the restore after one, goes on. -/
def partHolds (q : Partition) : Bool := q.saveAsked == some true || (q.evicted && q.restoreBusy)

/-- Whether the tread that begins at riser r is known to be no normal one: a slip, a hold or a halt is announced for it
(R46, R55, R64). -/
def noFlightLands (r : Nat) (s : State) : Bool :=
  (s.stw.state == .halted && (s.stw.resumeAt.map BitVec.toNat) != some r) ||
    (match s.stw.haltAt with | some h => decide (h.1.toNat ≤ r) | none => false) ||
    s.stw.slips.any (fun x => x.1.toNat == r) || s.stw.holdsFor.any (fun x => x.toNat == r) ||
    s.parts.any (fun e => partHolds e.2)

/-- Whether the flight of a partition has all its planned treads behind it at riser r, the next or the one at hand, and
lands there (R32, R46). -/
def landsAt (r : Nat) (q : Partition) (s : State) : Bool :=
  match q.flight with
  | none => false
  | some f => f.plan.length ≤ f.pos + b2n (s.time.kind == .normal) && !noFlightLands r s

/-- Whether the flight of a partition lands at the coming riser, as far as this device knows. -/
def landsNext (q : Partition) (s : State) : Bool := landsAt (comingRiser s) q s

/-- The pending plan that would begin next (R35): a replay when one is due, else the plan after the last flight. -/
def pendingPlan (q : Partition) : Option Plan :=
  let n := match q.flight with | some f => flightAfter f.plan.flight | none => nextFlight q
  q.plans.find? (fun g => g.flight == n)

/-- The pending plan when it is ready for the coming riser (R35, R387). -/
def readyPlan (q : Partition) (s : State) : Option Plan :=
  if q.state = .running ∧ q.restoreBusy = false ∧ q.saveBusy = false ∧ q.saveAsked.isNone = true ∧
      (q.flight.isNone = true ∨ (landsNext q s = true ∧ q.poison.isNone = true)) then pendingPlan q
  else none

/-- The flight of a partition that its beacon entries report as the current one: that of a Running or Draining partition
(DESIGN CHOICE: Table 11-6 does not say what an entry of a partition without a flight in progress, or with one that is
Saved or Faulted, holds there; the model reports 0 and no landing: assumption log 96). -/
def currentFlight (q : Partition) : Option Flight :=
  if q.state = .running ∨ q.state = .draining then q.flight else none

/-- The flight-set entry of partition p in this device's beacons; none when it belongs to no flight set (R35, R323). Set and
members are those of the pending plan that would begin next, ready or not; without one, and in an entry that carries the
poison flag (R324), those of the flight in progress. -/
def setEntryFor (s : State) (p : Nat) : Option SetEntry :=
  let q := s.part p
  let pend := pendingPlan q
  let own := q.flight.map Flight.plan
  let named := if q.poison.isSome then own.or pend else pend.or own
  named.map (fun g =>
    { set := g.set, members := g.members,
      flight := match currentFlight q with | some f => f.plan.flight | none => 0,
      pendingFlight := match pend with | some x => x.flight | none => 0,
      pendingLength := match pend with | some x => BitVec.ofNat 16 x.length | none => 0,
      lands := (currentFlight q).isSome && landsNext q s, planPending := (readyPlan q s).isSome, poison := q.poison.isSome,
      part := BitVec.ofNat 8 p })

/-- The flight-set entries of this device's partitions (R323). -/
def ownEntries (s : State) : List SetEntry := (List.range 8).filterMap (setEntryFor s)

/-! ## Halts (R52, R55, R67) -/

/-- Counter TRD_SLIP_OWN and those after it (Table 2-3). -/
def kTrd (i : Nat) : Nat := 0x020010 + 4 * i

/-- The stairwell moves to Halted for the riser named: HALT_CAUSE, and STW_HALTED to the device domain and to each Running
partition. A stairwell already Halted stays as it is (R52). -/
def haltNow (cause : Nat) (addr : Half) (riser : Nat) (s : State) : State :=
  if s.stw.state = .halted then s
  else
    let owners := deviceOwner :: (tkeys s.parts).filter (fun p => (s.part p).state == .running)
    let s := { s with stw := { s.stw with state := .halted, haltCause := cause, haltAt := none, resumeAt := none,
                                          haltOwners := owners } }
    owners.foldl (fun s o => postEvent o 0x1001 2 addr.toNat (cause + 65536 * riser) s) (s.bump (kTrd 3))

/-- A halt that this device raises for the coming riser: it is told to the members (R55, R323). -/
def raiseHalt (cause : Nat) (addr : Half) (s : State) : State :=
  if s.stw.state = .halted then s
  else sendBeacon (newBeacon 5 cause (comingRiser s) [] s) (haltNow cause addr (comingRiser s) s)

/-! ## Poison (R62, R467) -/

/-- The flight of partition p is poisoned and ends at the coming riser, or at the one after when the slip deadline has
passed; the first detail stays (R62, R467, R468). -/
def poisonFlight (p detail : Nat) (s : State) : State :=
  s.modPart p (fun q => { q with poison := match q.poison with
    | some d => some d
    | none => if q.flight.isSome then some (detail, nextOpenRiser s) else none })

/-- The flight set of a partition whose flight is in progress. -/
def flightSet (q : Partition) : Option Half := q.flight.map (fun f => f.plan.set)

/-- Partitions of this device, other than p, in p's flight set. -/
def setPeers (p : Nat) (s : State) : List Nat :=
  (tkeys s.parts).filter (fun x => x != p && (flightSet (s.part x)).isSome && flightSet (s.part x) == flightSet (s.part p))

/-- The poison flag of partition p's flight set: p's flight with the detail, its peers on this device with 0x03, and a
beacon for the members when the flag is newly set (R62, R242, R323, R467). -/
def setPoison (p detail : Nat) (s : State) : State :=
  let was := (s.part p).poison.isSome
  let s := (setPeers p s).foldl (fun s x => poisonFlight x 3 s) (poisonFlight p detail s)
  if was || (s.part p).poison.isNone then s
  else sendBeacon (newBeacon 4 0 (nextOpenRiser s) (setEntryFor s p).toList s) s

end Sys2Proof.Machine
end

