-- ==== Sys2Proof/Machine/Kv.lean ====
section
/-!
DEFINITION. Sequence slots as memory: aperture addresses, the pages behind them and the checks of an access
(10_sparsity_and_sequences.md, R300 to R302, R307). What landings do with slots stands in Machine/Sequences.lean.
-/
namespace Sys2Proof.Machine

/-- First byte of the KV aperture (R300). -/
def apertureBase : Nat := 0x2000000000000

/-- Whether an address lies in the aperture of the 2,048 slots. -/
def inAperture (a : Nat) : Bool := apertureBase ≤ a && a < apertureBase + 2048 * 0x4000000000

/-- Slot of an aperture address. -/
def apSlot (a : Nat) : Nat := (a - apertureBase) / 0x4000000000
/-- Stream of an aperture address. -/
def apStream (a : Nat) : Nat := (a - apertureBase) / 0x40000000 % 256
/-- Byte of an aperture address in its stream. -/
def apOffset (a : Nat) : Nat := (a - apertureBase) % 0x40000000

/-- The partition that holds a sequence slot (R299). -/
def slotHolder (n : Nat) (s : State) : Nat := holder (fun r => (r.slotFirst, r.slotCount)) n s

/-- State code of Table 10-10. -/
def SeqState.code : SeqState → Nat
  | .free => 0
  | .joining => 1
  | .running => 2
  | .leaving => 3
  | .parking => 4
  | .parked => 5
  | .unparking => 6

/-- Slot n of a partition. -/
def seqOf (q : Partition) (n : Nat) : SeqSlot := tget SeqSlot.atReset q.seqs n

/-- Stream j of a slot; one that does not exist holds nothing. -/
def streamOf (x : SeqSlot) (j : Nat) : Stream := x.streams.getD j { fill := 0, landed := 0, pages := [] }

/-- HBM address of page `pg` of the partition's KV pool (R301). -/
def poolAddr (q : Partition) (pg : Nat) : Nat := q.record.kvBase + 65536 * pg

/-- The pages of an access of n bytes at aperture address a, with their index in the stream. -/
def accessPages (x : SeqSlot) (a n : Nat) : List (Nat × Nat) :=
  let o := apOffset a
  ((streamOf x (apStream a)).pages.zipIdx.filter (fun p => overlaps (65536 * p.2) 65536 o n)).map
    (fun p => (p.2, p.1))

/-- Why an access to aperture bytes is not executed: status and detail (R302). -/
def kvReject (q : Partition) (a n : Nat) (write : Bool) : Option (Nat × Nat) :=
  let x := seqOf q (apSlot a)
  let st := streamOf x (apStream a)
  let readable := match x.state with
    | .running => true
    | .leaving => true
    | .parking => true
    | _ => false
  if readable = false then some (0x11, x.state.code)
  else if write && apOffset a < st.landed then some (0x11, 0x02)
  else if x.streams.length ≤ apStream a ∨ st.pages.length * 65536 < apOffset a + n then some (0x13, 0x02)
  else none

/-- Whether an access waits for a zero-fill, or for a park or unpark copy of a page it touches (R307). -/
def kvWaits (q : Partition) (a n : Nat) : Bool :=
  (accessPages (seqOf q (apSlot a)) a n).any (fun p =>
    q.zeroing.contains p.2 || q.seqs.any (fun e => e.2.copying.contains p.2))

/-- The listed cells of the pages that an access touches, at their aperture addresses. -/
def kvView (q : Partition) (a n : Nat) (m : Memory) : Memory :=
  let start := a - apOffset a
  ((accessPages (seqOf q (apSlot a)) a n).map (fun p =>
    (m.slice (poolAddr q p.2) 65536).map (fun c => (start + 65536 * p.1 + c.1, c.2)))).flatten

/-- The poison marks of those pages, as 64-byte lines of the aperture. -/
def kvMarks (q : Partition) (a n : Nat) (marks : List Nat) : List Nat :=
  let start := a - apOffset a
  ((accessPages (seqOf q (apSlot a)) a n).map (fun p =>
    let b := poolAddr q p.2
    (marks.filter (fun l => b ≤ l * 64 && l * 64 < b + 65536)).map (fun l =>
      (start + 65536 * p.1 + (l * 64 - b)) / 64))).flatten

/-- The parts of a write of n bytes at aperture address a: HBM address, offset in the data, length. -/
def kvParts (q : Partition) (a n : Nat) : List (Nat × Nat × Nat) :=
  (accessPages (seqOf q (apSlot a)) a n).map (fun p =>
    let lo := max (65536 * p.1) (apOffset a)
    let hi := min (65536 * p.1 + 65536) (apOffset a + n)
    (poolAddr q p.2 + (lo - 65536 * p.1), lo - apOffset a, hi - lo))

/-- The fill point of the stream written by n bytes at a (R301, R302). -/
def kvFill (p a n : Nat) (s : State) : State :=
  s.modPart p (fun q =>
    let x := seqOf q (apSlot a)
    let st := streamOf x (apStream a)
    let l := setAt x.streams (apStream a) { st with fill := max st.fill (apOffset a + n) }
    { q with seqs := tset q.seqs (apSlot a) { x with streams := l } })

/-- HBM bytes as an access by address sees them: the aperture's pages, or HBM itself. -/
def viewHbm (a n : Nat) (s : State) : Memory :=
  if inAperture a then kvView (s.part (slotHolder (apSlot a) s)) a n s.hbm else s.hbm

/-- Whether a read of n bytes at a returns poison, in the aperture or in HBM. -/
def viewPoisoned (a n : Nat) (s : State) : Bool :=
  if inAperture a then
    rangePoisoned (kvMarks (s.part (slotHolder (apSlot a) s)) a n s.hbmPoison) 64 a n
  else hbmPoisoned a n s

/-- Whether a partition may name n bytes at an HBM or aperture address (R299, R368). -/
def viewAllowed (p a n : Nat) (s : State) : Bool :=
  if inAperture a then slotHolder (apSlot a) s == p else hbmAllowed (s.part p) a n

end Sys2Proof.Machine
end

