-- ==== Sys2Proof/Machine/Numerics.lean ====
section
/-!
DEFINITION. Number formats and rounding (04_number_formats.md): the eleven element formats to the bit, the two roundings,
saturation, block scales and conversions. Values are exact binary fractions; a quotient or a root is held with a sticky bit
far below every rounding grid.
-/
namespace Sys2Proof.Machine

/-- A value: finite with its sign, infinite, or NaN. The finite value is (-1)^neg × m × 2^e; zero keeps its sign (R112). -/
inductive Num where
  | fin (neg : Bool) (m : Nat) (e : Int)
  | inf (neg : Bool)
  | nan
  deriving DecidableEq, Repr

/-- A floating-point format (Table 4-3): `max` is the code of the largest finite value. -/
structure FpFmt where
  ebits : Nat
  mbits : Nat
  bias : Int
  max : Nat
  hasInf : Bool
  deriving DecidableEq, Repr

/-- MXFP8 E4M3. -/
def fE4M3 : FpFmt := { ebits := 4, mbits := 3, bias := 7, max := 0x7E, hasInf := false }
/-- MXFP8 E5M2. -/
def fE5M2 : FpFmt := { ebits := 5, mbits := 2, bias := 15, max := 0x7B, hasInf := true }
/-- MXFP6 E3M2. -/
def fE3M2 : FpFmt := { ebits := 3, mbits := 2, bias := 3, max := 0x1F, hasInf := false }
/-- MXFP6 E2M3. -/
def fE2M3 : FpFmt := { ebits := 2, mbits := 3, bias := 1, max := 0x1F, hasInf := false }
/-- MXFP4 E2M1. -/
def fE2M1 : FpFmt := { ebits := 2, mbits := 1, bias := 1, max := 0x7, hasInf := false }
/-- BF16. -/
def fBF16 : FpFmt := { ebits := 8, mbits := 7, bias := 127, max := 0x7F7F, hasInf := true }
/-- FP32. -/
def fFP32 : FpFmt := { ebits := 8, mbits := 23, bias := 127, max := 0x7F7FFFFF, hasInf := true }

/-- floor(log2(m × 2^e)) for m > 0 (R120). -/
def floorLog2 (m : Nat) (e : Int) : Int := (Nat.log2 m : Int) + e

/-- The integer part and the remainder of m × 2^(-k): quotient, remainder, divisor. -/
def gridSplit (m : Nat) (k : Int) : Nat × Nat × Nat :=
  if k ≤ 0 then (m * 2 ^ (-k).toNat, 0, 1) else (m / 2 ^ k.toNat, m % 2 ^ k.toNat, 2 ^ k.toNat)

/-- Whether a value rounds away from zero on its grid: rne, or sr with a 16-bit draw (R120, R123). -/
def roundsUp (idx rem den : Nat) (draw : Option Nat) : Bool :=
  match draw with
  | none => 2 * rem > den || (2 * rem == den && idx % 2 == 1)
  | some r => r < rem * 65536 / den

/-- A finite value rounded into a format: the code without its sign, and whether the rounded magnitude exceeded the
largest finite value (R120, R122, R128). -/
def fpRoundMag (f : FpFmt) (m : Nat) (e : Int) (draw : Option Nat) (sat : Bool) : Nat × Bool :=
  if m = 0 then (0, false) else
  let ev := max (floorLog2 m e) (1 - f.bias)
  let g := gridSplit m (ev - f.mbits - e)
  let idx := g.1 + b2n (roundsUp g.1 g.2.1 g.2.2 draw)
  let code := (ev + f.bias - 1).toNat * 2 ^ f.mbits + idx
  if code ≤ f.max then (code, false)
  else (if f.hasInf && !sat then f.max + 1 else f.max, true)

/-- The sign bit of a format. -/
def FpFmt.signBit (f : FpFmt) : Nat := 2 ^ (f.ebits + f.mbits)

/-- The canonical NaN code (R114); a format without NaNs never receives one (R125 gives a NaN block instead). -/
def FpFmt.nanCode (f : FpFmt) : Nat := if f.hasInf then f.max + 1 + 2 ^ (f.mbits - 1) else f.max + 1

/-- A value rounded into a format, as a code, with the condition SAT (R120, R122). -/
def fpEncode (f : FpFmt) (v : Num) (draw : Option Nat) (sat : Bool) : Nat × Bool :=
  match v with
  | .nan => (f.nanCode, false)
  | .inf neg => (b2n neg * f.signBit + (if f.hasInf && !sat then f.max + 1 else f.max), sat || !f.hasInf)
  | .fin neg m e => let r := fpRoundMag f m e draw sat; (b2n neg * f.signBit + r.1, r.2)

/-- The value of a code (R112, Table 4-3). -/
def fpDecode (f : FpFmt) (code : Nat) : Num :=
  let neg := code / f.signBit % 2 == 1
  let a := code % f.signBit
  if a > f.max then (if f.hasInf && a == f.max + 1 then .inf neg else .nan)
  else
    let E := a / 2 ^ f.mbits
    let M := a % 2 ^ f.mbits
    if E = 0 then .fin neg M (1 - f.bias - f.mbits) else .fin neg (2 ^ f.mbits + M) ((E : Int) - f.bias - f.mbits)

/-- An FP32 code as a value. -/
def ofF32 (w : Word) : Num := fpDecode fFP32 w.toNat
/-- A value rounded to FP32 by rne, overflow to infinity. -/
def toF32 (v : Num) : Word := BitVec.ofNat 32 (fpEncode fFP32 v none false).1
/-- A value rounded to FP32 by rne, as a value. -/
def r32 (v : Num) : Num := ofF32 (toF32 v)
/-- A BF16 code as a value. -/
def ofBf16 (c : Nat) : Num := fpDecode fBF16 c

/-! ## Exact arithmetic -/

/-- The value of an integer. -/
def Num.ofInt (i : Int) : Num := .fin (i < 0) i.natAbs 0

/-- Whether a value is zero of either sign. -/
def Num.isZero : Num → Bool
  | .fin _ m _ => m == 0
  | _ => false

/-- Whether a value is NaN. -/
def Num.isNan : Num → Bool
  | .nan => true
  | _ => false

/-- Whether a value is infinite. -/
def Num.isInf : Num → Bool
  | .inf _ => true
  | _ => false

/-- Whether a value is finite. -/
def Num.isFin : Num → Bool
  | .fin _ _ _ => true
  | _ => false

/-- The sign of a value; NaN has none and counts as positive. -/
def Num.sign : Num → Bool
  | .fin n _ _ => n
  | .inf n => n
  | .nan => false

/-- The value with its sign turned. -/
def Num.negate : Num → Num
  | .fin n m e => .fin (!n) m e
  | .inf n => .inf (!n)
  | .nan => .nan

/-- The magnitude. -/
def Num.abs : Num → Num
  | .fin _ m e => .fin false m e
  | .inf _ => .inf false
  | .nan => .nan

/-- The exact product; 0 × infinity is NaN. -/
def Num.mul : Num → Num → Num
  | .nan, _ => .nan
  | _, .nan => .nan
  | .inf a, .inf b => .inf (a != b)
  | .inf a, .fin b m _ => if m = 0 then .nan else .inf (a != b)
  | .fin a m _, .inf b => if m = 0 then .nan else .inf (a != b)
  | .fin a m e, .fin b n g => .fin (a != b) (m * n) (e + g)

/-- A signed integer m × 2^(e - low) for a low exponent not above e. -/
def alignTo (low : Int) (neg : Bool) (m : Nat) (e : Int) : Int :=
  let a : Int := (m * 2 ^ (e - low).toNat : Nat)
  if neg then -a else a

/-- The exact sum; an exact zero sum of opposite signs is +0; infinities of opposite signs give NaN. -/
def Num.add : Num → Num → Num
  | .nan, _ => .nan
  | _, .nan => .nan
  | .inf a, .inf b => if a == b then .inf a else .nan
  | .inf a, .fin _ _ _ => .inf a
  | .fin _ _ _, .inf b => .inf b
  | .fin a m e, .fin b n g =>
    if m = 0 ∧ n = 0 then .fin (a && b) 0 0
    else
      let low := min e g
      let s := alignTo low a m e + alignTo low b n g
      .fin (s < 0) s.natAbs low

/-- The exact difference. -/
def Num.sub (x y : Num) : Num := x.add y.negate

/-- The value times 2^k. -/
def Num.scale (k : Int) : Num → Num
  | .fin n m e => .fin n m (e + k)
  | v => v

/-- x < y on values that are not NaN; false when one is. -/
def Num.lt (x y : Num) : Bool :=
  match x, y with
  | .nan, _ => false
  | _, .nan => false
  | .inf a, .inf b => a && !b
  | .inf a, .fin _ _ _ => a
  | .fin _ _ _, .inf b => !b
  | .fin a m e, .fin b n g =>
    let low := min e g
    alignTo low a m e < alignTo low b n g

/-- x ≤ y on values that are not NaN. -/
def Num.le (x y : Num) : Bool := !x.isNan && !y.isNan && !(y.lt x)

/-- The quotient of finite values, exact or held with a sticky bit at least 64 bits below its leading bit. -/
def quot (neg : Bool) (m : Nat) (e : Int) (n : Nat) (g : Int) : Num :=
  let k := 80 + Nat.log2 n + 1
  let q := m * 2 ^ k / n
  let r := m * 2 ^ k % n
  .fin neg (2 * q + b2n (r != 0)) (e - g - k - 1)

/-- The quotient by the IEEE rules for special values. -/
def Num.div : Num → Num → Num
  | .nan, _ => .nan
  | _, .nan => .nan
  | .inf _, .inf _ => .nan
  | .inf a, .fin b _ _ => .inf (a != b)
  | .fin a _ _, .inf b => .fin (a != b) 0 0
  | .fin a m e, .fin b n g =>
    if n = 0 then (if m = 0 then .nan else .inf (a != b))
    else if m = 0 then .fin (a != b) 0 0 else quot (a != b) m e n g

/-- The integer square root by bits, from bit i down. -/
def isqrtGo : Nat → Nat → Nat → Nat
  | 0, n, r => if (r + 1) * (r + 1) ≤ n then r + 1 else r
  | i + 1, n, r => isqrtGo i n (if (r + 2 ^ (i + 1)) * (r + 2 ^ (i + 1)) ≤ n then r + 2 ^ (i + 1) else r)

/-- The largest r with r × r ≤ n. -/
def isqrt (n : Nat) : Nat := isqrtGo (Nat.log2 n / 2 + 1) n 0

/-- The square root of m × 2^e, exact or with a sticky bit at least 64 bits below its leading bit. -/
def sqrtFin (m : Nat) (e : Int) : Num :=
  let k : Nat := 160 + b2n ((e % 2).toNat == 1)
  let x := m * 2 ^ k
  let q := isqrt x
  .fin false (2 * q + b2n (q * q != x)) ((e - k) / 2 - 1)

/-! ## Integers (R121, R127) -/

/-- A value rounded to an integer in [lo, hi], with the condition SAT: NaN gives 0, an infinity the limit of its sign. -/
def intRound (v : Num) (lo hi : Int) (draw : Option Nat) : Int × Bool :=
  match v with
  | .nan => (0, false)
  | .inf neg => (if neg then lo else hi, true)
  | .fin neg m e =>
    let g := gridSplit m (-e)
    let a : Int := (g.1 + b2n (roundsUp g.1 g.2.1 g.2.2 draw) : Nat)
    let r := if neg then -a else a
    if r < lo then (lo, true) else if hi < r then (hi, true) else (r, false)

/-! ## Format codes (Table 4-1) -/

/-- Element bits of a format code; 0 for a reserved code. -/
def fmtBits : Nat → Nat
  | 0 => 32 | 1 => 16 | 2 => 8 | 3 => 8 | 4 => 6 | 5 => 6 | 6 => 4 | 7 => 8 | 8 => 8 | 9 => 4 | 10 => 32
  | _ => 0

/-- Whether a format code is assigned (R110). -/
def fmtLegal (f : Nat) : Bool := f ≤ 10

/-- Whether a format has block scales. -/
def fmtMx (f : Nat) : Bool := 2 ≤ f && f ≤ 7

/-- Whether a format is an array operand. -/
def fmtArray (f : Nat) : Bool := 1 ≤ f && f ≤ 9

/-- The floating-point element format of a code, where it is one. -/
def fmtFp : Nat → Option FpFmt
  | 0 => some fFP32 | 1 => some fBF16 | 2 => some fE4M3 | 3 => some fE5M2 | 4 => some fE3M2 | 5 => some fE2M3
  | 6 => some fE2M1
  | _ => none

/-- The range that a conversion into an integer format produces (Table 4-5). -/
def intRange : Nat → Int × Int
  | 8 => (-128, 127)
  | 9 => (-8, 7)
  | _ => (-2147483648, 2147483647)

/-- The value of an element code before its block scale (R112, R115). -/
def elemValue (f code : Nat) : Num :=
  match fmtFp f with
  | some g => fpDecode g code
  | none => (Num.ofInt (signed (fmtBits f) code)).scale (if f = 7 then -6 else 0)

/-- The value of an element of an MX block, or of a format without blocks (R116, R119). -/
def blockValue (f scale code : Nat) : Num :=
  if fmtMx f then
    if scale = 0xFF then .nan
    else
      match elemValue f code with
      | .fin n m e => .fin n m (e + (scale : Int) - 127)
      | _ => .nan
  else elemValue f code

/-! ## Packing (R117, R118) -/

/-- Bytes of an element plane of n elements. -/
def planeBytes (f n : Nat) : Nat := (n * fmtBits f + 7) / 8

/-- Element i of an element plane: its bits lie in one little-endian stream (R118). -/
def elemCode (f : Nat) (bs : Bytes) (i : Nat) : Nat :=
  let b := i * fmtBits f
  bits (leNat (sub bs (b / 8) 5)) (b % 8) (fmtBits f)

/-- The first n element codes of a plane. -/
def unpackCodes (f : Nat) (bs : Bytes) (n : Nat) : List Nat := (List.range n).map (elemCode f bs)

/-- The little-endian stream of at most 8 codes of b bits. -/
def packGroup (b : Nat) (codes : List Nat) : Bytes :=
  toLE (codes.foldr (fun c acc => c % 2 ^ b + 2 ^ b * acc) 0) ((codes.length * b + 7) / 8)

/-- The list cut into runs of k; `fuel` is at least its length. -/
def runsOf {α : Type} (k : Nat) : Nat → List α → List (List α)
  | 0, _ => []
  | _, [] => []
  | fuel + 1, l => l.take k :: runsOf k fuel (l.drop k)

/-- An element plane (R117, R118). -/
def packCodes (f : Nat) (codes : List Nat) : Bytes :=
  ((runsOf 8 codes.length codes).map (packGroup (fmtBits f))).flatten

/-- A list of values padded with +0 to a whole number of blocks of 32 (R117). -/
def padBlocks (vs : List Num) : List Num := vs ++ List.replicate ((32 - vs.length % 32) % 32) (.fin false 0 0)

/-! ## Block scales and conversions (R125 to R128) -/

/-- What a conversion of one block or one element gives: codes, scale, and the conditions SAT and NAN. -/
structure Conv where
  scale : Nat
  codes : List Nat
  sat : Bool
  nan : Bool
  deriving DecidableEq, Repr

/-- The exponent of the largest finite value of an MX element format; 0 for MXINT8 (Table 4-3, R125). -/
def fmtEmax : Nat → Int
  | 2 => 8 | 3 => 15 | 4 => 4 | 5 => 2 | 6 => 2
  | _ => 0

/-- floor_log2 of the largest magnitude of a list of finite values; none when all are zero. -/
def amaxLog2 (xs : List Num) : Option Int :=
  xs.foldl (fun acc x =>
    match x with
    | .fin _ m e =>
      if m = 0 then acc
      else match acc with
        | none => some (floorLog2 m e)
        | some a => some (max a (floorLog2 m e))
    | _ => acc) none

/-- The draw of element i of a conversion: none under rne. -/
abbrev Draws := Option (List Nat)

/-- The i-th draw of a conversion (R123). -/
def Draws.at_ (d : Draws) (i : Nat) : Option Nat := d.map (fun l => l.getD i 0)

/-- One MX block from values decoded from FP32 (R125). -/
def mxQuantize (xs : List Num) (f : Nat) (draws : Draws) : Conv :=
  if xs.any (fun x => !x.isFin) then { scale := 0xFF, codes := xs.map (fun _ => 0), sat := false, nan := true }
  else
    let se : Int := match amaxLog2 xs with
      | none => -127
      | some a => max (a - fmtEmax f) (-127)
    let each := xs.zipIdx.map (fun (x, i) =>
      if f = 7 then
        let r := intRound (x.scale (6 - se)) (-127) 127 (draws.at_ i)
        (unsignedOf 8 r.1, r.2)
      else
        match fmtFp f with
        | some g => fpEncode g (x.scale (-se)) (draws.at_ i) true
        | none => (0, false))
    { scale := (se + 127).toNat, codes := each.map Prod.fst, sat := each.any Prod.snd, nan := false }

/-- The step to FP32 of a conversion between two formats neither of which is FP32 (R126): rne, no draw; an infinity goes
on to an MX block as it is (R125, assumption log 10). -/
def throughF32 (src dst : Nat) (satBit : Bool) (v : Num) : Num × Bool :=
  if src = 0 ∨ (fmtMx dst = true ∧ v.isInf = true) then (v, false)
  else
    let sat := if dst = 1 ∨ dst = 0 then satBit else true
    let r := fpEncode fFP32 v none sat
    (ofF32 (BitVec.ofNat 32 r.1), r.2)

/-- One element converted from format code src to a format code dst without blocks (R122, R126, R127). -/
def convertElem (src dst : Nat) (satBit : Bool) (v : Num) (draw : Option Nat) : Conv :=
  let nanIn := v.isNan
  if dst = 0 then
    let r := fpEncode fFP32 v draw satBit
    { scale := 0, codes := [r.1], sat := r.2, nan := nanIn }
  else
    let w := throughF32 src dst satBit v
    if dst = 1 then
      let r := fpEncode fBF16 w.1 draw satBit
      { scale := 0, codes := [r.1], sat := w.2 || r.2, nan := nanIn }
    else
      let g := intRange dst
      let r := intRound w.1 g.1 g.2 draw
      { scale := 0, codes := [unsignedOf (fmtBits dst) r.1], sat := w.2 || r.2, nan := nanIn || v.isInf }

/-- 32 elements converted to one MX block (R125, R126). -/
def convertBlock (src dst : Nat) (vs : List Num) (draws : Draws) : Conv :=
  let ws := vs.map (throughF32 src dst true)
  let c := mxQuantize (ws.map Prod.fst) dst draws
  { c with sat := c.sat || ws.any Prod.snd }

/-- A run of elements in a destination format: element codes, block scales and conditions. -/
structure Plane where
  codes : List Nat
  scales : List Nat
  sat : Bool
  nan : Bool
  deriving DecidableEq, Repr

/-- A run of elements converted to a format code, with the draws of its elements in element order; an MX run is padded
to whole blocks first (R117, R123). -/
def convertRun (src dst : Nat) (satBit : Bool) (vs : List Num) (draws : Draws) : Plane :=
  if fmtMx dst then
    let ps := padBlocks vs
    let cs := (runsOf 32 ps.length ps).zipIdx.map (fun (b, k) =>
      convertBlock src dst b (draws.map (fun l => (l.drop (32 * k)).take 32)))
    { codes := (cs.map Conv.codes).flatten, scales := cs.map Conv.scale, sat := cs.any Conv.sat, nan := cs.any Conv.nan }
  else
    let cs := vs.zipIdx.map (fun (v, i) => convertElem src dst satBit v (draws.at_ i))
    { codes := (cs.map Conv.codes).flatten, scales := [], sat := cs.any Conv.sat, nan := cs.any Conv.nan }

/-- Format byte fields (Table 4-2). -/
def fbFormat (b : Nat) : Nat := bits b 0 4
/-- ROUND is sr. -/
def fbSr (b : Nat) : Bool := bits b 4 2 == 1
/-- SAT. -/
def fbSat (b : Nat) : Bool := bit b 6
/-- Whether a written format byte is legal (R110, R111). -/
def fbLegal (b : Nat) : Bool := fmtLegal (fbFormat b) && bits b 4 2 ≤ 1 && !bit b 7
/-- Whether a read-only format byte is legal (R111). -/
def fbReadLegal (b : Nat) : Bool := b ≤ 10

end Sys2Proof.Machine
end

