-- ==== Sys2Proof/Machine/VecMath.lean ====
section
/-!
DEFINITION. The correctly rounded functions of the vector engine (R208, R209) and the counter-based generator
(R221 to R224). A transcendental value is held with about 230 bits and a sticky bit: no FP32 argument other than those
treated as exact has a value that an FP32 or BF16 grid point or midpoint meets that closely (assumption log 11).
-/
namespace Sys2Proof.Machine

/-- Fraction bits of the fixed-point work below. -/
def fixBits : Nat := 256

/-- 1 in fixed point. -/
def fixOne : Int := 2 ^ 256

/-- ln 2 × 2^256, rounded down. -/
def fixLn2 : Int := 0xb17217f7d1cf79abc9e3b39803f2f6af40f343267298b62d8a0d175b8baafa2b

/-- The product of two fixed-point numbers. -/
def fixMul (a b : Int) : Int := a * b / fixOne

/-- Terms n down to 1 of the exponential series by Horner's rule. -/
def expSeries (r : Int) : Nat → Int → Int
  | 0, acc => acc
  | n + 1, acc => expSeries r n (fixOne + fixMul r acc / (n + 1 : Nat))

/-- e^r in fixed point for |r| ≤ 1. -/
def fixExp (r : Int) : Int := expSeries r 60 fixOne

/-- Odd terms of the inverse hyperbolic tangent of z, from z^(2n+1) / (2n+1) down, z2 = z². -/
def atanhSeries (z2 : Int) : Nat → Int → Int
  | 0, acc => acc
  | n + 1, acc => atanhSeries z2 n (fixOne / (2 * n + 1 : Nat) + fixMul z2 acc)

/-- ln y in fixed point for y near 1 (between 2/3 and 3/2). -/
def fixLn (y : Int) : Int :=
  let z := (y - fixOne) * fixOne / (y + fixOne)
  2 * fixMul z (atanhSeries (fixMul z z) 64 0)

/-- A fixed-point value times 2^k that is not exact, as a value with a sticky bit. -/
def ofFix (v : Int) (k : Int) : Num := .fin (v < 0) (2 * (v.natAbs / 2 ^ 16) + 1) (k - 256 + 15)

/-- A finite value in fixed point, rounded down. -/
def toFix (neg : Bool) (m : Nat) (e : Int) : Int :=
  let a : Int := if 0 ≤ e + 256 then (m * 2 ^ (e + 256).toNat : Nat) else (m / 2 ^ (-(e + 256)).toNat : Nat)
  if neg then -a else a

/-- e^x for finite nonzero x; beyond the range of FP32 any value that overflows or underflows there. -/
def expFin (neg : Bool) (m : Nat) (e : Int) : Num :=
  if 8 ≤ floorLog2 m e then (if neg then .fin false 1 (-400) else .fin false 1 400)
  else
    let x := toFix neg m e
    let n := (x + fixLn2 / 2) / fixLn2
    ofFix (fixExp (x - n * fixLn2)) n

/-- 2^x for finite nonzero x. -/
def exp2Fin (neg : Bool) (m : Nat) (e : Int) : Num :=
  if 9 ≤ floorLog2 m e then (if neg then .fin false 1 (-600) else .fin false 1 600)
  else
    let x := toFix neg m e
    let n := x / fixOne
    let f := x - n * fixOne
    if f = 0 then .fin false 1 n else ofFix (fixExp (fixMul f fixLn2)) n

/-- The exponent n and the fixed-point mantissa y of m × 2^e = y × 2^n, y between 2/3 and 4/3. -/
def logSplit (m : Nat) (e : Int) : Int × Int :=
  let l := Nat.log2 m
  let y : Int := (m : Int) * 2 ^ 256 / 2 ^ l
  if 3 * y ≤ 4 * fixOne then ((l : Int) + e, y) else ((l : Int) + e + 1, y / 2)

/-- ln(m × 2^e) in fixed point, m > 0. -/
def lnFix (m : Nat) (e : Int) : Int := let p := logSplit m e; p.1 * fixLn2 + fixLn p.2

/-- Whether m × 2^e is a power of two. -/
def isPow2 (m : Nat) : Bool := m == 2 ^ Nat.log2 m

/-- tanh of finite nonzero x. -/
def tanhFin (neg : Bool) (m : Nat) (e : Int) : Num :=
  let l := floorLog2 m e
  if l < -50 then .fin neg (m * 2 ^ 64 - 1) (e - 64)
  else if 5 ≤ l then .fin neg (2 ^ 100 - 1) (-100)
  else
    let x := toFix false m (e + 1)
    let n := (x + fixLn2 / 2) / fixLn2
    let t := fixExp (x - n * fixLn2) * 2 ^ n.toNat
    let v := (t - fixOne) * fixOne / (t + fixOne)
    ofFix (if neg then -v else v) 0

/-- 1 / sqrt(m × 2^e), m > 0. -/
def rsqrtFin (m : Nat) (e : Int) : Num :=
  let m' := if e % 2 = 0 then m else 2 * m
  let e' := if e % 2 = 0 then e else e - 1
  let k := 160 + Nat.log2 m'
  let y := 2 ^ (2 * k) / m'
  let q := isqrt y
  .fin false (2 * q + b2n (q * q != y || 2 ^ (2 * k) % m' != 0)) (-(e' / 2) - k - 1)

/-- The FUNC primitives EXP to TANH (Table 7-5) on a value: the exact result and the condition INVALID (R208). -/
def primitive (func : Nat) (x : Num) : Num × Bool :=
  match func, x with
  | _, .nan => (.nan, false)
  | 0, .inf n => (if n then .fin false 0 0 else .inf false, false)
  | 0, .fin n m e => (if m = 0 then .fin false 1 0 else expFin n m e, false)
  | 1, .inf n => (if n then .fin false 0 0 else .inf false, false)
  | 1, .fin n m e => (if m = 0 then .fin false 1 0 else exp2Fin n m e, false)
  | 2, .inf n => if n then (.nan, true) else (.inf false, false)
  | 2, .fin n m e =>
    if m = 0 then (.inf true, false) else if n then (.nan, true)
    else if m * 2 ^ e.toNat = 2 ^ (-e).toNat then (.fin false 0 0, false) else (ofFix (lnFix m e) 0, false)
  | 3, .inf n => if n then (.nan, true) else (.inf false, false)
  | 3, .fin n m e =>
    if m = 0 then (.inf true, false) else if n then (.nan, true)
    else if isPow2 m then (Num.ofInt ((Nat.log2 m : Int) + e), false)
    else (ofFix (lnFix m e * fixOne / fixLn2) 0, false)
  | 4, y => (Num.div (.fin false 1 0) y, false)
  | 5, .inf n => if n then (.nan, true) else (.inf false, false)
  | 5, .fin n m e => if m = 0 then (.fin n 0 0, false) else if n then (.nan, true) else (sqrtFin m e, false)
  | 6, .inf n => if n then (.nan, true) else (.fin false 0 0, false)
  | 6, .fin n m e => if m = 0 then (.inf n, false) else if n then (.nan, true) else (rsqrtFin m e, false)
  | _, .inf n => (.fin n 1 0, false)
  | _, .fin n m e => (if m = 0 then .fin n 0 0 else tanhFin n m e, false)

/-- A primitive rounded to FP32. -/
def prim32 (func : Nat) (x : Num) : Num := r32 (primitive func x).1

/-- sigmoid (R209). -/
def sigmoid (x : Num) : Num := prim32 4 (r32 ((Num.ofInt 1).add (prim32 0 x.negate)))
/-- silu (R209); 0 × infinity is invalid. -/
def silu (x : Num) : Num × Bool :=
  let y := x.mul (sigmoid x)
  (r32 y, y.isNan && !x.isNan)
/-- swiglu (R209). -/
def swiglu (a b : Num) : Num × Bool :=
  let t := silu a
  let y := t.1.mul b
  (r32 y, t.2 || (y.isNan && !t.1.isNan && !b.isNan))

/-- MAX: NaN if either operand is NaN; -0 below +0 (R208). -/
def Num.max (x y : Num) : Num :=
  if x.isNan || y.isNan then .nan
  else if x.isZero && y.isZero then .fin (x.sign && y.sign) 0 0 else if x.lt y then y else x
/-- MIN. -/
def Num.min (x y : Num) : Num :=
  if x.isNan || y.isNan then .nan
  else if x.isZero && y.isZero then .fin (x.sign || y.sign) 0 0 else if x.lt y then x else y

/-- The exact sum of a list of values (R210); the empty sum is +0. -/
def exactSum : List Num → Num
  | [] => .fin false 0 0
  | [x] => x
  | x :: xs => x.add (exactSum xs)

/-- Whether a list without NaN holds infinities of both signs, which makes its sum invalid (R210). -/
def mixedInf (xs : List Num) : Bool :=
  !xs.any Num.isNan && xs.any (fun x => x == .inf true) && xs.any (fun x => x == .inf false)

/-! ## The counter-based generator (R221, R222) -/

/-- The five key words. -/
def genKey (seed stream : Word64) : List Word :=
  let k0 := seed.setWidth 32
  let k1 := (seed >>> 32).setWidth 32
  let k2 := stream.setWidth 32
  let k3 := (stream >>> 32).setWidth 32
  [k0, k1, k2, k3, k0 ^^^ k1 ^^^ k2 ^^^ k3 ^^^ 0x9E3779B9#32]

/-- The four state words of the generator. -/
abbrev Quad := Word × Word × Word × Word

/-- Key injection s. -/
def genInject (k : List Word) (s : Nat) (x : Quad) : Quad :=
  let at_ (j : Nat) : Word := k.getD ((s + j) % 5) 0
  (x.1 + at_ 0, x.2.1 + at_ 1, x.2.2.1 + at_ 2, x.2.2.2 + at_ 3 + BitVec.ofNat 32 s)

/-- One round with its two rotations. -/
def genRound (a b : Nat) (x : Quad) : Quad :=
  let x0 := x.1 + x.2.1
  let x1 := x.2.1.rotateLeft a ^^^ x0
  let x2 := x.2.2.1 + x.2.2.2
  let x3 := x.2.2.2.rotateLeft b ^^^ x2
  (x0, x3, x2, x1)

/-- Rounds r to r + n - 1. -/
def genRounds (k : List Word) : Nat → Nat → Quad → Quad
  | 0, _, x => x
  | n + 1, r, x =>
    let y := genRound ([16, 12, 8, 24].getD (r % 4) 0) ([8, 20, 28, 4].getD (r % 4) 0) x
    genRounds k n (r + 1) (if r % 2 = 1 then genInject k ((r + 1) / 2) y else y)

/-- gen_block: four output words (R221). -/
def genBlock (seed stream : Word64) (c0 c1 c2 c3 : Word) : Quad :=
  let k := genKey seed stream
  genRounds k 10 0 (genInject k 0 (c0, c1, c2, c3))

/-- The eight draws of one call (R222). -/
def callDraws (q : Quad) : List Nat :=
  [q.1, q.2.1, q.2.2.1, q.2.2.2].flatMap (fun w => [w.toNat % 65536, w.toNat / 65536])

/-- The first n draws of an operation with counter words c1, c2, c3 (R222). -/
def genDraws (seed stream : Word64) (c1 c2 c3 : Word) (n : Nat) : List Nat :=
  (((List.range ((n + 7) / 8)).map (fun i => callDraws (genBlock seed stream (BitVec.ofNat 32 i) c1 c2 c3))).flatten).take n

end Sys2Proof.Machine
end

