-- ==== Sys2Proof/Machine/Ledger.lean ====
section
/-!
DEFINITION. Block values, promotion and page images (06_ledger.md, R165 to R178, R187, R189, R193). What moves a page
between its states stands in Machine/Programs.lean.
-/
namespace Sys2Proof.Machine

/-- The sticky flags of Table 6-2. -/
structure PageFlags where
  nan : Bool
  ovf : Bool
  isat : Bool
  loss : Bool
  deriving DecidableEq, Repr

/-- No flag. -/
def noFlags : PageFlags := { nan := false, ovf := false, isat := false, loss := false }

/-- Flags of either. -/
def PageFlags.or (a b : PageFlags) : PageFlags :=
  { nan := a.nan || b.nan, ovf := a.ovf || b.ovf, isat := a.isat || b.isat, loss := a.loss || b.loss }

/-- Whether a flag is set. -/
def PageFlags.any (a : PageFlags) : Bool := a.nan || a.ovf || a.isat || a.loss

/-- Bits [3:0] of a completion's detail byte (R196). -/
def PageFlags.toNat (a : PageFlags) : Nat := b2n a.nan + 2 * b2n a.ovf + 4 * b2n a.isat + 8 * b2n a.loss

/-- Flags from such bits. -/
def PageFlags.ofNat (v : Nat) : PageFlags := { nan := bit v 0, ovf := bit v 1, isat := bit v 2, loss := bit v 3 }

/-- The value of one block (R169): a finite value, whether it is NaN, and LOSS. -/
structure BlockVal where
  v : Num
  nan : Bool
  loss : Bool
  deriving DecidableEq, Repr

/-- Zero. -/
def zeroNum : Num := .fin false 0 0

/-- floor_log2 of a nonzero finite value. -/
def numLog2 : Num → Int
  | .fin _ m e => floorLog2 m e
  | _ => 0

/-- The value of a block of products of a format without scales on BF16 (R169): products more than 40 binades below the
largest are dropped. -/
def bf16Block (ps : List Num) : BlockVal :=
  match amaxLog2 ps with
  | none => { v := zeroNum, nan := false, loss := false }
  | some top =>
    let kept := ps.filter (fun p => p.isZero || top - 40 ≤ numLog2 p)
    { v := exactSum kept, nan := false, loss := kept.length != ps.length }

/-- block_value (R169): operand pairs of the products that cells form, decoded without scales; sx and sw are the block
scales of an MX pair. -/
def blockVal (mx bf16 : Bool) (sx sw : Nat) (pairs : List (Num × Num)) : BlockVal :=
  if mx && (sx == 0xFF || sw == 0xFF) then { v := zeroNum, nan := true, loss := false }
  else if pairs.any (fun p => !p.1.isFin || !p.2.isFin) then { v := zeroNum, nan := true, loss := false }
  else
    let ps := pairs.map (fun p => p.1.mul p.2)
    if bf16 then bf16Block ps
    else
      let s := exactSum ps
      { v := if mx then s.scale ((sx : Int) - 127 + ((sw : Int) - 127)) else s, nan := false, loss := false }

/-- promote (R170): the new FP32 code, and the flags it raises. -/
def promote (t : Word) (v : Num) (nan : Bool) : Word × PageFlags :=
  let x := ofF32 t
  if nan || x.isNan then (0x7FC00000, { noFlags with nan := true })
  else if x.isInf then (t, noFlags)
  else
    let r := x.add v
    if r.isZero then (0, noFlags)
    else
      let u := toF32 r
      (u, { noFlags with ovf := (ofF32 u).isInf })

/-- Promotion into an INT32 entry (R171). -/
def promoteInt (t : Word) (v : Num) : Word × PageFlags :=
  let r := intRound ((Num.ofInt (signed 32 t.toNat)).add v) (-2147483648) 2147483647 none
  (BitVec.ofNat 32 (unsignedOf 32 r.1), { noFlags with isat := r.2 })

/-- promote_comp (R176). -/
def promoteComp (hi lo : Word) (v : Num) (nan : Bool) : (Word × Word) × PageFlags :=
  let h := promote hi v nan
  let x := ofF32 h.1
  if x.isNan || x.isInf then ((h.1, lo), h.2)
  else
    let e := ((ofF32 hi).add v).sub x
    let l := promote lo e false
    ((h.1, l.1), h.2.or l.2)

/-- The readout of a pair entry (R177). -/
def readout (hi lo : Word) : Word := (promote hi (ofF32 lo) (ofF32 lo).isNan).1

/-- An entry of a page under accumulation: hi or the whole entry, lo for a pair, flags, and promotions that set a flag. -/
structure Acc where
  hi : Word
  lo : Word
  flags : PageFlags
  flagged : Nat
  deriving DecidableEq, Repr

/-- One promotion of a block into an entry of a page type. -/
def Acc.promote (ty : PageType) (a : Acc) (b : BlockVal) : Acc :=
  let loss : PageFlags := { noFlags with loss := b.loss }
  let r : (Word × Word) × PageFlags := match ty with
    | .fp32 => let x := Machine.promote a.hi b.v b.nan; ((x.1, a.lo), x.2)
    | .int32 => let x := promoteInt a.hi b.v; ((x.1, a.lo), x.2)
    | .pair => promoteComp a.hi a.lo b.v b.nan
  let f := r.2.or loss
  { hi := r.1.1, lo := r.1.2, flags := a.flags.or f, flagged := a.flagged + b2n f.any }

/-- The entries of a Free page, opened: +0 (R172). -/
def zeroEntries : List Word := List.replicate 2048 0

/-- A page's content: 2,048 entries, those of the lo page for a pair, and what its promotions raised. -/
structure PageAcc where
  hi : List Word
  lo : List Word
  flags : PageFlags
  flagged : Nat
  deriving DecidableEq, Repr

/-- Every entry of a page promoted with the blocks that `blocks` gives its token and feature, in their order (R173). -/
def promotePage (ty : PageType) (hi lo : List Word) (blocks : Nat → Nat → List BlockVal) : PageAcc :=
  let accs := (List.range 2048).map (fun i =>
    let a : Acc := { hi := hi.getD i 0, lo := lo.getD i 0, flags := noFlags, flagged := 0 }
    (blocks (i / 128) (i % 128)).foldl (Acc.promote ty) a)
  { hi := accs.map Acc.hi, lo := accs.map Acc.lo,
    flags := accs.foldl (fun f a => f.or a.flags) noFlags, flagged := accs.foldl (fun k a => k + a.flagged) 0 }

/-- The content a readout of a page delivers (R177): the entries, or the pair's rounded sums. -/
def readoutPage (ty : PageType) (hi lo : List Word) : List Word :=
  match ty with
  | .pair => (List.range 2048).map (fun i => readout (hi.getD i 0) (lo.getD i 0))
  | _ => (List.range 2048).map (fun i => hi.getD i 0)

/-! ## Images (R189, R193) -/

/-- Type code of Table 6-1. -/
def PageType.code : PageType → Nat
  | .fp32 => 0
  | .int32 => 1
  | .pair => 2

/-- State code of Table 6-3. -/
def PageState.code : PageState → Nat
  | .free => 0
  | .open_ => 1
  | .sealed => 2
  | .held => 3
  | .poisoned => 5
  | .lo => 6

/-- Entries as bytes, little-endian. -/
def entryBytes (es : List Word) : Bytes := (es.map (fun w => toLE w.toNat 4)).flatten

/-- n entries from bytes at an offset. -/
def bytesEntries (bs : Bytes) (n : Nat) : List Word :=
  (runsOf 4 bs.length bs).map (fun l => BitVec.ofNat 32 (leNat l)) |>.take n

/-- The 64-byte header of Table 6-7. `ckpt` is byte 8: a checkpoint's page state, 0 in a spill image. -/
def imageHeader (ty : PageType) (part : Nat) (flags : PageFlags) (flight : Word) (ckpt : Nat) : Bytes :=
  toLE 4 1 ++ toLE ty.code 1 ++ toLE part 1 ++ toLE flags.toNat 1 ++ toLE flight.toNat 4 ++ toLE ckpt 1 ++
    List.replicate 55 0

/-- The flags of a page. -/
def PageImage.flags (p : PageImage) : PageFlags := { nan := p.nan, ovf := p.ovf, isat := p.isat, loss := p.loss }

/-- The page with more flags. -/
def PageImage.addFlags (p : PageImage) (f : PageFlags) : PageImage :=
  { p with nan := p.nan || f.nan, ovf := p.ovf || f.ovf, isat := p.isat || f.isat, loss := p.loss || f.loss }

/-- A spill image: header, entries, and for a pair the entries of lo at offset 8,256 (R189). -/
def spillImage (p : PageImage) (lo : List Word) (part : Nat) (flight : Word) : Bytes :=
  let h := imageHeader p.type part p.flags flight 0
  match p.type with
  | .pair => h ++ entryBytes p.entries ++ entryBytes lo
  | _ => h ++ entryBytes p.entries

/-- Bytes of a spill image. -/
def imageBytes (ty : PageType) : Nat :=
  match ty with
  | .pair => 16448
  | _ => 8256

/-- A page type from its code; reserved codes read as FP32. -/
def pageTypeOf : Nat → PageType
  | 1 => .int32
  | 2 => .pair
  | _ => .fp32

end Sys2Proof.Machine
end

