-- ==== Sys2Proof/Machine/Array.lean ====
section
/-!
DEFINITION. The matrix array's data: stationary tiles, weight streams, the blocks of a pass and of the thin path
(05_matrix_array.md, R130 to R136, R149 to R154, R158; column reads R231 to R233). Cores run them from
Machine/Programs.lean.
-/
namespace Sys2Proof.Machine

/-- Reduction positions of a tile (Table 5-1). -/
def tilePositions (f : Nat) (sparse : Bool) : Nat :=
  if sparse then (if fmtBits f = 4 then 128 else 64)
  else if fmtBits f = 4 ∨ fmtBits f = 6 then 64 else 32

/-- Blocks per column of a tile. -/
def tileBlocks (f : Nat) (sparse : Bool) : Nat := tilePositions f sparse / 32

/-- Cycles per feature (Table 5-1). -/
def cyclesPerFeature (f : Nat) : Nat := if f = 1 then 4 else 1

/-- The pairs of Table 5-2. -/
def legalPair (st wt : Nat) (sparse : Bool) : Bool :=
  let same := match st, wt with
    | 2, 2 => true | 2, 3 => true | 3, 2 => true | 3, 3 => true
    | 4, 4 => true | 4, 5 => true | 5, 4 => true | 5, 5 => true
    | 1, 1 => true | 6, 6 => true | 7, 7 => true | 8, 8 => true | 9, 9 => true
    | _, _ => false
  same && !(sparse && (st == 1 || fmtBits st == 6))

/-- Whether a code is a zero code (R149). -/
def zeroCode (f code : Nat) : Bool := (elemValue f code).isZero

/-! ## Stationary tiles -/

/-- Scale pitch of a row stride: stride / (32 w) (R158). -/
def scalePitch (f stride : Nat) : Nat := stride / (4 * fmtBits f)

/-- Element i of a plane that starts at byte a of a memory. -/
def memElem (f : Nat) (m : Memory) (a i : Nat) : Nat :=
  let b := i * fmtBits f
  bits (leNat (m.read (a + b / 8) 5)) (b % 8) (fmtBits f)

/-- Codes and scales of one token of a tile. -/
abbrev TokenData := List Nat × List Nat

/-- A token beyond the valid ones: +0 codes, scale 0x7F (R158). -/
def emptyToken (f : Nat) (sparse : Bool) : TokenData :=
  (List.replicate (tilePositions f sparse) 0, if fmtMx f then List.replicate (tileBlocks f sparse) 0x7F else [])

/-- Token c of a row-read LOAD (R158). -/
def rowToken (f : Nat) (sparse : Bool) (m : Memory) (elements scales stride c : Nat) : TokenData :=
  let bs := m.read (elements + c * stride) (planeBytes f (tilePositions f sparse))
  (unpackCodes f bs (tilePositions f sparse),
    if fmtMx f then (m.read (scales + c * scalePitch f stride) (tileBlocks f sparse)).map BitVec.toNat else [])

/-- One re-blocked element (R233). -/
def reblockElem (f : Nat) (code sc top : Nat) : Nat :=
  let v := elemValue f code
  let d : Int := (sc : Int) - top
  if f = 7 then unsignedOf 8 (intRound ((Num.ofInt (signed 8 code)).scale d) (-127) 127 none).1
  else
    match fmtFp f, v with
    | some g, .fin _ _ _ => (fpEncode g (v.scale d) none true).1
    | some g, _ => g.nanCode
    | none, _ => 0

/-- reblock (R233): the group's scale and codes. -/
def reblock (f : Nat) (codes scs : List Nat) : Nat × List Nat :=
  if scs.any (· == 0xFF) then (0xFF, codes.map (fun _ => 0))
  else
    let top := scs.foldl max 0
    (top, (codes.zip scs).map (fun (c, s) => reblockElem f c s top))

/-- Token c of a column-read LOAD (R232): source column c of 32 or 64 source rows, re-blocked in groups of 32. -/
def columnToken (f : Nat) (m : Memory) (elements scales stride c : Nat) : TokenData :=
  let n := tilePositions f false
  let codes := (List.range n).map (fun p => memElem f m (elements + p * stride) c)
  if fmtMx f then
    let scs := (List.range n).map (fun p => (m.get (scales + p * scalePitch f stride)).toNat)
    let gs := (List.range (n / 32)).map (fun k => reblock f ((codes.drop (32 * k)).take 32) ((scs.drop (32 * k)).take 32))
    ((gs.map Prod.snd).flatten, gs.map Prod.fst)
  else (codes, [])

/-- The stationary tile of a LOAD from a scratchpad memory (R139, R149, R158, R232). -/
def loadTile (f : Nat) (sparse column : Bool) (m : Memory) (elements scales stride tokens : Nat) : Tile :=
  let ts := (List.range 16).map (fun c =>
    if c < tokens then
      (if column then columnToken f m elements scales stride c else rowToken f sparse m elements scales stride c)
    else emptyToken f sparse)
  { format := f, sparse := sparse, codes := ts.map Prod.fst, scales := ts.map Prod.snd,
    zero := ts.all (fun t => t.1.all (zeroCode f)) }

/-- Whether a column-read LOAD or an XPOSE met a NaN scale (R233). -/
def Tile.nanScale (t : Tile) : Bool := t.scales.any (fun l => l.any (· == 0xFF))

/-! ## Weight streams (R134 to R136) -/

/-- Bytes of one feature in the element, scale and index planes (Table 5-3). -/
def featureElemBytes (f : Nat) : Nat := if f = 1 then 64 else if fmtBits f = 6 then 48 else 32
/-- Scale bytes of one feature. -/
def featureScaleBytes (f : Nat) (sparse : Bool) : Nat := if fmtMx f then tileBlocks f sparse else 0
/-- Index bytes of one feature. -/
def featureIndexBytes (f : Nat) (sparse : Bool) : Nat := if sparse then tilePositions f sparse / 8 else 0

/-- One feature of a weight stream. -/
structure Feature where
  codes : List Nat
  scales : List Nat
  index : List Nat
  deriving DecidableEq, Repr

/-- Feature n of a stream whose planes start at the given bytes of a memory. -/
def readFeature (f : Nat) (sparse : Bool) (m : Memory) (elems stride scales index n : Nat) : Feature :=
  let eb := featureElemBytes f
  let sb := featureScaleBytes f sparse
  let ib := featureIndexBytes f sparse
  { codes := unpackCodes f (m.read (elems + n * stride) eb) (8 * eb / fmtBits f),
    scales := (m.read (scales + n * sb) sb).map BitVec.toNat,
    index := unpackCodes 9 (m.read (index + n * ib) ib) (2 * ib) }

/-- The operand pairs of block k of a token and a feature (R130, R135, R136). -/
def blockPairs (sf wf : Nat) (sparse : Bool) (tok : List Nat) (w : Feature) (k : Nat) : List (Num × Num) :=
  if sparse then
    (List.range 16).map (fun j =>
      let g := 8 * k + j / 2
      let pair := w.index.getD g 0
      let pos := if j % 2 = 0 then pair % 4 else pair / 4
      (elemValue sf (tok.getD (4 * g + pos) 0), elemValue wf (w.codes.getD (2 * g + j % 2) 0)))
  else
    (List.range 32).map (fun j =>
      (elemValue sf (tok.getD (32 * k + j) 0), elemValue wf (w.codes.getD (32 * k + j) 0)))

/-- The block values of a token and a feature, in ascending block order (R173). -/
def passBlocks (t : Tile) (wf : Nat) (w : Feature) (c : Nat) : List BlockVal :=
  let tok := t.codes.getD c []
  let sc := t.scales.getD c []
  (List.range (tileBlocks t.format t.sparse)).map (fun k =>
    blockVal (fmtMx t.format) (t.format == 1) (sc.getD k 0) (w.scales.getD k 0)
      (blockPairs t.format wf t.sparse tok w k))

/-- Features of the first F that the mask leaves (R151). -/
def streamedFeatures (F mask : Nat) : List Nat := (List.range F).filter (fun n => !bit mask (n / 16))

/-! ## The thin path (R153, R154, R161) -/

/-- The total of one output feature: the blocks of the vector and of the feature promoted in ascending order. -/
def thinTotal (vf wf : Nat) (vcodes vscales wcodes wscales : List Nat) (blocks : Nat) (start : Word) : Acc :=
  (List.range blocks).foldl (fun a k =>
    let pairs := (List.range 32).map (fun j =>
      (elemValue vf (vcodes.getD (32 * k + j) 0), elemValue wf (wcodes.getD (32 * k + j) 0)))
    Acc.promote .fp32 a (blockVal true false (vscales.getD k 0) (wscales.getD k 0) pairs))
    { hi := start, lo := 0, flags := noFlags, flagged := 0 }

end Sys2Proof.Machine
end

