-- ==== Sys2Proof/Machine/VectorMath.lean ====
section
/-!
DEFINITION. What one vector record computes on the tile buffers of its hall and on a scratchpad (07_vector_engine.md,
R200, R205 to R219, R227, R228). Halls run records from Machine/Vector.lean.
-/
namespace Sys2Proof.Machine

/-- The fields of a vector record (Table 7-3). -/
structure VecRec where
  op : Nat
  func : Nat
  mask : Bool
  diagOn : Bool
  second : Bool
  sweep2 : Bool
  layer : Bool
  first : Bool
  a : Nat
  b : Nat
  d : Nat
  s : Nat
  outFmt : Nat
  inFmt : Nat
  rows : Nat
  maskBits : Nat
  cols : Nat
  scalar : Word
  diag : Int
  stride : Nat
  length : Nat
  coord : Word
  tag : Word
  slot : Nat
  pad : Nat
  threshold : Nat
  deriving DecidableEq, Repr

/-- The fields read from 32 bytes. -/
def vecRec (r : Bytes) : VecRec :=
  let f := byteAt r 3
  { op := byteAt r 0, func := byteAt r 2, mask := bit f 0, diagOn := bit f 1, second := bit f 2, sweep2 := bit f 3,
    layer := bit f 4, first := bit f 5, a := bits (byteAt r 4) 0 3, b := bits (byteAt r 4) 4 3,
    d := bits (byteAt r 5) 0 3, s := bits (byteAt r 5) 4 3, outFmt := byteAt r 6, inFmt := byteAt r 7,
    rows := byteAt r 8, maskBits := byteAt r 9, cols := u16 r 10, scalar := BitVec.ofNat 32 (u32 r 12),
    diag := signed 16 (u16 r 16), stride := u16 r 16, length := u16 r 18, coord := BitVec.ofNat 32 (u32 r 20),
    tag := BitVec.ofNat 32 (u32 r 24), slot := bits (byteAt r 28) 0 4, pad := bits (byteAt r 29) 0 4,
    threshold := u16 r 30 }

/-- A buffer view by format code: FP32, BF16 or INT32 (Table 7-1). -/
def viewOffset (view t n : Nat) : Nat := if view = 1 then 2 * (256 * t + n) else 4 * (128 * t + n)

/-- Bytes of an entry in a view. -/
def viewBytes (view : Nat) : Nat := if view = 1 then 2 else 4

/-- Entry (t, n) of the buffer that starts at `base`, as a value. -/
def getEntry (m : Memory) (base view t n : Nat) : Num :=
  elemValue view (leNat (m.read (base + viewOffset view t n) (viewBytes view)))

/-- The memory with a code written at entry (t, n) of a buffer. -/
def putEntry (m : Memory) (base view t n code : Nat) : Memory :=
  m.write (base + viewOffset view t n) (toLE code (viewBytes view))

/-- One result of a vector record: where in the tile buffers, in which view, and its code. -/
structure VWrite where
  buf : Nat
  view : Nat
  t : Nat
  n : Nat
  code : Nat
  deriving DecidableEq, Repr

/-- What a vector record gives: writes of tile buffers, writes of the scratchpad, conditions, draws taken. -/
structure VecOut where
  writes : List VWrite
  pad : List (Nat × Bytes)
  sat : Bool
  nan : Bool
  invalid : Bool
  draws : Nat
  deriving DecidableEq, Repr

/-- Nothing written. -/
def VecOut.none : VecOut := { writes := [], pad := [], sat := false, nan := false, invalid := false, draws := 0 }

/-- Result codes raised INVALID: an output is NaN and no operand is (R208). -/
def raisesInvalid (outs ins : List Num) : Bool := outs.any Num.isNan && !ins.any Num.isNan

/-- The entries (t, n) of rows x cols in row-major order. -/
def entriesOf (rows cols : Nat) : List (Nat × Nat) :=
  (List.range rows).flatMap (fun t => (List.range cols).map (fun n => (t, n)))

/-- The write of a value to an entry of buffer b in a view, rounded by rne with a SAT bit (R208). -/
def vput (b view t n : Nat) (sat : Bool) (v : Num) : VWrite :=
  { buf := b, view := view, t := t, n := n,
    code := match fmtFp view with
      | some g => (fpEncode g v none sat).1
      | none => 0 }

/-- ARITH on exact values, before rounding (Table 7-5): x = A, y = B or its row or column operand, d = D, k = scalar. -/
def arithOp (func : Nat) (x y d k : Num) : Num :=
  match func with
  | 0 => x.add y
  | 1 => x.sub y
  | 2 => x.mul y
  | 3 => (x.mul y).add d
  | 4 => x.max y
  | 5 => x.min y
  | 6 => x.mul k
  | 7 => x.add k
  | 8 => x.mul y
  | 9 => x.mul y
  | 10 => x.add y
  | _ => x

/-- The operands of ARITH that a func reads. -/
def arithIns (func : Nat) (x y d k : Num) : List Num :=
  match func with
  | 3 => [x, y, d]
  | 6 => [x, k]
  | 7 => [x, k]
  | 11 => [x]
  | _ => [x, y]

/-- ARITH: each entry of A and B to D, rounded once to the view of D. -/
def vecArith (r : VecRec) (get : Nat → Nat → Nat → Nat → Num) : VecOut :=
  let view := if fbFormat r.inFmt = 1 ∧ fbFormat r.outFmt = 1 then 1 else 0
  let k := ofF32 r.scalar
  let each := (entriesOf r.rows r.cols).map (fun (t, n) =>
    let x := get r.a view t n
    let y := if r.func = 8 then get r.b view t 0 else if r.func = 9 ∨ r.func = 10 then get r.b view 0 n
      else get r.b view t n
    let d := get r.d view t n
    let v := arithOp r.func x y d k
    (vput r.d view t n (fbSat r.outFmt) v, raisesInvalid [v] (arithIns r.func x y d k)))
  { VecOut.none with writes := each.map Prod.fst, invalid := each.any Prod.snd }

/-- FUNC on one entry: value and INVALID (R208, R209). -/
def funcOp (func : Nat) (x y : Num) : Num × Bool :=
  if func < 8 then primitive func x
  else if func = 8 then (sigmoid x, false)
  else if func = 9 then silu x
  else swiglu x y

/-- FUNC: each entry of A (and B) to D. -/
def vecFunc (r : VecRec) (get : Nat → Nat → Nat → Nat → Num) : VecOut :=
  let each := (entriesOf r.rows r.cols).map (fun (t, n) =>
    let v := funcOp r.func (get r.a 0 t n) (get r.b 0 t n)
    (vput r.d 0 t n (fbSat r.outFmt) v.1, v.2))
  { VecOut.none with writes := each.map Prod.fst, invalid := each.any Prod.snd }

/-- The largest of a list; none for the empty list. -/
def maxOf : List Num → Option Num
  | [] => none
  | x :: xs => some (xs.foldl Num.max x)

/-! ### Steps with the condition INVALID (R208): a value, and whether a step towards it was invalid -/

/-- A value with whether an operation that made it was invalid. -/
abbrev Chk := Num × Bool

/-- A value that is given. -/
def given (x : Num) : Chk := (x, false)

/-- One step: its result, invalid when it is NaN and no operand is, or when an earlier step was. -/
def step1 (v : Num) (ins : List Chk) : Chk := (v, ins.any Prod.snd || raisesInvalid [v] (ins.map Prod.fst))

/-- An operation of two operands rounded to FP32. -/
def op32 (f : Num → Num → Num) (x y : Chk) : Chk := step1 (r32 (f x.1 y.1)) [x, y]
/-- A sum. -/
def addC : Chk → Chk → Chk := op32 Num.add
/-- A difference. -/
def subC : Chk → Chk → Chk := op32 Num.sub
/-- A product. -/
def mulC : Chk → Chk → Chk := op32 Num.mul
/-- A quotient. -/
def divC : Chk → Chk → Chk := op32 Num.div
/-- The larger of two values. -/
def maxC (x y : Chk) : Chk := (x.1.max y.1, x.2 || y.2)
/-- A product held exactly. -/
def exactMulC (x y : Chk) : Chk := step1 (x.1.mul y.1) [x, y]
/-- x y + z, rounded once. -/
def fmaC (x y z : Chk) : Chk := step1 (r32 ((x.1.mul y.1).add z.1)) [x, y, z]
/-- A primitive of Table 7-5 rounded to FP32. -/
def primC (func : Nat) (x : Chk) : Chk := (prim32 func x.1, x.2 || (primitive func x.1).2)
/-- The exact sum of some operands, rounded once (R210). -/
def sumC (xs : List Chk) : Chk := step1 (r32 (exactSum (xs.map Prod.fst))) xs

/-- The results of a record with its INVALID condition: writes made by `w`, steps that made them. -/
def chkOut (w : List VWrite) (steps : List Chk) : VecOut := { VecOut.none with writes := w, invalid := steps.any Prod.snd }

/-- One reduction, combined with the present entry unless FIRST (R210). -/
def reduceOp (func : Nat) (first : Bool) (xs : List Num) (old : Num) : Chk :=
  let cs := xs.map given
  let q : Chk := match func with
    | 1 => given ((maxOf xs).getD zeroNum)
    | 2 => sumC (cs.map (fun x => exactMulC x x))
    | _ => sumC cs
  if first then q else if func = 1 then maxC (given old) q else addC (given old) q

/-- ROWRED (R210). -/
def vecReduce (r : VecRec) (get : Nat → Nat → Nat → Nat → Num) : VecOut :=
  let groups : List (Nat × Nat × List Num) :=
    if r.func = 3 then
      (List.range r.cols).map (fun n => (0, n, (List.range r.rows).map (fun t => get r.a 0 t n)))
    else
      (List.range r.rows).map (fun t => (t, 0, (List.range r.cols).map (fun n => get r.a 0 t n)))
  let each := groups.map (fun (t, n, xs) =>
    let v := reduceOp r.func r.first xs (get r.d 0 t n)
    (vput r.d 0 t n (fbSat r.outFmt) v.1, v.2))
  { VecOut.none with writes := each.map Prod.fst, invalid := each.any Prod.snd }

/-- e^x rounded to FP32. -/
def exp32 (x : Num) : Num := prim32 0 x
/-- A difference rounded to FP32. -/
def sub32 (x y : Num) : Num := r32 (x.sub y)
/-- A product rounded to FP32. -/
def mul32 (x y : Num) : Num := r32 (x.mul y)
/-- A sum rounded to FP32. -/
def add32 (x y : Num) : Num := r32 (x.add y)
/-- A quotient rounded to FP32. -/
def div32 (x y : Num) : Num := r32 (x.div y)

/-- Whether entry (t, n) is masked for SMAX (R215). -/
def smaxMasked (r : VecRec) (t n : Nat) : Bool :=
  (r.mask && bit r.maskBits (n / 16)) || (r.diagOn && decide ((n : Int) > (t : Int) + r.diag))

/-- smax_stat (R216) on the unmasked scores of a row. -/
def smaxStat (xs : List Num) (m s : Num) : Chk × Chk :=
  let a := (maxOf xs).getD (.inf true)
  let m2 := m.max a
  if m2 = .inf true then (given m, given s)
  else
    let q := sumC (xs.map (fun x => primC 0 (subC (given x) (given m2))))
    (given m2, fmaC (given s) (primC 0 (subC (given m) (given m2))) q)

/-- smax_apply on one score (R216). -/
def smaxApply (x m s : Num) : Chk := mulC (primC 0 (subC (given x) (given m))) (primC 4 (given s))

/-- Row t of SMAX. -/
def smaxRow (r : VecRec) (get : Nat → Nat → Nat → Nat → Num) (t : Nat) : VecOut :=
  let live := (List.range r.cols).filter (fun n => !smaxMasked r t n)
  let m := get r.s 0 t 0
  let s := get r.s 0 t 1
  let row (f : Nat → Chk) : VecOut :=
    chkOut ((List.range r.cols).map (fun n =>
      vput r.d 0 t n (fbSat r.outFmt) (if smaxMasked r t n then zeroNum else (f n).1))) (live.map f)
  match r.func with
  | 0 =>
    let m0 := if r.first then .inf true else m
    let s0 := if r.first then zeroNum else s
    let x := smaxStat (live.map (fun n => get r.a 0 t n)) m0 s0
    chkOut [vput r.s 0 t 0 false x.1.1, vput r.s 0 t 1 false x.2.1] [x.1, x.2]
  | 1 => row (fun n => smaxApply (get r.a 0 t n) m s)
  | _ =>
    let y := fun n => if r.second then given (get r.b 0 t n) else smaxApply (get r.b 0 t n) m s
    let old := given (if r.first && !r.sweep2 then zeroNum else get r.s 0 t 2)
    if r.sweep2 then row (fun n => mulC (y n) (subC (given (get r.a 0 t n)) old))
    else
      let v := addC old (sumC (live.map (fun n => exactMulC (given (get r.a 0 t n)) (y n))))
      chkOut [vput r.s 0 t 2 false v.1] [v]

/-- norm_stats (R217): mu and r. -/
def normStats (layer : Bool) (s1 s2 eps : Num) (L : Nat) : Chk × Chk :=
  let l := given (Num.ofInt L)
  let mu := if layer then divC (given s1) l else given zeroNum
  let sq := divC (given s2) l
  let var := if layer then maxC (given zeroNum) (subC sq (mulC mu mu)) else sq
  (mu, primC 6 (addC var (given eps)))

/-- norm_apply (R217). -/
def normApply (layer : Bool) (mu r : Chk) (x : Num) : Chk :=
  if layer then mulC (subC (given x) mu) r else mulC (given x) r

/-- Row t of NORM. -/
def normRow (r : VecRec) (get : Nat → Nat → Nat → Nat → Num) (t : Nat) : VecOut :=
  let cols := List.range r.cols
  let x := fun n => given (get r.a 0 t n)
  let s1 := get r.s 0 t 0
  let s2 := get r.s 0 t 1
  let row (f : Nat → Chk) : VecOut :=
    chkOut (cols.map (fun n => vput r.d 0 t n (fbSat r.outFmt) (f n).1)) (cols.map f)
  let st := normStats r.layer s1 s2 (ofF32 r.scalar) r.length
  match r.func with
  | 0 =>
    let v1 := addC (given (if r.first then zeroNum else s1)) (sumC (cols.map x))
    let v2 := addC (given (if r.first then zeroNum else s2)) (sumC (cols.map (fun n => exactMulC (x n) (x n))))
    chkOut [vput r.s 0 t 0 false v1.1, vput r.s 0 t 1 false v2.1] [v1, v2]
  | 1 => row (fun n => normApply r.layer st.1 st.2 (get r.a 0 t n))
  | _ =>
    let xh := fun n =>
      if r.second then given (get r.b 0 t n) else normApply r.layer st.1 st.2 (get r.b 0 t n)
    let c1 := given (if r.first && !r.sweep2 then zeroNum else get r.s 0 t 2)
    let c2 := given (if r.first && !r.sweep2 then zeroNum else get r.s 0 t 3)
    if r.sweep2 then
      let l := given (Num.ofInt r.length)
      let k1 := divC c1 l
      let k2 := if r.layer then divC c2 l else given zeroNum
      row (fun n => mulC st.2 (subC (subC (x n) k2) (mulC (xh n) k1)))
    else
      let v1 := addC c1 (sumC (cols.map (fun n => exactMulC (x n) (xh n))))
      let v2 := if r.layer then addC c2 (sumC (cols.map x)) else c2
      chkOut [vput r.s 0 t 2 false v1.1, vput r.s 0 t 3 false v2.1] [v1, v2]

/-- The results of several rows together. -/
def joinRows (l : List VecOut) : VecOut :=
  { writes := (l.map VecOut.writes).flatten, pad := (l.map VecOut.pad).flatten, sat := l.any VecOut.sat,
    nan := l.any VecOut.nan, invalid := l.any VecOut.invalid, draws := 0 }

/-- DROPOUT (R227): a draw below the threshold drops its entry. -/
def vecDropout (r : VecRec) (get : Nat → Nat → Nat → Nat → Num) (draws : List Nat) : VecOut :=
  let k := ofF32 r.scalar
  let each := (entriesOf r.rows r.cols).zipIdx.map (fun ((t, n), e) =>
    let x := get r.a 0 t n
    if draws.getD e 0 < r.threshold then (vput r.d 0 t n false zeroNum, false)
    else (vput r.d 0 t n (fbSat r.outFmt) (x.mul k), raisesInvalid [x.mul k] [x, k]))
  { VecOut.none with writes := each.map Prod.fst, invalid := each.any Prod.snd, draws := r.rows * r.cols }

/-- CONVERT between views (R206, R213, R228); an INT32 source goes to FP32 by rne. -/
def vecConvert (r : VecRec) (get : Nat → Nat → Nat → Nat → Num) (draws : List Nat) : VecOut :=
  let src := fbFormat r.inFmt
  let dst := fbFormat r.outFmt
  let each := (entriesOf r.rows r.cols).zipIdx.map (fun ((t, n), e) =>
    let dr := if fbSr r.outFmt && !(src == 10 && dst == 0) then some (draws.getD e 0) else none
    let c := convertElem src dst (fbSat r.outFmt) (get r.a src t n) dr
    (({ buf := r.d, view := dst, t := t, n := n, code := c.codes.getD 0 0 } : VWrite), c))
  { VecOut.none with writes := each.map Prod.fst, sat := each.any (fun p => p.2.sat),
                     nan := each.any (fun p => p.2.nan), draws := if fbSr r.outFmt then r.rows * r.cols else 0 }

/-- Blocks of a row of cols elements. -/
def rowBlocks (cols : Nat) : Nat := (cols + 31) / 32

/-- VSTORE (R212): each row of A converted to the out format; MX rows padded to whole blocks, scales after the rows. -/
def vecStore (r : VecRec) (get : Nat → Nat → Nat → Nat → Num) (draws : List Nat) : VecOut :=
  let src := fbFormat r.inFmt
  let dst := fbFormat r.outFmt
  let a := r.scalar.toNat
  let width := if fmtMx dst then 32 * rowBlocks r.cols else r.cols
  let rows := (List.range r.rows).map (fun t =>
    let vs := (List.range r.cols).map (fun n => get r.a src t n)
    let p := convertRun src dst (fbSat r.outFmt) vs
      (if fbSr r.outFmt then some ((draws.drop (t * width)).take width) else none)
    (t, p))
  { VecOut.none with
    pad := rows.map (fun (t, p) => (a + t * r.stride, packCodes dst p.codes)) ++
      (if fmtMx dst then
        rows.map (fun (t, p) => (a + r.rows * r.stride + t * rowBlocks r.cols, p.scales.map (BitVec.ofNat 8)))
       else []),
    sat := rows.any (fun p => p.2.sat), nan := rows.any (fun p => p.2.nan),
    draws := if fbSr r.outFmt then r.rows * width else 0 }

/-- VLOAD decode (R212): element (t, n) of the scratchpad layout converted to FP32 or BF16 in buffer D; an INT32
element goes to FP32 by rne (R213). -/
def vecLoad (r : VecRec) (pad : Memory) (base : Nat) (draws : List Nat) : VecOut :=
  let src := fbFormat r.inFmt
  let dst := fbFormat r.outFmt
  let a := base + r.scalar.toNat
  let each := (entriesOf r.rows r.cols).zipIdx.map (fun ((t, n), e) =>
    let sc := if fmtMx src then (pad.get (a + r.rows * r.stride + t * rowBlocks r.cols + n / 32)).toNat else 0
    let v := blockValue src sc (memElem src pad (a + t * r.stride) n)
    let dr := if fbSr r.outFmt && !(src == 10 && dst == 0) then some (draws.getD e 0) else none
    let c := convertElem src dst (fbSat r.outFmt) v dr
    (({ buf := r.d, view := dst, t := t, n := n, code := c.codes.getD 0 0 } : VWrite), c))
  { VecOut.none with writes := each.map Prod.fst, sat := each.any (fun p => p.2.sat),
                     nan := each.any (fun p => p.2.nan), draws := if fbSr r.outFmt then r.rows * r.cols else 0 }

/-- The draws a record can take at most: one per padded entry. -/
def vecDrawCount (r : VecRec) : Nat :=
  if r.op = 0x27 then r.rows * r.cols
  else if fbSr r.outFmt then r.rows * (32 * rowBlocks r.cols) else 0

/-- What a vector record other than a raw VLOAD computes; `get` reads an entry of a buffer of the hall in a view, `pad`
and `base` are the scratchpad memory and where its core's bytes start, `draws` are the record's draws. -/
def vecCompute (r : VecRec) (get : Nat → Nat → Nat → Nat → Num) (pad : Memory) (base : Nat) (draws : List Nat) : VecOut :=
  match r.op with
  | 0x20 => vecLoad r pad base draws
  | 0x21 => vecStore r get draws
  | 0x22 => vecArith r get
  | 0x23 => vecFunc r get
  | 0x24 => vecReduce r get
  | 0x25 => joinRows ((List.range r.rows).map (smaxRow r get))
  | 0x26 => joinRows ((List.range r.rows).map (normRow r get))
  | 0x27 => vecDropout r get draws
  | _ => vecConvert r get draws

/-- The writes of a vector record applied to the tile buffers; buffer b of the hall starts at hallBase + 8192 b. -/
def applyWrites (m : Memory) (hallBase : Nat) (ws : List VWrite) : Memory :=
  ws.foldl (fun m w => putEntry m (hallBase + 8192 * w.buf) w.view w.t w.n w.code) m

/-- Buffers a vector record reads (R201). -/
def vecReadsOf (r : VecRec) : List Nat :=
  match r.op with
  | 0x20 => []
  | 0x21 => [r.a]
  | 0x22 => if r.func = 6 ∨ r.func = 7 ∨ r.func = 11 then [r.a] else if r.func = 3 then [r.a, r.b, r.d] else [r.a, r.b]
  | 0x23 => if r.func = 10 then [r.a, r.b] else [r.a]
  | 0x24 => if r.first then [r.a] else [r.a, r.d]
  | 0x25 => if r.func = 2 then [r.a, r.b, r.s] else [r.a, r.s]
  | 0x26 => if r.func = 2 then [r.a, r.b, r.s] else [r.a, r.s]
  | _ => [r.a]

/-- Buffers a vector record writes (R201). -/
def vecWritesOf (r : VecRec) : List Nat :=
  match r.op with
  | 0x21 => []
  | 0x25 => if r.func = 0 ∨ (r.func = 2 ∧ r.sweep2 = false) then [r.s] else [r.d]
  | 0x26 => if r.func = 0 ∨ (r.func = 2 ∧ r.sweep2 = false) then [r.s] else [r.d]
  | _ => [r.d]

/-- Scratchpad bytes, as address and length, that a VLOAD reads or a VSTORE writes: whole blocks of an MX format (R117, R212,
R523). -/
def vecPadRanges (r : VecRec) : List (Nat × Nat) :=
  let a := r.scalar.toNat
  let f := if r.op = 0x20 then fbFormat r.inFmt else fbFormat r.outFmt
  let width := if fmtMx f then 32 * rowBlocks r.cols else r.cols
  if r.op = 0x20 ∧ r.func = 1 then [(a, r.rows * r.stride)]
  else if r.op = 0x20 ∨ r.op = 0x21 then
    (List.range r.rows).map (fun t => (a + t * r.stride, planeBytes f width)) ++
      (if fmtMx f then [(a + r.rows * r.stride, r.rows * rowBlocks r.cols)] else [])
  else []

end Sys2Proof.Machine
end

