-- ==== Sys2Proof/Machine/ProgramCheck.lean ====
section
/-!
DEFINITION. The program check of R162: every record of a tread program in itself and against the records of its core
before it (Tables 5-9 to 5-11, 6-6, 7-3, 8-3, 8-5, 8-9, 8-11, 3-16; R157, R178, R205, R232, R234, R240, R523).
-/
namespace Sys2Proof.Machine

/-- Tile-operation code of a record. -/
def recOp (r : Bytes) : Nat := byteAt r 0

/-- Whether n bytes from offset o are zero (R9). -/
def zeros (r : Bytes) (o n : Nat) : Bool := (sub r o n).all (· == 0)

/-- Whether a record executes on a core: byte 1 names it. -/
def isCoreOp (op : Nat) : Bool :=
  op == 0x01 || op == 0x02 || (0x10 ≤ op && op ≤ 0x15) || (0x40 ≤ op && op ≤ 0x45) || op == 0x60

/-- Whether a record is a vector record (R205). -/
def isVecOp (op : Nat) : Bool := 0x20 ≤ op && op ≤ 0x28

/-- Bytes of a scratchpad (R230). -/
def padBytes : Nat := 262144

/-- A tally record in itself (Table 3-16, R105). -/
def tallyRecordLegal (r : Bytes) : Bool :=
  let op := byteAt r 2
  let fl := byteAt r 3
  u16 r 0 < 8192 && op < 4 && fl < 4 && (fl % 2 == 0 || op == 2) && (fl < 2 || op == 1) && zeros r 6 2 &&
    (op != 2 || (1 ≤ u32 r 8 && u32 r 8 < 2 ^ 31))

/-- LOAD fields (Table 5-9). -/
def loadSparse (r : Bytes) : Bool := bit (byteAt r 3) 0
/-- Column read (R232). -/
def loadColumn (r : Bytes) : Bool := bit (byteAt r 3) 1

/-- The scratchpad ranges a LOAD reads (R523). -/
def loadRanges (r : Bytes) : List (Nat × Nat) :=
  let f := byteAt r 2
  let n := tilePositions f (loadSparse r)
  let el := u32 r 4
  let sc := u32 r 8
  let st := u16 r 12
  if loadColumn r then
    (List.range n).map (fun p => (el + p * st, 2 * fmtBits f)) ++
      (if fmtMx f then (List.range n).map (fun p => (sc + p * scalePitch f st, 1)) else [])
  else
    (List.range (byteAt r 14)).map (fun c => (el + c * st, planeBytes f n)) ++
      (if fmtMx f then
        (List.range (byteAt r 14)).map (fun c => (sc + c * scalePitch f st, tileBlocks f (loadSparse r)))
       else [])

/-- LOAD in itself. -/
def loadLegal (r : Bytes) : Bool :=
  let f := byteAt r 2
  let narrow := fmtBits f == 6
  fmtArray f && byteAt r 3 < 4 && !(loadSparse r && (loadColumn r || f == 1 || narrow)) && !(loadColumn r && narrow) &&
    u32 r 4 < padBytes && (if loadColumn r then u32 r 4 % (2 * fmtBits f) == 0 else u32 r 4 % 32 == 0) &&
    u16 r 12 % 32 == 0 && 1 ≤ byteAt r 14 && byteAt r 14 ≤ 16 && zeros r 15 17 &&
    (loadRanges r).all (fun p => p.1 + p.2 ≤ padBytes)

/-- PASS flags (Table 5-10). -/
def passSparse (r : Bytes) : Bool := bit (byteAt r 3) 0
/-- SKIP_ZERO. -/
def passSkipZero (r : Bytes) : Bool := bit (byteAt r 3) 1
/-- LAST. -/
def passLast (r : Bytes) : Bool := bit (byteAt r 3) 2
/-- OVERWRITE. -/
def passOverwrite (r : Bytes) : Bool := bit (byteAt r 3) 3
/-- COMP. -/
def passComp (r : Bytes) : Bool := bit (byteAt r 3) 4

/-- Where the element, scale and index planes of a PASS start, for the element plane at `base` (R134, Table 5-10). -/
def passPlanes (r : Bytes) (base : Nat) : Nat × Nat × Nat :=
  let f := byteAt r 2
  let F := byteAt r 5
  let sc := base + F * u16 r 16 + 32 * u16 r 20
  (base, sc, sc + F * featureScaleBytes f (passSparse r) + 32 * u16 r 22)

/-- The ranges that the streamed features of a PASS read; a format without scales or indices has no such plane. -/
def passRanges (r : Bytes) (base : Nat) : List (Nat × Nat) :=
  let f := byteAt r 2
  let pl := passPlanes r base
  ((streamedFeatures (byteAt r 5) (byteAt r 6)).flatMap (fun n =>
    [(pl.1 + n * u16 r 16, featureElemBytes f),
     (pl.2.1 + n * featureScaleBytes f (passSparse r), featureScaleBytes f (passSparse r)),
     (pl.2.2 + n * featureIndexBytes f (passSparse r), featureIndexBytes f (passSparse r))])).filter (fun p => p.2 != 0)

/-- One past the last byte of a plane of n bytes from a, which is 0 for a plane that does not exist. -/
def planeEnd (a n : Nat) : Nat := if n = 0 then 0 else a + n

/-- One past the last byte of the planes of a PASS. -/
def passEnd (r : Bytes) (base : Nat) : Nat :=
  let f := byteAt r 2
  let F := byteAt r 5
  let pl := passPlanes r base
  max (pl.1 + (F - 1) * u16 r 16 + featureElemBytes f)
    (max (planeEnd pl.2.1 (F * featureScaleBytes f (passSparse r)))
      (planeEnd pl.2.2 (F * featureIndexBytes f (passSparse r))))

/-- PASS in itself. -/
def passLegal (r : Bytes) : Bool :=
  let f := byteAt r 2
  let src := byteAt r 7
  fmtArray f && byteAt r 3 < 32 && byteAt r 4 < 8 && 1 ≤ byteAt r 5 && byteAt r 5 ≤ 128 && src ≤ 3 &&
    (if src == 1 then byteAt r 8 < 16 else byteAt r 8 == 0) && zeros r 9 3 && u16 r 16 % 32 == 0 &&
    featureElemBytes f ≤ u16 r 16 && (if src == 3 then u16 r 18 < 65535 else u16 r 18 == 0) &&
    (passSparse r || u16 r 22 == 0) && (src == 2 || zeros r 24 8) &&
    (!passComp r || (f != 8 && f != 9 && byteAt r 4 % 2 == 0)) &&
    (2 ≤ src || passEnd r (u32 r 12) ≤ padBytes)

/-- THIN in itself (Table 5-11). -/
def thinLegal (r : Bytes) : Bool :=
  let b := byteAt r 5
  (byteAt r 2 == 2 || byteAt r 2 == 3 || byteAt r 2 == 6) && (byteAt r 3 == 2 || byteAt r 3 == 3) && byteAt r 1 == 0 &&
    byteAt r 4 < 2 && bits b 0 3 ≤ 5 && bits b 4 3 ≤ 5 && bits b 0 3 != bits b 4 3 && !bit b 3 && !bit b 7 &&
    1 ≤ u16 r 6 && u16 r 6 ≤ 248 && u64 r 8 % 64 == 0 && 1 ≤ u16 r 18 && u16 r 18 ≤ 2048 && u32 r 20 % 32 == 0 &&
    zeros r 28 4

/-- Ledger record in itself (Table 6-6). -/
def ledgerLegal (r : Bytes) : Bool :=
  let op := recOp r
  byteAt r 2 < 8 && byteAt r 3 < (if op == 0x10 || op == 0x11 then 2 else 1) &&
    (if op == 0x11 then byteAt r 4 ≤ 5 else byteAt r 4 == 0) &&
    (if op == 0x15 then byteAt r 5 < 8 && u16 r 6 < 4096 else zeros r 5 3) &&
    (if op == 0x13 || op == 0x14 then u64 r 8 % 64 == 0 else zeros r 8 8) && zeros r 16 16

/-- Funcs that a vector operation defines (Tables 7-4 and 7-5). -/
def vecFuncs : Nat → Nat
  | 0x20 => 2
  | 0x22 => 12
  | 0x23 => 11
  | 0x24 => 4
  | 0x25 => 3
  | 0x26 => 3
  | _ => 1

/-- Vector record in itself (R205, R206, R217, R218). -/
def vecLegal (r : Bytes) : Bool :=
  let v := vecRec r
  let i := fbFormat v.inFmt
  let o := fbFormat v.outFmt
  let wide := match v.op with
    | 0x20 => o == 1
    | 0x21 => i == 1
    | 0x22 => i == 1 && o == 1
    | 0x28 => i == 1 && o == 1
    | _ => false
  let eps := ofF32 v.scalar
  byteAt r 1 == 0x10 && v.func < vecFuncs v.op && byteAt r 3 < 64 && v.a ≤ 5 && v.b ≤ 5 && v.d ≤ 5 && v.s ≤ 5 &&
    !bit (byteAt r 4) 3 && !bit (byteAt r 4) 7 && !bit (byteAt r 5) 3 && !bit (byteAt r 5) 7 &&
    v.s != v.a && v.s != v.b && v.s != v.d && fbLegal v.outFmt && fbReadLegal v.inFmt &&
    1 ≤ v.rows && v.rows ≤ 16 && 1 ≤ v.cols && v.cols ≤ (if wide then 256 else 128) &&
    byteAt r 28 < 16 && byteAt r 29 < 16 &&
    (!(v.op == 0x20 || v.op == 0x21) || (v.scalar.toNat % 32 == 0 && v.stride % 32 == 0 &&
      (vecPadRanges v).all (fun p => p.1 + p.2 ≤ padBytes))) &&
    (v.op != 0x20 || ((o ≤ 1 || v.func == 1) && (v.func == 0 || v.rows * v.stride ≤ 8192))) &&
    (v.op != 0x21 || i == 0 || i == 1) &&
    (v.op != 0x28 || ((i ≤ 1 || i == 10) && (o ≤ 1 || o == 10))) &&
    (!(v.op == 0x26 || (v.op == 0x25 && v.func == 2)) || 1 ≤ v.length) &&
    (!((v.op == 0x25 || v.op == 0x26) && v.func == 2 && v.second) || v.length ≤ 4096) &&
    (v.op != 0x26 || (eps.isFin && !eps.isZero && !eps.sign))

/-- XPOSE ranges: source elements and scales, destination elements and scales (R234). -/
def xposeRanges (r : Bytes) : List (Nat × Nat) × List (Nat × Nat) :=
  let f := byteAt r 2
  let R := u16 r 16
  let C := u16 r 18
  let ss := u16 r 12
  let ds := u16 r 14
  let src := [(u32 r 4, (R - 1) * ss + planeBytes f C)]
  let dst := [(u32 r 8, (C - 1) * ds + planeBytes f R)]
  if fmtMx f then
    (src ++ [(u32 r 20, (R - 1) * scalePitch f ss + (C + 31) / 32)],
     dst ++ [(u32 r 24, (C - 1) * scalePitch f ds + R / 32)])
  else (src, dst)

/-- XPOSE in itself (Table 8-3). -/
def xposeLegal (r : Bytes) : Bool :=
  let f := byteAt r 2
  let unit := if fmtMx f then 32 else 16
  let rg := xposeRanges r
  fmtArray f && fmtBits f != 6 && byteAt r 3 == 0 &&
    u32 r 4 % (if fmtMx f then 4 * fmtBits f else 2 * fmtBits f) == 0 && u32 r 8 % 32 == 0 && u16 r 12 % 32 == 0 &&
    u16 r 14 % 32 == 0 && planeBytes f (u16 r 16) ≤ u16 r 14 && 16 ≤ u16 r 16 && u16 r 16 ≤ 4096 &&
    u16 r 16 % unit == 0 && 16 ≤ u16 r 18 && u16 r 18 ≤ 4096 && u16 r 18 % unit == 0 && zeros r 28 4 &&
    (rg.1 ++ rg.2).all (fun p => p.1 + p.2 ≤ padBytes) &&
    rg.1.all (fun a => rg.2.all (fun b => !overlaps a.1 a.2 b.1 b.2))

/-- Stash record in itself (Table 8-9). -/
def stashLegal (r : Bytes) : Bool :=
  let op := recOp r
  byteAt r 3 == 0 && u16 r 4 < 65535 && zeros r 24 8 &&
    (if op == 0x41 then
      byteAt r 2 ≤ 2 && u16 r 6 != u16 r 4 && u32 r 20 % 64 == 0 && 64 ≤ u32 r 20 && u32 r 16 + u32 r 12 ≤ u32 r 20
     else byteAt r 2 == 0 && u16 r 6 == 0 && u32 r 20 == 0) &&
    (if op == 0x43 then zeros r 8 12
     else u32 r 8 % 32 == 0 && u32 r 12 % 32 == 0 && 32 ≤ u32 r 12 && u32 r 12 ≤ padBytes && u32 r 16 % 32 == 0 &&
      u32 r 8 + u32 r 12 ≤ padBytes)

/-- LEASE in itself (Table 8-11). -/
def leaseLegal (r : Bytes) : Bool :=
  byteAt r 2 < 2 && byteAt r 3 == 0 && u16 r 4 < 1024 && (byteAt r 2 == 1 || u16 r 6 < 65535) && zeros r 8 24

/-- WATCH in itself (Table 8-5). -/
def watchLegal (r : Bytes) : Bool :=
  byteAt r 2 < 3 && byteAt r 3 < 64 && byteAt r 4 < 8 && zeros r 6 26 &&
    (if byteAt r 2 == 1 then byteAt r 5 == 0 else byteAt r 5 < 8 && byteAt r 5 != byteAt r 4)

/-- A record in itself, in a program with this core mask. -/
def recordLegal (mask : Nat) (r : Bytes) : Bool :=
  let op := recOp r
  (!isCoreOp op || (byteAt r 1 < 16 && bit mask (byteAt r 1))) &&
    (if op == 0x00 then zeros r 1 31
     else if op == 0x01 then loadLegal r
     else if op == 0x02 then passLegal r
     else if op == 0x03 then thinLegal r
     else if 0x10 ≤ op && op ≤ 0x15 then ledgerLegal r
     else if isVecOp op then vecLegal r
     else if op == 0x40 then xposeLegal r
     else if 0x41 ≤ op && op ≤ 0x43 then stashLegal r
     else if op == 0x44 then leaseLegal r
     else if op == 0x45 then watchLegal r
     else if op == 0x60 then zeros r 2 14 && tallyRecordLegal (sub r 16 16)
     else false)

/-! ## Records against the records of their core before them -/

/-- What the check keeps per core: the loaded tiles not yet released, oldest first, and the pages opened with COMP or
without. -/
structure CoreCheck where
  tiles : List (Nat × Bool)
  opens : Table Bool
  deriving DecidableEq, Repr

/-- Nothing loaded and nothing opened. -/
def CoreCheck.start : CoreCheck := { tiles := [], opens := [] }

/-- One record against its core's context (R162, R178); none is a failure. -/
def coreCheckStep (c : CoreCheck) (r : Bytes) : Option CoreCheck :=
  match recOp r with
  | 0x01 => some { c with tiles := c.tiles ++ [(byteAt r 2, loadSparse r)] }
  | 0x02 =>
    match c.tiles with
    | [] => none
    | (f, sp) :: rest =>
      let pg := byteAt r 4
      let mixed := match tget? c.opens pg with
        | some comp => comp != passComp r
        | none => false
      if legalPair f (byteAt r 2) sp && passSparse r == sp && !mixed then
        some { tiles := if passLast r then rest else c.tiles,
               opens := if passOverwrite r then tset c.opens pg (passComp r) else c.opens }
      else none
  | 0x11 => some (if byteAt r 3 = 0 then { c with opens := tdel c.opens (byteAt r 2) } else c)
  | 0x12 => some { c with opens := tdel c.opens (byteAt r 2) }
  | 0x13 => some { c with opens := tdel c.opens (byteAt r 2) }
  | 0x45 => some (if bit (byteAt r 2) 1 then { c with opens := tset c.opens (byteAt r 4) false } else c)
  | _ => some c

/-- The records of one core in order. -/
def coreCheck : CoreCheck → List Bytes → Bool
  | _, [] => true
  | c, r :: rs =>
    match coreCheckStep c r with
    | none => false
    | some d => coreCheck d rs

/-- Whether two stash records of a program conflict (R240); a comes before b. -/
def stashConflict (a b : Bytes) : Bool :=
  let oa := recOp a
  let ob := recOp b
  let isStash (o : Nat) : Bool := 0x41 ≤ o && o ≤ 0x43
  isStash oa && isStash ob && u16 a 4 == u16 b 4 &&
    (if oa == 0x41 && ob == 0x41 then u32 a 20 != u32 b 20 || byteAt a 2 != byteAt b 2 || u16 a 6 != u16 b 6
     else oa == 0x41 || ob == 0x41 || (oa == 0x43 && ob == 0x42))

/-- Whether no earlier record conflicts with a later one. -/
def noConflicts : List Bytes → Bool
  | [] => true
  | a :: rest => rest.all (fun b => !stashConflict a b) && noConflicts rest

/-- The program check (R162). -/
def programCheck (mask : Nat) (recs : List Bytes) : Bool :=
  recs.all (recordLegal mask) &&
    (setBits mask 16).all (fun c =>
      coreCheck CoreCheck.start (recs.filter (fun r => isCoreOp (recOp r) && byteAt r 1 == c))) &&
    noConflicts (recs.filter (fun r => 0x41 ≤ recOp r && recOp r ≤ 0x43))

/-- The entry numbers of the stash that a program names. -/
def stashEntries (recs : List Bytes) : List Nat :=
  ((recs.filter (fun r => 0x41 ≤ recOp r && recOp r ≤ 0x43)).map (fun r => u16 r 4)).eraseDups

end Sys2Proof.Machine
end

