-- ==== Sys2Proof/Machine/Admission.lean ====
section
/-!
DEFINITION. Admission of a tread program: the projected states of pages, lease slots and stash entries, the walk of R182,
stash decisions (R241) and placement (R381). What records do when they issue stands in Machine/Programs.lean.
-/
namespace Sys2Proof.Machine

/-! ## Strikes as weight sources (R248, R275, R277, Table 9-12) -/

/-- The layer of a number, when it is defined. -/
def layerOf (q : Partition) (n : Nat) : Option Layer :=
  (tget? q.layers n).filter (fun l => l.state != .undefined_)

/-- First byte of a strike in HBM: strike s occupies slot s mod 2 (R275). -/
def strikeBase (l : Layer) (strike : Word) : Nat := if strike.toNat % 2 = 0 then l.slot0 else l.slot1

/-- Tile columns of the panel layout: ceil(m / T). -/
def panelTiles (l : Layer) : Nat := let t := tilePositions l.format l.sparse; (l.cols + t - 1) / t

/-- Bytes of one panel: 128 x (e + s + x) rounded up to 64. -/
def panelBytes (l : Layer) : Nat :=
  (128 * (featureElemBytes l.format + featureScaleBytes l.format l.sparse + featureIndexBytes l.format l.sparse) + 63)
    / 64 * 64

/-- Row stride of the row layout. -/
def rowStride (l : Layer) : Nat := (planeBytes l.format l.cols + 63) / 64 * 64

/-- Bytes of a strike of the layer. -/
def strikeBytes (l : Layer) : Nat :=
  if l.rowLayout then l.rows * rowStride l + l.rows * (l.cols / 32)
  else (l.rows + 127) / 128 * panelTiles l * panelBytes l

/-- Whether the layout of a layer suits a PASS with source 3 (Table 9-12, R277). -/
def passSuits (l : Layer) (r : Bytes) : Bool :=
  !l.rowLayout && byteAt r 2 == l.format && passSparse r == l.sparse && byteAt r 5 == 128 &&
    u16 r 16 == featureElemBytes l.format && u16 r 20 == 0 && u16 r 22 == 0 && u32 r 12 % panelBytes l == 0 &&
    passEnd r (u32 r 12) ≤ strikeBytes l

/-- One past the last byte that a THIN reads from its base. -/
def thinEnd (r : Bytes) : Nat :=
  max ((u16 r 18 - 1) * u32 r 20 + planeBytes (byteAt r 2) (32 * u16 r 6)) (u32 r 24 + u16 r 18 * u16 r 6)

/-- Whether the layout of a layer suits a THIN. -/
def thinSuits (l : Layer) (r : Bytes) : Bool :=
  l.rowLayout && byteAt r 2 == l.format && u32 r 20 == rowStride l && u16 r 6 == l.cols / 32 &&
    u64 r 8 + thinEnd r ≤ strikeBytes l

/-! ## Projected states -/

/-- A projected page: state and type. -/
structure PagePlan where
  state : PageState
  type : PageType
  deriving DecidableEq, Repr

/-- A Free page. -/
def PagePlan.free : PagePlan := { state := .free, type := .fp32 }

/-- What the walk of a program carries in record order (R182). -/
structure Walk where
  /-- Projected pages by 8 x device core + page. -/
  pages : Table PagePlan
  /-- Pages pinned by programs admitted earlier (R188). -/
  pins : List Nat
  /-- Lease slots that hold a lease (R249). -/
  slots : List Nat
  stash : Table StashEntry
  /-- Projected HBM and vault extents in use (R241). -/
  hbmExtents : Nat
  vaultExtents : Nat
  /-- Images that admitted SPILLs have yet to write: HBM address and type (R190). -/
  spills : List (Nat × PageType)
  /-- Page types of the headers that the RESTORE records read, in record order (R190). -/
  headers : List PageType
  leases : List ReadLease
  /-- Page references that found their page non-Free (R381). -/
  refs : Nat
  /-- Entries decided Stashed, Vaulted and Unstashed. -/
  decided : Nat × Nat × Nat
  deriving DecidableEq, Repr

/-- Why a record is not admitted. -/
structure Reject where
  status : Nat
  detail : Nat
  result : Nat
  deriving DecidableEq, Repr

/-- BAD_STATE with a detail. -/
def badState (d : Nat) : Reject := { status := 0x11, detail := d, result := 0 }
/-- NOT_OWNER with a detail. -/
def notOwner (d : Nat) : Reject := { status := 0x12, detail := d, result := 0 }

/-- The projected page of a key. -/
def Walk.page (w : Walk) (k : Nat) : PagePlan := tget PagePlan.free w.pages k

/-- A reference to a page: its plan, and the walk that has counted it. -/
def Walk.ref (w : Walk) (k : Nat) : Walk := { w with refs := w.refs + b2n ((w.page k).state != .free) }

/-- Page k, with its lo page for a pair, put into a state. -/
def Walk.put (w : Walk) (k : Nat) (p : PagePlan) : Walk :=
  let t := tset w.pages k p
  let lo : PagePlan := if p.state = .free then PagePlan.free else { state := .lo, type := .pair }
  { w with pages := if p.type = .pair then tset t (k + 1) lo else t }

/-- Page k released. -/
def Walk.release (w : Walk) (k : Nat) : Walk :=
  let v := w.put k { w.page k with state := .free }
  { v with pages := tset v.pages k PagePlan.free }

/-- The page type that a PASS accumulates into (R181). -/
def passType (r : Bytes) : PageType :=
  if byteAt r 2 = 8 ∨ byteAt r 2 = 9 then .int32 else if passComp r then .pair else .fp32

/-- Whether two pages of a PAGE_ADD match (R181). -/
def addMatches (dst src : PageType) : Bool := dst == src || (src == .pair && dst == .fp32)

/-- Whether a page takes accumulation. -/
def accumulates (p : PagePlan) : Bool := p.state == .open_ || p.state == .held
/-- Whether a page is readable. -/
def readable (p : PagePlan) : Bool := p.state == .sealed || p.state == .held

/-- A page touched by an operation that changes it: a pinned page refuses it (R188). -/
def Walk.guard (w : Walk) (k : Nat) : Except Reject Unit :=
  if w.pins.contains k then .error (badState (w.page k).state.code) else .ok ()

/-- A requirement on a page, whose failure reports the page's state code. -/
def Walk.need (w : Walk) (k : Nat) (ok : Bool) : Except Reject Unit :=
  if ok then .ok () else .error (badState (w.page k).state.code)

/-- A PASS in the walk. -/
def walkPass (k : Nat) (r : Bytes) (w : Walk) : Except Reject Walk := do
  w.guard k
  let ty := passType r
  if passOverwrite r then
    w.need k ((w.page k).state == .free)
    if ty = .pair then
      w.guard (k + 1)
      w.need (k + 1) ((w.page (k + 1)).state == .free)
    .ok ((w.ref k).put k { state := .open_, type := ty })
  else
    w.need k (accumulates (w.page k) && (w.page k).type == ty)
    .ok ((w.ref k).put k { state := .open_, type := ty })

/-- A RESTORE in the walk: the header at its address, or that of a SPILL admitted earlier (R190). -/
def walkRestore (s : State) (part k : Nat) (r : Bytes) (w : Walk) : Except Reject Walk := do
  let a := u64 r 8
  let q := s.part part
  let hdr := hbmRead a 64 s
  let pend := (w.spills.filter (fun e => e.1 == a)).getLast?
  let st := match pend with | some _ => 4 | none => byteAt hdr 0
  let owner := match pend with | some _ => part | none => byteAt hdr 2
  let ty : PageType := match pend with | some e => e.2 | none => pageTypeOf (byteAt hdr 1)
  if ty = .pair && !hbmAllowed q a 16448 then throw (notOwner 8)
  if st ≠ 4 then throw (badState st)
  if owner ≠ part then throw (notOwner 8)
  w.guard k
  w.need k ((w.page k).state == .free && !(ty == .pair && k % 2 == 1))
  if ty = .pair then
    w.guard (k + 1)
    w.need (k + 1) ((w.page (k + 1)).state == .free)
  .ok (({ w with headers := w.headers ++ [ty] }.ref k).put k { state := .held, type := ty })

/-- A PAGE_ADD in the walk (R181, R187, R188); `src` is its source page. -/
def walkAdd (k src : Nat) (w : Walk) : Except Reject Walk := do
  w.guard k
  w.need k (accumulates (w.page k))
  w.need src (readable (w.page src))
  w.need k (addMatches (w.page k).type (w.page src).type)
  .ok (((w.ref k).ref src).put k { w.page k with state := .open_ })

/-- A WATCH in the walk (Table 8-6). -/
def walkWatch (s : State) (part k kq : Nat) (r : Bytes) (w : Walk) : Except Reject Walk := do
  if (tget? (s.part part).watches (byteAt r 3)).all (fun x => !x.enabled) then throw (badState 0)
  w.guard k
  if bit (byteAt r 2) 0 then
    w.need k (readable (w.page k) && (w.page k).type == .fp32)
    .ok (w.ref k)
  else
    w.guard kq
    if bit (byteAt r 2) 1 then w.need k ((w.page k).state == .free)
    else w.need k (accumulates (w.page k) && (w.page k).type == .fp32)
    w.need kq (((w.page kq).state == .open_ || (w.page kq).state == .sealed) && (w.page kq).type == .fp32)
    .ok ((((w.ref k).ref kq).put k { state := .open_, type := .fp32 }).release kq)

/-- Extents of an entry (R239). -/
def extentsOf (size : Nat) : Nat := (size + 65535) / 65536

/-- An Empty stash entry. -/
def StashEntry.empty : StashEntry :=
  { state := .empty, size := 0, fallback := 0, pred := 0xFFFF, fresh := false, placed := false, data := [] }

/-- State code of Table 8-8. -/
def StashState.code : StashState → Nat
  | .empty => 0
  | .stashed => 1
  | .vaulted => 2
  | .unstashed => 3

/-- The entry of a number in a walk. -/
def Walk.entry (w : Walk) (e : Nat) : StashEntry := tget StashEntry.empty w.stash e

/-- Whether an entry holds data. -/
def StashEntry.holds (e : StashEntry) : Bool := e.state == .stashed || e.state == .vaulted

/-- decide (R241), or the check of a STASH on a decided entry (R243). -/
def walkStash (q : Partition) (r : Bytes) (w : Walk) : Except Reject Walk :=
  let n := u16 r 4
  let e := w.entry n
  if e.state = .empty then
    let x := extentsOf (u32 r 20)
    let fb := if byteAt r 2 = 0 then q.fallback else byteAt r 2
    let pred := u16 r 6
    let predOk := pred == 0xFFFF || (w.entry pred).holds
    let mk (st : StashState) : StashEntry :=
      { state := st, size := u32 r 20, fallback := fb, pred := pred, fresh := true, placed := false, data := [] }
    let d := w.decided
    if w.hbmExtents + x ≤ q.hbmLimit / 65536 then
      .ok { w with stash := tset w.stash n (mk .stashed), hbmExtents := w.hbmExtents + x,
                   decided := (d.1 + 1, d.2.1, d.2.2) }
    else if fb = 1 ∧ predOk then
      .ok { w with stash := tset w.stash n (mk .unstashed), decided := (d.1, d.2.1, d.2.2 + 1) }
    else if w.vaultExtents + x ≤ q.vaultLimit / 65536 then
      .ok { w with stash := tset w.stash n (mk .vaulted), vaultExtents := w.vaultExtents + x,
                   decided := (d.1, d.2.1 + 1, d.2.2) }
    else .error { status := 0x13, detail := 0, result := n }
  else if e.fresh && e.size == u32 r 20 then .ok w
  else .error (badState e.state.code)

/-- UNSTASH and SDROP in the walk (R244). -/
def walkUnstash (r : Bytes) (w : Walk) : Except Reject Walk :=
  let e := w.entry (u16 r 4)
  if recOp r = 0x42 then
    if e.holds && u32 r 16 + u32 r 12 ≤ e.size then .ok w else .error (badState e.state.code)
  else if e.state = .empty then .error (badState 0)
  else .ok { w with stash := tset w.stash (u16 r 4) StashEntry.empty }

/-- A lease on a layer's current strike, taken by a record at admission (R248, Table 9-3). -/
def walkLease (s : State) (part layer : Nat) (suits : Layer → Bool) (w : Walk) : Except Reject Walk :=
  match layerOf (s.part part) layer with
  | none => .error (badState 0x05)
  | some l =>
    if l.current = 0 then .error (badState 0x05)
    else if suits l = false then .error (badState 0x04)
    else .ok { w with leases := { part := part, layer := layer, strike := l.current } :: w.leases }

/-- A LEASE record in the walk (R249). -/
def walkSlot (s : State) (part : Nat) (r : Bytes) (w : Walk) : Except Reject Walk :=
  let n := u16 r 4
  if bit (byteAt r 2) 0 then
    if w.slots.contains n then .ok { w with slots := w.slots.filter (· != n) } else .error (badState 0x00)
  else if w.slots.contains n then .error (badState 0x01)
  else
    match layerOf (s.part part) (u16 r 6) with
    | none => .error (badState 0x05)
    | some l => if l.current = 0 then .error (badState 0x05) else .ok { w with slots := n :: w.slots }

/-- Reads of aperture bytes in the walk (R302). -/
def walkKv (s : State) (part : Nat) (ranges : List (Nat × Nat)) (w : Walk) : Except Reject Walk :=
  match (ranges.filter (fun p => inAperture p.1)).filterMap (fun p => kvReject (s.part part) p.1 p.2 false) with
  | [] => .ok w
  | e :: _ => .error { status := e.1, detail := e.2, result := 0 }

/-- The ranges that a THIN reads from its base. -/
def thinRanges (r : Bytes) (base : Nat) : List (Nat × Nat) :=
  let nb := u16 r 6
  (List.range (u16 r 18)).flatMap (fun n =>
    [(base + n * u32 r 20, planeBytes (byteAt r 2) (32 * nb)), (base + u32 r 24 + n * nb, nb)])

/-- The aperture ranges that a record reads. -/
def recordKv (r : Bytes) : List (Nat × Nat) :=
  if recOp r = 0x02 ∧ byteAt r 7 = 2 ∧ inAperture (u64 r 24) = true then passRanges r (u64 r 24 + u32 r 12)
  else if recOp r = 0x03 ∧ u16 r 16 = 0xFFFF ∧ inAperture (u64 r 8) = true then thinRanges r (u64 r 8)
  else []

/-- One record of a program of partition `part` in hall `hall`, in record order (R182, R188, R190, R241, R244, R248,
R249). -/
def walkRecord (s : State) (part hall : Nat) (r : Bytes) (w : Walk) : Except Reject Walk := do
  let c := 16 * hall + byteAt r 1
  match recOp r with
  | 0x02 =>
    let w ← walkPass (8 * c + byteAt r 4) r w
    if byteAt r 7 = 3 then walkLease s part (u16 r 18) (passSuits · r) w else walkKv s part (recordKv r) w
  | 0x03 => if u16 r 16 = 0xFFFF then walkKv s part (recordKv r) w else walkLease s part (u16 r 16) (thinSuits · r) w
  | 0x10 =>
    let k := 8 * c + byteAt r 2
    w.guard k
    w.need k ((w.page k).state == .open_)
    .ok ((w.ref k).put k { w.page k with state := if byteAt r 3 = 1 then .held else .sealed })
  | 0x11 =>
    let k := 8 * c + byteAt r 2
    w.need k (readable (w.page k))
    if byteAt r 3 = 1 then .ok (w.ref k)
    else
      w.guard k
      .ok ((w.ref k).release k)
  | 0x12 =>
    let k := 8 * c + byteAt r 2
    w.guard k
    w.need k ((w.page k).state != .open_ && (w.page k).state != .lo)
    .ok ((w.ref k).release k)
  | 0x13 =>
    let k := 8 * c + byteAt r 2
    w.guard k
    w.need k (readable (w.page k))
    if (w.page k).type = .pair && !hbmAllowed (s.part part) (u64 r 8) 16448 then throw (notOwner 8)
    .ok (({ w with spills := w.spills ++ [(u64 r 8, (w.page k).type)] }.ref k).release k)
  | 0x14 => walkRestore s part (8 * c + byteAt r 2) r w
  | 0x15 => walkAdd (8 * c + byteAt r 2) (8 * u16 r 6 + byteAt r 5) w
  | 0x41 => walkStash (s.part part) r w
  | 0x42 => walkUnstash r w
  | 0x43 => walkUnstash r w
  | 0x44 => walkSlot s part r w
  | 0x45 => walkWatch s part (8 * c + byteAt r 4) (8 * c + byteAt r 5) r w
  | _ => .ok w

/-- The records of a program walked in order; the first illegal one decides. -/
def walkRecords (s : State) (part hall : Nat) : List Bytes → Walk → Except Reject Walk
  | [], w => .ok w
  | r :: rs, w =>
    match walkRecord s part hall r w with
    | .error e => .error e
    | .ok w => walkRecords s part hall rs w

/-! ## Where a walk starts: the state once every admitted program has ended (R182) -/

/-- An admitted record in the walk: a RESTORE has the type that its admission read (R190), and an illegal record changes
nothing. -/
def projectRecord (s : State) (part hall : Nat) (r : Record) (w : Walk) : Walk :=
  if recOp r.bytes = 0x14 then
    w.put (8 * (16 * hall + byteAt r.bytes 1) + byteAt r.bytes 2) { state := .held, type := r.type }
  else
    match walkRecord s part hall r.bytes w with
    | .error _ => w
    | .ok w => w

/-- The walk of records that are already admitted. -/
def projectRecords (s : State) (part hall : Nat) (rs : List Record) (w : Walk) : Walk :=
  rs.foldl (fun w r => projectRecord s part hall r w) w

/-- Open pages of a program's cores are Held at its end (Table 6-4). -/
def endPages (t : Table PagePlan) (cores : List Nat) : Table PagePlan :=
  tmap t (fun k p => if p.state = .open_ && cores.contains (k / 8) then { p with state := .held } else p)

/-- The cores of an admitted program, as device core numbers. -/
def Program.coreList (g : Program) : List Nat := coresOf g.hall g.cores.toNat

/-- The page that a finished-tile queue entry will release counts as Free. -/
def drainedPages (s : State) (t : Table PagePlan) : Table PagePlan :=
  (s.halls.map (fun h => h.2.ftq)).flatten.foldl (fun t f =>
    if f.keep then t
    else
      let k := 8 * f.core + f.page
      let t' := if (tget PagePlan.free t k).type = .pair then tset t (k + 1) PagePlan.free else t
      tset t' k PagePlan.free) t

/-- The present pages of every core. -/
def presentPages (s : State) : Table PagePlan :=
  s.cores.foldl (fun t c => c.2.pages.foldl (fun t p =>
    tset t (8 * c.1 + p.1) { state := p.2.image.state, type := p.2.image.type }) t) []

/-- Spill images that a DMA tag has yet to write. -/
def pendingSpills (s : State) : List (Nat × PageType) :=
  ((s.halls.map (fun h => h.2.dma)).flatten.map (fun d =>
    match d.kind with
    | .spill _ a bs => [(a, pageTypeOf (byteAt bs 1))]
    | _ => [])).flatten

/-- Pages that the unread PAGE_ADDs of admitted programs have pinned (R188). -/
def pinnedPages (s : State) : List Nat :=
  ((livePrograms s).map (fun g => (g.records.filter (fun r => !r.issued && recOp r.bytes == 0x15)).map
    (fun r => 8 * u16 r.bytes 6 + byteAt r.bytes 5))).flatten

/-- Extents of the entries in a state. -/
def extentsIn (st : StashState) (t : Table StashEntry) : Nat :=
  (t.filter (fun e => e.2.state == st)).foldl (fun n e => n + extentsOf e.2.size) 0

/-- SDROP records of admitted programs that have not issued. -/
def pendingDrops (s : State) (part : Nat) : List Nat :=
  ((s.programs.filter (fun g => g.part == part)).map (fun g =>
    (g.records.filter (fun r => !r.issued && recOp r.bytes == 0x43)).map (fun r => u16 r.bytes 4))).flatten

/-- Extents that entries dropped later still hold, because they return only at a landing (R243). -/
def heldBack (st : StashState) (t : Table StashEntry) (drops : List Nat) : Nat :=
  extentsIn st (t.filter (fun e => drops.contains e.1 && !e.2.fresh))

/-- Vault extents that parked sequences hold, which count under the stash vault limit (R306). -/
def parkedExtents (q : Partition) : Nat := q.seqs.foldl (fun n e => n + e.2.extents) 0

/-- The walk's start for partition `part`: every admitted program projected to its end, in admission order. -/
def walkStart (s : State) (part : Nat) : Walk :=
  let q := s.part part
  let drops := pendingDrops s part
  let stash := q.stash.filter (fun e => !drops.contains e.1)
  let w0 : Walk :=
    { pages := drainedPages s (presentPages s), pins := [], slots := tkeys q.leases, stash := q.stash,
      hbmExtents := 0, vaultExtents := 0, spills := pendingSpills s, headers := [], leases := [], refs := 0, decided := (0, 0, 0) }
  let w := s.programs.foldl (fun w g =>
    if g.part = part then
      let w := projectRecords s g.part g.hall (g.records.filter (fun r => !r.issued)) w
      { w with pages := endPages w.pages g.coreList }
    else w) w0
  { w with
    pins := pinnedPages s, stash := stash, headers := [], leases := [], refs := 0, decided := (0, 0, 0),
    hbmExtents := extentsIn .stashed stash + heldBack .stashed q.stash drops + q.returning.1,
    vaultExtents := extentsIn .vaulted stash + heldBack .vaulted q.stash drops + q.returning.2 + parkedExtents q }

/-! ## Placement (R381) -/

/-- Non-Free pages on some cores. -/
def usedPages (t : Table PagePlan) (cores : List Nat) : Nat :=
  (t.filter (fun e => e.2.state != .free && cores.contains (e.1 / 8))).length

/-- A hall that a placement may take: its key in the order of R381, smaller first. -/
def placeKey (s : State) (part ring mask : Nat) (w0 w : Walk) (h : Nat) : Nat × Nat × Nat × Nat :=
  (1000000 - w.refs, if tget? (s.part part).placed ring = some h then 0 else 1, usedPages w0.pages (coresOf h mask), h)

/-- Order of keys. -/
def keyLt (a b : Nat × Nat × Nat × Nat) : Bool :=
  a.1 < b.1 || (a.1 == b.1 && (a.2.1 < b.2.1 || (a.2.1 == b.2.1 && (a.2.2.1 < b.2.2.1 ||
    (a.2.2.1 == b.2.2.1 && a.2.2.2 < b.2.2.2)))))

/-- The hall of a placed program with its walk: the best of the halls whose walk succeeds; else BAD_STATE with the detail of
the lowest-numbered hall (R381). -/
def place (s : State) (part ring mask : Nat) (recs : List Bytes) (w0 : Walk) : Except Reject (Nat × Walk) :=
  let tries := (hallsOf (s.part part)).map (fun h => (h, walkRecords s part h recs w0))
  let good := tries.filterMap (fun t => match t.2 with | .ok w => some (t.1, w) | .error _ => none)
  match good with
  | [] =>
    match tries with
    | (_, .error e) :: _ => .error (badState e.detail)
    | _ => .error (badState 0)
  | g :: gs =>
    .ok (gs.foldl (fun b c =>
      if keyLt (placeKey s part ring mask w0 c.2 c.1) (placeKey s part ring mask w0 b.2 b.1) then c else b) g)

/-! ## Checks of a PROGRAM before its walk (R91, R156, R162) -/

/-- The records that a PROGRAM body names. -/
def programRecords (body : Bytes) (s : State) : List Bytes :=
  let bs := hbmRead (u64 body 16) (32 * u16 body 24) s
  runsOf 32 bs.length bs

/-- A record that names an object outside the partition's share: the offset of the naming field (R187, R189, R190, R368). -/
def recordOwner (s : State) (p : Nat) (r : Bytes) : Option Nat :=
  let q := s.part p
  match recOp r with
  | 0x02 =>
    if byteAt r 7 = 2 ∧ (passRanges r (u64 r 24 + u32 r 12)).any (fun x => !viewAllowed p x.1 x.2 s) then some 24
    else none
  | 0x03 =>
    if u16 r 16 = 0xFFFF ∧ (thinRanges r (u64 r 8)).any (fun x => !viewAllowed p x.1 x.2 s) then some 8 else none
  | 0x13 => if hbmAllowed q (u64 r 8) 8256 then none else some 8
  | 0x14 => if hbmAllowed q (u64 r 8) 8256 then none else some 8
  | 0x15 => if ownsCore q (u16 r 6) then none else some 6
  | 0x60 =>
    if byteAt r 18 ≠ 0 ∧ bit (byteAt r 19) 0 = false ∧
        inShare q.record.tallyFirst q.record.tallyCount (u16 r 16) = false then some 16
    else none
  | _ => none

/-- The program check, the ownership of what its records name, and the budget (R91 steps 6 and 7). -/
def programReject (s : State) (part : Nat) (body : Bytes) (recs : List Bytes) : Option Reject :=
  let mask := u16 body 26
  if hbmPoisoned (u64 body 16) (32 * u16 body 24) s then some { status := 0x30, detail := 2, result := 0 }
  else if programCheck mask recs = false then some { status := 0x10, detail := 16, result := 0 }
  else if u16 body 28 = 0xFFFF ∧ recs.any (fun r => recOp r == 0x15) then
    some { status := 0x10, detail := 28, result := 0 }
  else
    match recs.filterMap (recordOwner s part) with
    | d :: _ => some (notOwner d)
    | [] => if ceiling s < u32 body 12 then some { status := 0x14, detail := 0, result := 0 } else none

/-- Whether an earlier program of the partition that has not ended names a stash entry of this one, in a record or in the
condition of a PROGRAM_IF (R244). -/
def stashBusy (s : State) (part : Nat) (entries : List Nat) : Bool :=
  s.programs.any (fun g => g.part == part &&
    (g.condition.toList ++ stashEntries (g.records.map Record.bytes)).any (fun e => entries.contains e))

/-- Records with nothing issued; the RESTOREs take the types of their headers in turn (R190). -/
def newRecords : List Bytes → List PageType → List Record
  | [], _ => []
  | r :: rs, ts =>
    let own := recOp r == 0x14
    { bytes := r, type := if own then ts.headD .fp32 else .fp32, issued := false, done := false } ::
      newRecords rs (if own then ts.tail else ts)

/-- A program admitted with its hall, records and leases. -/
def newProgram (s : State) (rn : Nat) (f : Fetched) (part hall : Nat) (recs : List Bytes) (w : Walk) : Program :=
  { id := s.nextId, ring := rn, tag := f.tag, part := part, hall := hall, cores := BitVec.ofNat 16 (u16 f.bytes 26),
    cost := u32 f.bytes 12, flight := match (s.part part).flight with | some x => x.plan.flight | none => 0,
    records := newRecords recs w.headers, charged := [], heldCycles := [],
    streamed := 0, skipped := 0, flags := 0, leases := w.leases, outcome := none, awaiting := [], waited := [],
    stalled := false, condition := if byteAt f.bytes 0 = 0x11 then some (u16 f.bytes 30) else none, dropped := [],
    pinned := [] }

/-- What the admission of a PROGRAM leads to. -/
inductive Admit where
  | wait
  | reject (r : Reject)
  | go (hall : Nat) (w : Walk)
  deriving DecidableEq, Repr

/-- Steps 6 to 8 of R91 for a PROGRAM whose gate is open. -/
def programAdmit (s : State) (rn part : Nat) (body : Bytes) (recs : List Bytes) : Admit :=
  match programReject s part body recs with
  | some r => .reject r
  | none =>
    if stashBusy s part (stashEntries recs) then .wait
    else
      let w0 := walkStart s part
      let hall := u16 body 28
      let r := if hall = 0xFFFF then place s part rn (u16 body 26) recs w0
        else match walkRecords s part hall recs w0 with | .ok w => .ok (hall, w) | .error e => .error e
      match r with
      | .error e => .reject e
      | .ok (h, w) => if coresFit (coresOf h (u16 body 26)) (u32 body 12) s then .go h w else .wait

/-- Counter TRN_COLREAD and those after it (Table 8-17). -/
def kTrn (i : Nat) : Nat := 0x070010 + 4 * i

/-- A descriptor taken from its ring's head completes with a rejection. -/
def rejectHead (rn : Nat) (f : Fetched) (r : Reject) (s : State) : State :=
  finish rn f.tag r.status r.detail r.result 0 (popHead rn s)

/-- The partition of a ring (R68). -/
def ringPart (rn : Nat) (s : State) : Nat := (s.ring rn).owner

/-- The head PROGRAM of ring rn admitted, held, or completed (R156, R162, R182, R241, R242, R248). -/
def admitProgram (rn : Nat) (f : Fetched) (s : State) : State :=
  let p := ringPart rn s
  match workGate p (BitVec.ofNat 32 (u32 f.bytes 8)) false s with
  | .wait => holdHead rn s
  | .bad d => rejectHead rn f (badState d) s
  | .go =>
    let recs := programRecords f.bytes s
    match programAdmit s rn p f.bytes recs with
    | .wait => holdHead rn s
    | .reject r =>
      let s := rejectHead rn f r s
      if r.status = 0x13 ∧ r.detail = 0 then setPoison p 0x13 (s.bump (kTrn 5))
      else if r.status = 0x30 then setPoison p 0x02 (s.bump kPoison)
      else s
    | .go h w =>
      let g := newProgram s rn f p h recs w
      let s := popHead rn s
      let s := { s with programs := s.programs ++ [g], nextId := s.nextId + 1 }
      let s := chargeCores g.coreList g.cost s
      let s := s.modPart p (fun q =>
        { q with placed := if u16 f.bytes 28 = 0xFFFF then tset q.placed rn h else q.placed,
                 stash := w.stash.foldl (fun t e =>
                   if (tget StashEntry.empty t e.1).state = .empty then tset t e.1 e.2 else t) q.stash })
      ((s.bump (kTrn 2) w.decided.1).bump (kTrn 3) w.decided.2.1).bump (kTrn 4) w.decided.2.2

/-- A PROGRAM descriptor at the head of its ring (R156). -/
def execProgram (ring : RingNo) (s : State) : Result :=
  whenUp s (fun s =>
    match headOf 0x10 ring s with
    | none => s
    | some f => admitProgram ring f s)

/-- The condition of a PROGRAM_IF: whether the program runs, none when the entry is Empty (R245). -/
def ifHolds (q : Partition) (body : Bytes) : Option Bool :=
  match (tget StashEntry.empty q.stash (u16 body 30)).state with
  | .empty => none
  | .unstashed => some (!bit (byteAt body 32) 0)
  | _ => some (bit (byteAt body 32) 0)

/-- A PROGRAM_IF descriptor at the head of its ring (R245). -/
def execProgramIf (ring : RingNo) (s : State) : Result :=
  whenUp s (fun s =>
    match headOf 0x11 ring s with
    | none => s
    | some f =>
      let p := ringPart ring s
      match workGate p (BitVec.ofNat 32 (u32 f.bytes 8)) false s with
      | .wait => holdHead ring s
      | .bad d => rejectHead ring f (badState d) s
      | .go =>
        if stashBusy s p (u16 f.bytes 30 :: stashEntries (programRecords f.bytes s)) then holdHead ring s
        else
          match ifHolds (s.part p) f.bytes with
          | none => rejectHead ring f (badState 0) s
          | some true => admitProgram ring f s
          | some false => finish ring f.tag 0x00 0 0 (2 ^ 64 - 1) (popHead ring s))

end Sys2Proof.Machine
end

