-- ==== Sys2Proof/Machine/Programs.lean ====
section
/-!
DEFINITION. Running programs: which record a core or a hall runs next, the array and ledger operations, tally records and
the end of a program (R139 to R163, R180 to R197). Vector records stand in Machine/Vector.lean, the operations of
08_training_passes.md in Machine/Training.lean.
-/
namespace Sys2Proof.Machine

/-! ## The next record (R139 to R143, R157, R173) -/

/-- Whether a program waits: its partition is saved (R388), a core of it is being reloaded (R195), or a page of a
sequence that it reads is being zeroed or copied (R307). -/
def programHeld (g : Program) (s : State) : Bool :=
  !partLive (s.part g.part) ||
  g.coreList.any (fun c => (s.core c).reloading) ||
    (g.records.flatMap (fun r => recordKv r.bytes)).any (fun p => kvWaits (s.part g.part) p.1 p.2)

/-- The program that a core runs: the first admitted one that uses it, once nothing holds it (R173). -/
def runningOn (c : Nat) (s : State) : Option Program :=
  ((livePrograms s).find? (fun g => g.coreList.contains c)).filter (fun g => !programHeld g s)

/-- The records of core c in a program, with their positions. -/
def coreRecords (g : Program) (c : Nat) : List (Nat × Record) :=
  (g.records.zipIdx.filter (fun r => isCoreOp (recOp r.1.bytes) && byteAt r.1.bytes 1 == c % 16)).map
    (fun r => (r.2, r.1))

/-- Its records that have not issued. -/
def coreWaiting (g : Program) (c : Nat) : List (Nat × Record) := (coreRecords g c).filter (fun r => !r.2.issued)

/-- The first waiting record with opcode `op`, when every waiting record before it has an opcode of `passed`. -/
def nextRecord (op : Nat) (passed : List Nat) : List (Nat × Record) → Option (Nat × Bytes)
  | [] => none
  | (i, r) :: rest =>
    if recOp r.bytes = op then some (i, r.bytes)
    else if passed.contains (recOp r.bytes) then nextRecord op passed rest
    else none

/-- Record i of a program marked issued, and done where nothing of it remains. -/
def issue (i : Nat) (done : Bool) (g : Program) : Program :=
  { g with records := g.records.zipIdx.map (fun (r, j) => if j = i then { r with issued := true, done := done } else r) }

/-- Record i of program `id` marked done. -/
def markDone (id i : Nat) (s : State) : State :=
  match s.program? id with
  | none => s
  | some g => s.setProgram (issue i true g)

/-- Cycles charged to a core of a program (R42). -/
def charge (c n : Nat) (g : Program) : Program := { g with charged := tmod 0 g.charged c (· + n) }

/-- Cycles whose number the manual does not give, charged as a free value (assumption log 15). -/
def chargeFree (c : Nat) (g : Program) (s : State) : State :=
  let v := s.fresh
  v.2.setProgram (charge c (v.1.toNat % 4096) g)

/-- Tile operations of core c in a program that have issued and not retired (R102, R157). -/
def opWindow (g : Program) (c : Nat) : Nat :=
  ((coreRecords g c).filter (fun r => r.2.issued && !r.2.done)).length

/-- The next record `op` of core c, given to `k` with its program and position; it waits while the 8 entries of the op
window are taken (Table 3-15). -/
def withRecord (op : Nat) (passed : List Nat) (c : Nat) (s : State) (k : Program → Nat → Bytes → State → State) : State :=
  match runningOn c s with
  | none => s
  | some g =>
    if 8 ≤ opWindow g c then s
    else
      match nextRecord op passed (coreWaiting g c) with
      | none => s
      | some (i, r) => k g i r s

/-! ## Pages -/

/-- Page p of core c. -/
def pageOf (c p : Nat) (s : State) : Page := tget Page.atReset (s.core c).pages p
/-- The state with page p of core c replaced. -/
def setPage (c p : Nat) (x : Page) (s : State) : State := s.modCore c (fun y => { y with pages := tset y.pages p x })

/-- Whether a page waits for the end of its read into a buffer or of its fill (R183, R186, R191). -/
def pageBusy (c p : Nat) (s : State) : Bool :=
  (pageOf c p s).filling ||
    (s.hall (hallOfCore c)).ftq.any (fun f => f.core == c && (f.page == p ||
      (f.page + 1 == p && (pageOf c f.page s).image.type == .pair)))

/-- The image that the checkpoint area keeps of a slot (R193). -/
def ckptImage (x : Page) (ty : PageType) (st : PageState) (flags : PageFlags) (part : Nat) (flight : Word) : Bytes :=
  imageHeader ty part flags flight st.code ++ entryBytes x.image.entries

/-- First byte of the checkpoint image of slot p of core c (R193). -/
def ckptAddr (q : Partition) (c p : Nat) : Nat :=
  q.record.ckpt + 66048 * ((partCores q).findIdx (· == c)) + 8256 * p

/-- The checkpoint that the first change since a landing takes of page p of core c, of partition `part`, when it was Sealed
or Held there (R192). -/
def checkpoint (part c p : Nat) (flight : Word) (s : State) : State :=
  let x := pageOf c p s
  if x.freeAtLanding || x.ckpt then s
  else
    let q := s.part part
    let st := x.image.state
    let w := fun (s : State) (k : Nat) =>
      let y := pageOf c k s
      setPage c k { y with ckpt := true }
        (hbmWrite (ckptAddr q c k) (ckptImage y x.image.type st x.image.flags part flight) s)
    let s := w s p
    let s := if x.image.type = .pair then w s (p + 1) else s
    s.bump (kGal 5 2 c)

/-- Page p, and its lo page for a pair, made Free. -/
def freePage (c p : Nat) (s : State) : State :=
  let x := pageOf c p s
  let s := setPage c p { x with image := PageImage.free } s
  if x.image.type = .pair ∧ x.image.state ≠ .free then
    setPage c (p + 1) { pageOf c (p + 1) s with image := PageImage.free } s
  else s

/-- Whether page p is Poisoned, or page p + 1 where the operation takes both (R194). -/
def poisonedAt (c p : Nat) (both : Bool) (s : State) : Bool :=
  (pageOf c p s).image.state == .poisoned || (both && (pageOf c (p + 1) s).image.state == .poisoned)

/-- n values that the manual leaves open (assumption log 8). -/
def State.freshWords (n : Nat) (s : State) : List Word × State :=
  ((List.range n).map (fun k => Config.freeWord (s.free + k)), { s with free := s.free + n })

/-- A page that an operation finds Free although its walk found it otherwise, because an earlier program was aborted before it
wrote the page: what it holds is not given, so its entries are free values (assumption log 105). -/
def unwritten (c p : Nat) (ty : PageType) (s : State) : State :=
  let x := pageOf c p s
  if x.image.state = .free then
    let v := s.freshWords 2048
    let s := setPage c p { x with image := { PageImage.free with state := .held, type := ty, entries := v.1 } } v.2
    if ty = .pair then
      let v := s.freshWords 2048
      let lo : PageImage := { PageImage.free with state := .lo, type := .pair, entries := v.1 }
      setPage c (p + 1) { pageOf c (p + 1) s with image := lo } v.2
    else s
  else s

/-- Whether a record that executes on a core changes page p there (Tables 5-10, 6-5 and 8-6). -/
def changesPage (r : Bytes) (p : Nat) : Bool :=
  match recOp r with
  | 0x02 => byteAt r 4 == p || (passComp r && byteAt r 4 + 1 == p)
  | 0x45 => !bit (byteAt r 2) 0 && (byteAt r 4 == p || byteAt r 5 == p)
  | op => 0x10 ≤ op && op ≤ 0x15 && byteAt r 2 == p && !(op == 0x11 && byteAt r 3 == 1)

/-- The source of a PAGE_ADD record: device core and page. -/
def addSource (r : Bytes) : Nat × Nat := (u16 r 6, byteAt r 5)

/-- Record i of a program is about to change page p of core c: the PAGE_ADD records before it that have not read the page
keep its content, because they add what stands there without that change (R188). -/
def keepPinned (g : Program) (i c p : Nat) (s : State) : Program :=
  let js := (g.records.zipIdx.filter (fun r => decide (r.2 < i) && !r.1.issued && recOp r.1.bytes == 0x15 &&
    addSource r.1.bytes == (c, p) && (tget? g.pinned r.2).isNone)).map Prod.snd
  { g with pinned := js.foldl (fun t j =>
      tset t j ((pageOf c p s).image, (pageOf c (p + 1) s).image.entries)) g.pinned }

/-- Page p opened with a type: every entry +0, flags clear (R167, R172). -/
def openPage (c p : Nat) (ty : PageType) (s : State) : State :=
  let fresh : PageImage := { PageImage.free with state := .open_, type := ty, entries := zeroEntries }
  let s := setPage c p { pageOf c p s with image := fresh } s
  if ty = .pair then
    setPage c (p + 1) { pageOf c (p + 1) s with image := { fresh with state := .lo } } s
  else s

/-- Page p put into a state. -/
def setPageState (c p : Nat) (st : PageState) (s : State) : State :=
  let x := pageOf c p s
  setPage c p { x with image := { x.image with state := st } } s

/-- The entries of the lo page of page p. -/
def loEntries (c p : Nat) (s : State) : List Word := (pageOf c (p + 1) s).image.entries

/-- Blocks promoted into page p, whose flags the page keeps and the program reports (R167, R173, R196, R197). -/
def promoteInto (c p : Nat) (blocks : Nat → Nat → List BlockVal) (id : Nat) (s : State) : State :=
  let x := pageOf c p s
  let a := promotePage x.image.type x.image.entries (loEntries c p s) blocks
  let s := setPage c p { x with image := ({ x.image with state := .open_, entries := a.hi }).addFlags a.flags } s
  let s := if x.image.type = .pair then
      let y := pageOf c (p + 1) s
      setPage c (p + 1) { y with image := { y.image with entries := a.lo } } s
    else s
  let s := s.bump (kGal 5 4 c) a.flagged
  match s.program? id with
  | none => s
  | some g => s.setProgram { g with flags := g.flags ||| BitVec.ofNat 8 a.flags.toNat }

/-! ## Aborts (R194, R466) -/

/-- A program whose rest does not issue, with its outcome when it has none yet. -/
def stopProgram (status detail : Nat) (g : Program) : Program :=
  { g with outcome := some (g.outcome.getD (status, detail)),
           records := g.records.map (fun r => if r.issued then r else { r with issued := true, done := true }) }

/-- A program aborts: the pages that the record touches become Poisoned, the rest issues nothing, the flight set is
poisoned and PASS_ABORT is posted (R466). -/
def abortProgram (id i detail c : Nat) (pages : List Nat) (s : State) : State :=
  match s.program? id with
  | none => s
  | some g =>
    let s := s.setProgram (stopProgram 0x30 detail (issue i true g))
    let s := pages.foldl (fun s p => setPageState c p .poisoned s) s
    let s := setPoison g.part detail (s.bump kPoison (b2n (detail == 2)))
    passAbortEvent c g.part g.flight detail (s.bump kAbort)

/-- A record that reaches a Poisoned page does not execute, and its program completes with POISONED (R194). -/
def skipPoisoned (id i : Nat) (s : State) : State :=
  match s.program? id with
  | none => s
  | some g => s.setProgram { issue i true g with outcome := some (g.outcome.getD (0x30, 0x03)) }

/-- A line of HBM that a record reads and no retry corrects is marked before the read (R463). -/
def readFault (fault : Option PassFault) (s : State) : State :=
  match fault with
  | some (.hbmLine a) => hbmLineFails a s
  | _ => s

/-! ## LOAD and PASS -/

/-- Ranges of scratchpad that transfers of the core's earlier STASH and UNSTASH records still read or write (R240). -/
def padPending (g : Program) (c : Nat) : List (Bool × Nat × Nat) :=
  (coreRecords g c).filterMap (fun r =>
    if r.2.issued && !r.2.done && (recOp r.2.bytes == 0x41 || recOp r.2.bytes == 0x42) then
      some (recOp r.2.bytes == 0x42, u32 r.2.bytes 8, u32 r.2.bytes 12)
    else none)

/-- Whether reads and writes of a core's record must wait for such a transfer. -/
def padWaits (g : Program) (c : Nat) (reads writes : List (Nat × Nat)) : Bool :=
  (padPending g c).any (fun t =>
    (t.1 && (reads ++ writes).any (fun r => overlaps r.1 r.2 t.2.1 t.2.2)) ||
    (!t.1 && writes.any (fun r => overlaps r.1 r.2 t.2.1 t.2.2)))

/-- A load entry into its feeders: its tile shifts into the back slots, or into the front where the cells hold none (R139,
R141), and waits in the feeders while the back slots are taken (R143). -/
def putTile (t : Tile) (x : Core) : Core :=
  match x.front, x.back with
  | none, _ => { x with front := some t }
  | some _, none => { x with back := some t }
  | some _, some _ => { x with feeder := x.feeder ++ [t] }

/-- Entries of a row's feeder (R139). -/
def feederEntries : Nat := 16

/-- Whether a droop stretch holds the arrays of core c's gallery (R146, R422). -/
def droopHeld (c : Nat) (s : State) : Bool := s.pwr.droopStretch.contains (galleryOfCore c)

/-- Cycles of a LOAD: the column reads, then the shift (R140, R231, R232). -/
def loadCycles (r : Bytes) : Nat :=
  16 + (if loadColumn r then (if fmtBits (byteAt r 2) = 4 then 4 else 2) * max 1 (Nat.gcd (u16 r 12 / 32) 32 / 2) else 0)

/-- Cycles charged for a LOAD: those in which no pass and no ramp-up of the core goes on beside it (R42, R139, R142, R145;
assumption log 15). -/
def loadCharge (x : Core) (r : Bytes) : Nat :=
  if x.front.isSome then 0 else if x.active then loadCycles r else loadCycles r - 32

/-- LOAD (R140, R149, R158, R232): it may run ahead of PASS records, and waits while the 16 entries of its feeders are taken
(R102, R143) or a droop holds the array (R146). -/
def loadEffect (c : Nat) (s : State) : State :=
  withRecord 0x01 [0x02] c s (fun g i r s =>
    let x := s.core c
    if feederEntries ≤ x.feeder.length || droopHeld c s || padWaits g c (loadRanges r) [] then s
    else if (loadRanges r).any (fun p => padPoisoned c p.1 p.2 s) then abortProgram g.id i 2 c [] s
    else
      let t := loadTile (byteAt r 2) (loadSparse r) (loadColumn r) s.pads (padBase c + u32 r 4) (padBase c + u32 r 8)
        (u16 r 12) (byteAt r 14)
      let g := charge c (loadCharge x r) (issue i true g)
      let g := if loadColumn r && t.nanScale then { g with flags := g.flags ||| 0x20#8 } else g
      let s := s.setCore c (putTile t x)
      let s := s.setProgram g
      if loadColumn r then s.bump (kTrn 0) else s)

/-- The next LOAD of a core (R158). -/
def execLoad (core : CoreNo) (s : State) : Result := whenUp s (loadEffect core)

/-- Where a PASS's weights lie: the memory, and the first byte of its element plane (R159, R248). -/
def passSource (g : Program) (c : Nat) (r : Bytes) (s : State) : Memory × Nat :=
  match byteAt r 7 with
  | 0 => (s.pads, padBase c + u32 r 12)
  | 1 => (s.pads, padBase (16 * g.hall + byteAt r 8) + u32 r 12)
  | 2 =>
    let a := u64 r 24 + u32 r 12
    (viewHbm a (passEnd r 0) s, a)
  | _ =>
    let l := (layerOf (s.part g.part) (u16 r 18)).map (fun l =>
      strikeBase l (((g.leases.find? (fun x => x.layer == u16 r 18)).map ReadLease.strike).getD l.current))
    (s.hbm, l.getD 0 + u32 r 12)

/-- Whether weights that a PASS reads are poisoned. -/
def passPoisoned (g : Program) (c : Nat) (r : Bytes) (s : State) : Bool :=
  let m := passSource g c r s
  (passRanges r m.2).any (fun p =>
    if byteAt r 7 < 2 then rangePoisoned s.padPoison 32 p.1 p.2 else viewPoisoned p.1 p.2 s)

/-- Whether the fault that a PASS met is one that it can meet: a datapath fault, or a line that it reads. -/
def passFaulty (g : Program) (c : Nat) (r : Bytes) (fault : Option PassFault) (s : State) : Bool :=
  match fault with
  | none => false
  | some .datapath => true
  | some (.hbmLine a) =>
    2 ≤ byteAt r 7 && inAperture (u64 r 24) = false && (passRanges r (passSource g c r s).2).any (fun p => overlaps p.1 p.2 (a / 64 * 64) 64)

/-- The front used up by a LAST drain: the back moves to the front, and the first load entry that waits shifts into the
back (R141, R143). -/
def swapSlots (last : Bool) (x : Core) : Core :=
  if last then { x with front := x.back, back := x.feeder.head?, feeder := x.feeder.tail } else x

/-- The promotions of a streamed PASS into its page (R135, R151, R168, R173). -/
def passPromote (g : Program) (c : Nat) (r : Bytes) (t : Tile) (s : State) : State :=
  let m := passSource g c r s
  let pl := passPlanes r m.2
  let feats := (streamedFeatures (byteAt r 5) (byteAt r 6)).map (fun n =>
    (n, readFeature (byteAt r 2) (passSparse r) m.1 pl.1 (u16 r 16) pl.2.1 pl.2.2 n))
  promoteInto c (byteAt r 4) (fun tok n =>
    match tget? feats n with
    | some w => passBlocks t (byteAt r 2) w tok
    | none => []) g.id s

/-- c_f of a PASS (Table 5-1, R178). -/
def passCf (r : Bytes) : Nat := cyclesPerFeature (byteAt r 2) * (if passComp r then 2 else 1)

/-- Whether a PASS is skipped: a zero tile under SKIP_ZERO, or every feature masked (R150). -/
def passSkips (r : Bytes) (t : Tile) : Bool :=
  (passSkipZero r && t.zero) || (streamedFeatures (byteAt r 5) (byteAt r 6)).isEmpty

/-- Whether a PASS ramps the array up: it is gated (R145). -/
def rampsUp (x : Core) (run : ArrayRun) : Bool := !x.active || run.gap

/-- Cycles from the end of a PASS's issue to the end of the ramp-down that follows it (R138, R145). -/
def rampDownCycles (r : Bytes) : Nat := 80 - passCf r

/-- The last PASS of a core that a program has issued. -/
def lastPass (g : Program) (c : Nat) : Option Bytes :=
  (((coreRecords g c).filter (fun r => recOp r.2.bytes == 0x02 && r.2.issued)).getLast?).map (fun r => r.2.bytes)

/-- The ramp-down that ended the activity of the program's last PASS on a core. -/
def rampDown (g : Program) (c : Nat) : Nat := ((lastPass g c).map rampDownCycles).getD 0

/-- Cycles charged for a PASS: the ramp-down that an idle gap brought to the program's PASS before it, the ramp-up of a gated
array, and its issue (R42, R138, R145, R150; assumption log 15). -/
def passCharge (g : Program) (c : Nat) (r : Bytes) (x : Core) (run : ArrayRun) (skipped : Bool) : Nat :=
  (if skipped then 8 else (streamedFeatures (byteAt r 5) (byteAt r 6)).length * passCf r) +
    (if rampsUp x run then 32 else 0) + (if x.active && run.gap then rampDown g c else 0)

/-- The program with what its array did before a PASS: cycles charged and held (R42, R163). -/
def passCycles (g : Program) (c : Nat) (r : Bytes) (x : Core) (run : ArrayRun) (skipped : Bool) : Program :=
  let g := charge c (passCharge g c r x run skipped) g
  { g with heldCycles := tmod 0 g.heldCycles c (· + run.held) }

/-- The page of a PASS as it stands when the PASS begins: its landing state is kept first, then it is opened for OVERWRITE,
or Open for accumulation (R164, R172, R192). -/
def passPage (g : Program) (c : Nat) (r : Bytes) (s : State) : State :=
  let p := byteAt r 4
  if passOverwrite r then
    let s := checkpoint g.part c p g.flight s
    let s := if passComp r && (pageOf c p s).image.type != .pair then checkpoint g.part c (p + 1) g.flight s else s
    openPage c p (passType r) (freePage c p s)
  else setPageState c p .open_ (checkpoint g.part c p g.flight (unwritten c p (passType r) s))

/-- A PASS whose tile and page are ready (R141, R149 to R151, R159, R164, R172, R192). -/
def passRun (g : Program) (i : Nat) (r : Bytes) (c : Nat) (run : ArrayRun) (t : Tile) (s : State) : State :=
  let x := s.core c
  let skipped := passSkips r t
  let g := issue i true (passCycles g c r x run skipped)
  let g := if skipped then { g with skipped := g.skipped + 1 } else { g with streamed := g.streamed + 1 }
  let s := passPage g c r (s.setProgram g)
  let s := s.modCore c (fun y => { swapSlots (passLast r) y with active := true })
  let s := (s.bump (kGal 4 3 c) (b2n (rampsUp x run) + run.ramps)).bump (kGal 4 2 c) run.held
  if skipped then s.bump (kGal 4 1 c) else (passPromote g c r t s).bump (kGal 4 0 c)

/-- Scratchpad ranges of core c that a PASS streams from: its own core's (R159, R240). -/
def passPadReads (g : Program) (c : Nat) (r : Bytes) : List (Nat × Nat) :=
  if byteAt r 7 = 0 ∨ (byteAt r 7 = 1 ∧ 16 * g.hall + byteAt r 8 = c) then passRanges r (u32 r 12) else []

/-- PASS (R159): it needs a front and its page, and passes LOADs that wait for a feeder entry. A skipped PASS fetches no
weights, so that it meets none of their faults (R150). -/
def passEffect (c : Nat) (run : ArrayRun) (fault : Option PassFault) (s : State) : State :=
  withRecord 0x02 [0x01] c s (fun g i r s =>
    let p := byteAt r 4
    match (s.core c).front with
    | none => s
    | some t =>
      let skipped := passSkips r t
      if pageBusy c p s || (passComp r && pageBusy c (p + 1) s) || droopHeld c s ||
          (!skipped && padWaits g c (passPadReads g c r) []) then s
      else if poisonedAt c p (passComp r) s then skipPoisoned g.id i (s.modCore c (swapSlots (passLast r)))
      else
        let g := keepPinned g i c p s
        let g := if passComp r then keepPinned g i c (p + 1) s else g
        let s := s.setProgram g
        let datapath := fault == some .datapath
        let faulty := datapath || (!skipped && passFaulty g c r fault s)
        let s := if faulty then readFault fault s else s
        if faulty || (!skipped && passPoisoned g c r s) then
          abortProgram g.id i (if datapath then 1 else 2) c [p] (passPage g c r s)
        else passRun g i r c run t s)

/-- The next PASS of a core, with what its array did before it and the fault that it meets (R159, R466). -/
def execPass (core : CoreNo) (fault : Option PassFault) (s : State) (run : ArrayRun := ArrayRun.none) : Result :=
  whenUp s (passEffect core run fault)

/-! ## Ledger operations (R184 to R191) -/

/-- A ledger record whose page is named in byte 2: it waits while the page is busy and is not executed on a Poisoned page
(R186, R194); otherwise `k` is its effect. -/
def withLedger (op : Nat) (c : Nat) (s : State) (k : Program → Nat → Nat → Bytes → State → State) : State :=
  withRecord op [] c s (fun g i r s =>
    let p := byteAt r 2
    if pageBusy c p s then s
    else if (pageOf c p s).image.state = .poisoned then skipPoisoned g.id i s
    else
      let g := keepPinned g i c p s
      k g i p r (unwritten c p .fp32 (s.setProgram g)))

/-- SEAL (R184): Open to Sealed, or to Held with HOLD. -/
def sealEffect (c : Nat) (s : State) : State :=
  withLedger 0x10 c s (fun g i p r s =>
    let s := s.setProgram (charge c 1 (issue i true g))
    setPageState c p (if byteAt r 3 = 1 then .held else .sealed) s)

/-- The next SEAL of a core. -/
def execSeal (core : CoreNo) (s : State) : Result := whenUp s (sealEffect core)

/-- FREE (R184): the slot is released, a Poisoned page included (R194). -/
def freeEffect (c : Nat) (s : State) : State :=
  withRecord 0x12 [] c s (fun g i r s =>
    let p := byteAt r 2
    if pageBusy c p s then s
    else
      let s := s.setProgram (charge c 1 (issue i true (keepPinned g i c p s)))
      let s := if (pageOf c p s).image.state = .poisoned then s else checkpoint g.part c p g.flight s
      freePage c p s)

/-- The next FREE of a core. -/
def execFree (core : CoreNo) (s : State) : Result := whenUp s (freeEffect core)

/-! ## The order of a hall (R201) -/

/-- Whether a record reads or writes tile buffers in its own right: vector records and THIN (log 15). -/
def isHallOp (r : Bytes) : Bool := isVecOp (recOp r) || recOp r == 0x03

/-- Buffers that a vector record or a THIN reads. -/
def hallReads (r : Bytes) : List Nat :=
  if recOp r = 0x03 then
    bits (byteAt r 5) 0 3 :: (if bit (byteAt r 4) 0 then [bits (byteAt r 5) 4 3] else [])
  else vecReadsOf (vecRec r)

/-- Buffers that a vector record or a THIN writes. -/
def hallWrites (r : Bytes) : List Nat :=
  if recOp r = 0x03 then [bits (byteAt r 5) 4 3] else vecWritesOf (vecRec r)

/-- The records of a hall in the order of R201: program, position, record. -/
def hallRecords (h : Nat) (s : State) : List (Nat × Nat × Record) :=
  (((livePrograms s).filter (fun g => g.hall == h)).map (fun g => g.records.zipIdx.map (fun r => (g.id, r.2, r.1)))).flatten

/-! ## Fills (R203, R204) -/

/-- Whether the fill of a finished-tile queue entry may begin: every earlier vector record or THIN that uses its buffer has
retired, and every earlier DRAIN to the buffer or of the page has filled (R201, R204). -/
def fillReady (h : Nat) (f : Ftq) (s : State) : Bool :=
  ((hallRecords h s).takeWhile (fun r => !(r.1 == f.program && r.2.1 == f.record))).all (fun r =>
    let b := r.2.2.bytes
    (!isHallOp b || r.2.2.issued || !(hallReads b ++ hallWrites b).contains f.buffer) &&
      (recOp b != 0x11 || r.2.2.done ||
        (byteAt b 4 != f.buffer && !(16 * h + byteAt b 1 == f.core && byteAt b 2 == f.page))))

/-- Entry (id, i) of a hall's finished-tile queue begins its fill when it is ready and the fill port, which takes two page
reads at once, has room (R204). -/
def beginFill (h id i : Nat) (s : State) : State :=
  let q := (s.hall h).ftq
  match q.find? (fun f => f.program == id && f.record == i && !f.begun) with
  | none => s
  | some f =>
    if (q.filter Ftq.begun).length < 2 && fillReady h f s then
      s.modHall h (fun x => { x with ftq := x.ftq.map (fun e => if e = f then { e with begun := true } else e) })
    else s

/-- Every entry that may begin its fill does, the earliest in the order of R201 first (R204). -/
def beginFills (h : Nat) (s : State) : State :=
  (hallRecords h s).foldl (fun s r => beginFill h r.1 r.2.1 s) s

/-! ## Operations on pages (R184 to R191) -/

/-- DRAIN (R184, R203): it takes a finished-tile queue entry; the fill ends with DRAIN_FILL_END. -/
def drainEffect (c : Nat) (s : State) : State :=
  withRecord 0x11 [] c s (fun g i r s =>
    let p := byteAt r 2
    let h := hallOfCore c
    let keep := byteAt r 3 == 1
    if (pageOf c p s).filling || 16 ≤ (s.hall h).ftq.length then s
    else if (pageOf c p s).image.state = .poisoned then skipPoisoned g.id i s
    else
      let g := if keep then g else keepPinned g i c p s
      let s := unwritten c p .fp32 s
      let s := if keep then s else checkpoint g.part c p g.flight s
      let f : Ftq :=
        { program := g.id, record := i, core := c, page := p, buffer := byteAt r 4, keep := keep, begun := false }
      beginFills h (chargeFree c (issue i false g) (s.modHall h (fun x => { x with ftq := x.ftq ++ [f] }))))

/-- The next DRAIN of a core. -/
def execDrain (core : CoreNo) (s : State) : Result := whenUp s (drainEffect core)

/-- The lowest DMA tag of a hall that is free; the hall has 64 (Table 3-15). -/
def freeTag (h : Nat) (s : State) : Option Nat :=
  (List.range 64).find? (fun t => (s.hall h).dma.all (fun d => d.tag != t))

/-- A DMA tag taken. -/
def takeTag (h : Nat) (d : Dma) (s : State) : State := s.modHall h (fun x => { x with dma := x.dma ++ [d] })

/-- SPILL (R189, R191): the image is read out, the slot is released, and a DMA tag writes the image. -/
def spillEffect (c : Nat) (s : State) : State :=
  withLedger 0x13 c s (fun g i p r s =>
    let h := hallOfCore c
    match freeTag h s with
    | none => s
    | some t =>
      let x := pageOf c p s
      let img := spillImage x.image (loEntries c p s) g.part g.flight
      let s := checkpoint g.part c p g.flight s
      let s := takeTag h { tag := t, kind := .spill g.part (u64 r 8) img } s
      chargeFree c (issue i true g) (freePage c p s))

/-- The next SPILL of a core. -/
def execSpill (core : CoreNo) (s : State) : Result := whenUp s (spillEffect core)

/-- The image of a page read from bytes (Table 6-7): Held, with its flags and entries. -/
def imageOf (ty : PageType) (bs : Bytes) : PageImage :=
  ({ PageImage.free with state := .held, type := ty,
                         entries := bytesEntries (bs.drop 64) 2048 }).addFlags (PageFlags.ofNat (byteAt bs 3))

/-- RESTORE (R190, R191): it waits for an earlier SPILL to the address, takes its slots, and is Held once filled. Its type
is that of the header that its admission read. Slots that an aborted program did not free keep their landing state first
(R192). -/
def restoreEffect (c : Nat) (s : State) : State :=
  withRecord 0x14 [] c s (fun g i r s =>
    let p := byteAt r 2
    let a := u64 r 8
    let ty := ((g.records[i]?).map Record.type).getD .fp32
    let both := ty == .pair
    let n := imageBytes ty
    if pageBusy c p s || (both && pageBusy c (p + 1) s) || (pendingSpills s).any (fun e => e.1 == a) then s
    else if poisonedAt c p both s then skipPoisoned g.id i s
    else if hbmPoisoned a n s then abortProgram g.id i 2 c [] s
    else
      let g := keepPinned g i c p s
      let s := checkpoint g.part c p g.flight s
      let s := if both && (pageOf c p s).image.type != .pair then checkpoint g.part c (p + 1) g.flight s else s
      let bs := hbmRead a n s
      let s := freePage c p s
      let s := setPage c p { pageOf c p s with image := imageOf ty bs, filling := true } s
      let s := if both then
          let lo : PageImage :=
            { PageImage.free with state := .lo, type := .pair, entries := bytesEntries (bs.drop 8256) 2048 }
          setPage c (p + 1) { pageOf c (p + 1) s with image := lo } s
        else s
      chargeFree c (issue i false g) s)

/-- The next RESTORE of a core. -/
def execRestore (core : CoreNo) (s : State) : Result := whenUp s (restoreEffect core)

/-- One block value from an entry of a source page (R187). -/
def addBlock (ty : PageType) (w : Word) : BlockVal :=
  match ty with
  | .int32 => { v := Num.ofInt (signed 32 w.toNat), nan := false, loss := false }
  | _ =>
    let x := ofF32 w
    { v := x, nan := x.isNan, loss := false }

/-- The block values that a PAGE_ADD takes from a source page: hi then lo for a pair that goes to a pair, else the
readout (R181, R187). -/
def sourceBlocks (src : PageImage) (lo : List Word) (t n : Nat) : List BlockVal :=
  let k := 128 * t + n
  let v := src.entries.getD k 0
  match src.type with
  | .pair => [addBlock .fp32 (readout v (lo.getD k 0))]
  | ty => [addBlock ty v]

/-- Whether every program admitted before g on the source core has ended (R188). -/
def sourceReady (g : Program) (src : Nat) (s : State) : Bool :=
  ((livePrograms s).takeWhile (fun h => h.id != g.id)).all (fun h => !h.coreList.contains src)

/-- Whether record i of a program may read its source page: every record of the program before it that changes the page has
ended, and no RESTORE still fills it (R188). -/
def sourceStands (g : Program) (i src sp : Nat) (s : State) : Bool :=
  !(pageOf src sp s).filling &&
    (coreRecords g src).all (fun r => i ≤ r.1 || (r.2.issued && r.2.done) || !changesPage r.2.bytes sp)

/-- What PAGE_ADD record i adds: the source page with the entries of its lo page, as it stood before later records of the
program changed it (R188). -/
def addContent (g : Program) (i src sp : Nat) (s : State) : PageImage × List Word :=
  (tget? g.pinned i).getD ((pageOf src sp s).image, loEntries src sp s)

/-- PAGE_ADD (R187, R188). -/
def pageAddEffect (c : Nat) (s : State) : State :=
  withLedger 0x15 c s (fun g i p r s =>
    let src := (addSource r).1
    let sp := (addSource r).2
    if sourceReady g src s = false ∨ ((tget? g.pinned i).isNone ∧ sourceStands g i src sp s = false) then s
    else
      let s := if (tget? g.pinned i).isNone then unwritten src sp .fp32 s else s
      let x := addContent g i src sp s
      if x.1.state = .poisoned then skipPoisoned g.id i s
      else
        let s := checkpoint g.part c p g.flight (s.setProgram (issue i true g))
        let s := promoteInto c p (sourceBlocks x.1 x.2) g.id s
        match s.program? g.id with
        | none => s
        | some g => chargeFree c g s)

/-- The next PAGE_ADD of a core. -/
def execPageAdd (core : CoreNo) (s : State) : Result := whenUp s (pageAddEffect core)

/-! ## Ends of transfers -/

/-- A spill image's write ends (R191): the image stands in HBM and its tag is free. -/
def spillWriteEffect (h tag : Nat) (s : State) : State :=
  match (s.hall h).dma.find? (fun d => d.tag == tag) with
  | some { kind := .spill _ a bs, .. } =>
    let s := s.modHall h (fun x => { x with dma := x.dma.filter (fun d => d.tag != tag) })
    (hbmWrite a bs s).bump (kGal 5 0 (16 * h))
  | _ => s

/-- A SPILL's HBM write completes. -/
def execSpillWriteEnd (hall : HallNo) (tag : Nat) (s : State) : Result := whenUp s (spillWriteEffect hall tag)

/-- The RESTORE record whose fill a page awaits. -/
def fillingRecord (c p : Nat) (s : State) : Option (Nat × Nat) :=
  (livePrograms s).findSome? (fun g => ((coreRecords g c).find? (fun r =>
    recOp r.2.bytes == 0x14 && byteAt r.2.bytes 2 == p && r.2.issued && !r.2.done)).map (fun r => (g.id, r.1)))

/-- A restored page's bytes have all arrived (R191, R197). -/
def restoreFillEffect (c p : Nat) (s : State) : State :=
  let x := pageOf c p s
  if x.filling = false then s
  else
    let s := (setPage c p { x with filling := false } s).bump (kGal 5 1 c)
    match fillingRecord c p s with
    | some (id, i) => markDone id i s
    | none => s

/-- All bytes of a restored image arrive. -/
def execRestoreFillEnd (core : CoreNo) (page : Fin 8) (s : State) : Result := whenUp s (restoreFillEffect core page)

/-! ## Tally records and NOP (R105, R106, R157) -/

/-- A tally with a value added (R105). -/
def addTally (t : Nat) (v : Word) (s : State) : State := s.setTally t { s.tally t with value := (s.tally t).value + v }

/-- Whether a WAIT on tally t is satisfied (R105). -/
def tallyMet (t : Nat) (threshold : Word) (s : State) : Bool := ((s.tally t).value - threshold).toNat < 2 ^ 31

/-- Whether a tally record is a WAIT that is not met (R105). -/
def tallyRecordWaits (r : Bytes) (s : State) : Bool :=
  byteAt r 2 == 3 && !tallyMet (u16 r 0) (BitVec.ofNat 32 (u32 r 8)) s

/-- Whether core c of a program stands at a WAIT that is not met. -/
def coreTallyWaits (g : Program) (c : Nat) (s : State) : Bool :=
  match coreWaiting g c with
  | (_, r) :: _ => recOp r.bytes == 0x60 && tallyRecordWaits (sub r.bytes 16 16) s
  | [] => false

/-- A tally operation on the own tallies; a WAIT that is met changes nothing. -/
def tallyLocal (r : Bytes) (s : State) : State :=
  let t := u16 r 0
  let v := BitVec.ofNat 32 (u32 r 8)
  match byteAt r 2 with
  | 1 => s.setTally t { value := v, open_ := bit (byteAt r 3) 1 }
  | 2 => addTally t v s
  | _ => s

/-- Whether a tally record is a remote ADD. -/
def tallyRemote (r : Bytes) : Bool := byteAt r 2 == 2 && bit (byteAt r 3) 0

/-- TALLY record of a program (R157): it waits for the core's earlier stash transfers (R240), and a WAIT for its tally. -/
def tallyRecordEffect (c : Nat) (s : State) : State :=
  withRecord 0x60 [] c s (fun g i rec s =>
    let r := sub rec 16 16
    if !(padPending g c).isEmpty || tallyRecordWaits r s then s
    else
      let g := charge c 1 { issue i true g with waited := tdel g.waited c }
      if tallyRemote r then
        let a := BitVec.ofNat 16 (u16 r 4)
        if routed a s = false then s.setProgram { g with outcome := some (g.outcome.getD (0x31, 0)) }
        else if fabricRoom s = false then s
        else
          let txn := (connOf (reqConn a) s).nextTxn
          let s := s.setProgram { g with awaiting := g.awaiting ++ [txn] }
          sendReq a 0 r (.record g.id i) g.part s
      else tallyLocal r (s.setProgram g))

/-- The first NOP record of a program that has not issued, marked so (R157). -/
def issueNop (g : Program) : Option Program :=
  (g.records.zipIdx.find? (fun r => !r.1.issued && recOp r.1.bytes == 0)).map (fun r => issue r.2 true g)

/-- NOP records have no effect: the next one of a hall's programs retires. -/
def tileNopEffect (h : Nat) (s : State) : State :=
  match ((livePrograms s).filter (fun g => g.hall == h)).findSome? issueNop with
  | none => s
  | some g => s.setProgram g

/-- The next NOP tile operation of a hall. -/
def execTileNop (hall : HallNo) (s : State) : Result := whenUp s (tileNopEffect hall)

/-! ## The end of a program (R141, R157, R163, R180, R196, R211) -/

/-- Whether every record of a program has retired and nothing of it is awaited (R202, R244, R326). -/
def programDone (g : Program) : Bool := g.records.all (fun r => r.issued && r.done) && g.awaiting.isEmpty

/-- A core at the end of a program: slots and feeders empty, Open pages Held, and its array gated unless it stays active for
a pass that follows back to back (R145, R157, R180). -/
def endCore (stays : Bool) (x : Core) : Core :=
  { x with front := none, back := none, feeder := [], active := x.active && stays,
           pages := tmap x.pages (fun _ p =>
             if p.image.state = .open_ then { p with image := { p.image with state := .held } } else p) }

/-- The largest value listed. -/
def maxOfTable (t : Table Nat) : Nat := t.foldl (fun m e => max m e.2) 0

/-- A counter of cycles that the manual does not give counts a free value. -/
def bumpFree (key : Nat) (s : State) : State := s.fresh.2.bump key s.fresh.1.toNat

/-- Whether core c's array stays active past a program's end. -/
def staysActive (stays : Half) (c : Nat) : Bool := stays.getLsbD (c % 16)

/-- The ramp-downs charged to a program at its end: those of its active arrays that no other program's pass keeps active
(R145). -/
def chargeRampDowns (stays : Half) (g : Program) (s : State) : Program :=
  g.coreList.foldl (fun g c => if (s.core c).active && !staysActive stays c then charge c (rampDown g c) g else g) g

/-- The final completion of a program: result and auxiliary of R163, the conditions of R196 and R211, and timing counters
that the manual leaves to the run (assumption log 15). -/
def endProgram (stays : Half) (g : Program) (s : State) : State :=
  let g := chargeRampDowns stays g s
  let s := g.coreList.foldl (fun s c => s.modCore c (endCore (staysActive stays c))) s
  let c := 16 * g.hall
  let s := bumpFree (kGal 6 2 c) (bumpFree (kGal 6 1 c) (bumpFree (kGal 5 3 c) s))
  let s := { s with programs := s.programs.filter (fun h => h.id != g.id) }
  let out := g.outcome.getD (0x00, g.flags.toNat)
  finish g.ring g.tag out.1 out.2 (maxOfTable g.charged % 2 ^ 32 + 2 ^ 32 * (maxOfTable g.heldCycles % 2 ^ 32))
    (g.streamed + 2 ^ 32 * g.skipped) s

/-- PROGRAM_END: the last record of a program has retired. -/
def programEndEffect (id : Nat) (stays : Half) (s : State) : State :=
  match s.program? id with
  | none => s
  | some g =>
    if programDone g && g.coreList.all (fun c => ((runningOn c s).map Program.id) == some id) then endProgram stays g s
    else s

/-- The end of program `program`, numbered in admission order. -/
def execProgramEnd (program : Nat) (s : State) (stays : Half := 0) : Result := whenUp s (programEndEffect program stays)

end Sys2Proof.Machine
end

