-- ==== Sys2Proof/Machine/Vector.lean ====
section
/-!
DEFINITION. The vector engine and the thin path of a hall: the order of R201, fills of tile buffers, vector records and
THIN (05_matrix_array.md R153 to R155, R161; 07_vector_engine.md R199 to R229).
-/
namespace Sys2Proof.Machine

/-! ## The next record of a hall (R201) -/

/-- The next vector record or THIN of a hall, with the DRAINs before it whose fill has not ended. -/
def nextHallOp : List (Nat × Nat × Record) → List Nat → Option (Nat × Nat × Bytes × List Nat)
  | [], _ => none
  | (id, i, r) :: rest, fills =>
    if isHallOp r.bytes && !r.issued then some (id, i, r.bytes, fills)
    else nextHallOp rest (if recOp r.bytes = 0x11 ∧ r.done = false then byteAt r.bytes 4 :: fills else fills)

/-- The next vector record or THIN of hall h, when it has opcode `op` and its buffers are ready. -/
def withHallOp (op h : Nat) (s : State) (k : Program → Nat → Bytes → State → State) : State :=
  match nextHallOp (hallRecords h s) [] with
  | none => s
  | some (id, i, r, fills) =>
    match s.program? id with
    | none => s
    | some g =>
      if recOp r = op ∧ programHeld g s = false ∧ (hallReads r ++ hallWrites r).all (fun b => !fills.contains b) then
        k g i r s
      else s

/-! ## Fills (R203, R204) -/

/-- The fill of a page into its buffer ends, when it has begun: the entry is freed, the page is released unless KEEP, and
entries that may begin do (R183, R203, R204). -/
def drainFillEffect (h n : Nat) (s : State) : State :=
  let s := beginFills h s
  match (s.hall h).ftq[n]? with
  | none => s
  | some f =>
    if f.begun = false then s
    else
      let x := pageOf f.core f.page s
      let es := readoutPage x.image.type x.image.entries (loEntries f.core f.page s)
      let s := { s with bufs := s.bufs.write (bufBase h f.buffer) (entryBytes es) }
      let s := s.modHall h (fun y => { y with ftq := y.ftq.eraseIdx n })
      beginFills h (markDone f.program f.record (if f.keep then s else freePage f.core f.page s))

/-- The read of entry `entry` of a hall's finished-tile queue ends. -/
def execDrainFillEnd (hall : HallNo) (entry : Nat) (s : State) : Result := whenUp s (drainFillEffect hall entry)

/-! ## Vector records (R206 to R228) -/

/-- An entry of a buffer of hall h in a view. -/
def bufEntry (h : Nat) (s : State) (b view t n : Nat) : Num := getEntry s.bufs (bufBase h b) view t n

/-- The scratchpad bytes that a VSTORE writes, applied. -/
def applyPad (c : Nat) (ws : List (Nat × Bytes)) (s : State) : State :=
  ws.foldl (fun s w => padWrite c w.1 w.2 s) s

/-- Conditions of a record on its program: SAT, NAN, INVALID (R211). -/
def condFlags (o : VecOut) : Byte := BitVec.ofNat 8 (16 * b2n o.sat + 32 * b2n o.nan + 64 * b2n o.invalid)

/-- A vector record that has run: it retires, with its conditions and its counters (R211, R229). -/
def retireVec (g : Program) (i h : Nat) (o : VecOut) (s : State) : State :=
  let g := issue i true g
  let s := s.setProgram { g with flags := g.flags ||| condFlags o }
  let c := 16 * h
  beginFills h
    (((s.bump (kGal 6 0 c)).bump (kGal 6 3 c) ((o.draws + 7) / 8)).bump (kGal 6 4 c) (b2n (o.sat || o.nan || o.invalid)))

/-- The draws of a record under R224. -/
def recordDraws (g : Program) (v : VecRec) (s : State) : List Nat :=
  let n := vecDrawCount v
  if n = 0 then []
  else
    let slot := tget { seed := 0, stream := 0, epoch := 0, auto := false } (s.part g.part).gens v.slot
    genDraws slot.seed slot.stream v.coord v.tag slot.epoch n

/-- One vector record of opcode `op`: poisoned scratchpad bytes abort its program (R465). -/
def vecEffect (op h : Nat) (s : State) : State :=
  withHallOp op h s (fun g i r s =>
    let v := vecRec r
    let c := 16 * h + v.pad
    if op = 0x20 ∧ (vecPadRanges v).any (fun p => padPoisoned c p.1 p.2 s) then abortProgram g.id i 2 c [] s
    else if op = 0x20 ∧ v.func = 1 then
      let bs := padRead c v.scalar.toNat (v.rows * v.stride) s
      retireVec g i h VecOut.none { s with bufs := s.bufs.write (bufBase h v.d) bs }
    else
      let o := vecCompute v (bufEntry h s) s.pads (padBase c) (recordDraws g v s)
      let s := { s with bufs := applyWrites s.bufs (bufBase h 0) o.writes }
      retireVec g i h o (applyPad c o.pad s))

/-- VLOAD (R206, R212). -/
def execVload (hall : HallNo) (s : State) : Result := whenUp s (vecEffect 0x20 hall)
/-- VSTORE (R206, R212, R228). -/
def execVstore (hall : HallNo) (s : State) : Result := whenUp s (vecEffect 0x21 hall)
/-- ARITH (R206, R207). -/
def execArith (hall : HallNo) (s : State) : Result := whenUp s (vecEffect 0x22 hall)
/-- FUNC (R206, R209). -/
def execFunc (hall : HallNo) (s : State) : Result := whenUp s (vecEffect 0x23 hall)
/-- ROWRED (R206, R210). -/
def execRowred (hall : HallNo) (s : State) : Result := whenUp s (vecEffect 0x24 hall)
/-- SMAX (R214 to R216, R219). -/
def execSmax (hall : HallNo) (s : State) : Result := whenUp s (vecEffect 0x25 hall)
/-- NORM (R214, R217, R218, R219). -/
def execNorm (hall : HallNo) (s : State) : Result := whenUp s (vecEffect 0x26 hall)
/-- DROPOUT (R227). -/
def execDropout (hall : HallNo) (s : State) : Result := whenUp s (vecEffect 0x27 hall)
/-- CONVERT (R213, R228). -/
def execConvert (hall : HallNo) (s : State) : Result := whenUp s (vecEffect 0x28 hall)

/-! ## THIN (R153, R154, R161) -/

/-- First byte of a THIN's weights: its base, or the strike that it leases at that offset. -/
def thinBase (g : Program) (r : Bytes) (s : State) : Nat :=
  if u16 r 16 = 0xFFFF then u64 r 8
  else
    match layerOf (s.part g.part) (u16 r 16) with
    | none => u64 r 8
    | some l =>
      strikeBase l (((g.leases.find? (fun x => x.layer == u16 r 16)).map ReadLease.strike).getD l.current) + u64 r 8

/-- The totals of a THIN, one per output feature, with their flags (R154). -/
def thinTotals (h : Nat) (r : Bytes) (base : Nat) (s : State) : List Acc :=
  let nb := u16 r 6
  let vf := byteAt r 3
  let wf := byteAt r 2
  let vb := bufBase h (bits (byteAt r 5) 0 3)
  let ob := bufBase h (bits (byteAt r 5) 4 3)
  let vc := unpackCodes vf (s.bufs.read vb (32 * nb)) (32 * nb)
  let vs := (s.bufs.read (vb + 32 * nb) nb).map BitVec.toNat
  let m := viewHbm base (thinEnd r) s
  (List.range (u16 r 18)).map (fun n =>
    let wc := unpackCodes wf (m.read (base + n * u32 r 20) (planeBytes wf (32 * nb))) (32 * nb)
    let ws := (m.read (base + u32 r 24 + n * nb) nb).map BitVec.toNat
    let start : Word := if bit (byteAt r 4) 0 then BitVec.ofNat 32 (leNat (s.bufs.read (ob + 4 * n) 4)) else 0
    thinTotal vf wf vc vs wc ws nb start)

/-- Whether the weights of a THIN are poisoned. -/
def thinPoisoned (r : Bytes) (base : Nat) (s : State) : Bool :=
  (thinRanges r base).any (fun p => viewPoisoned p.1 p.2 s)

/-- THIN: the totals go to the output buffer; NAN and OVF are reported as page flags are (R154), and the blocks counted
(R164). -/
def thinEffect (h : Nat) (s : State) : State :=
  withHallOp 0x03 h s (fun g i r s =>
    let base := thinBase g r s
    if thinPoisoned r base s then abortProgram g.id i 2 (16 * h) [] s
    else
      let ts := thinTotals h r base s
      let fl := ts.foldl (fun f a => f.or a.flags) noFlags
      let s := { s with bufs := s.bufs.write (bufBase h (bits (byteAt r 5) 4 3)) (entryBytes (ts.map Acc.hi)) }
      let g := issue i true g
      let bitsOf := BitVec.ofNat 8 (b2n fl.nan + 2 * b2n fl.ovf)
      beginFills h ((s.setProgram { g with flags := g.flags ||| bitsOf }).bump (kGal 4 4 (16 * h)) (u16 r 6 * u16 r 18)))

/-- The next THIN of a hall. -/
def execThin (hall : HallNo) (s : State) : Result := whenUp s (thinEffect hall)

end Sys2Proof.Machine
end

