-- ==== Sys2Proof/Machine/Layers.lean ====
section
/-!
DEFINITION. What a mint layer holds and where: the regions of a shard, and the layer table in the first extents of a vault
share (09_mint_and_vault.md, R257, R275, R280). What the mint does with layers stands in Machine/Mint.lean.
-/
namespace Sys2Proof.Machine

/-- A size rounded up to a multiple of 64. -/
def up64 (n : Nat) : Nat := (n + 63) / 64 * 64

/-! ## Regions of a layer shard (Table 9-1) -/

/-- Distance between rows of the masters region. -/
def masterStride (l : Layer) : Nat := up64 (2 * l.cols)

/-- Bytes of the masters region. -/
def masterBytes (l : Layer) : Nat := l.n * masterStride l

/-- Bytes of the statistics region. -/
def statBytes (l : Layer) : Nat := up64 (up64 (16 * l.n) + 4 * l.cols) + (l.n + 7) / 8

/-- Bytes of the momentum region. -/
def momentumBytes (l : Layer) : Nat := if l.momentum then l.n * l.cols + l.n * (l.cols / 32) else 0

/-- Extents of the three regions: masters, statistics, momentum. -/
def regionExtents (l : Layer) : Nat × Nat × Nat :=
  (extentsOf (masterBytes l), extentsOf (statBytes l), extentsOf (momentumBytes l))

/-- Extents of all regions. -/
def layerExtents (l : Layer) : Nat := let r := regionExtents l; r.1 + r.2.1 + r.2.2

/-! ## Layer records (R257, Table 9-14) -/

/-- The flags byte of a layer. -/
def Layer.flags (l : Layer) : Nat := b2n l.momentum + 2 * b2n l.lazy + 4 * b2n l.sparse + 8 * b2n l.rowLayout

/-- State code of Table 9-3. -/
def LayerState.code : LayerState → Nat
  | .undefined_ => 0
  | .idle => 1
  | .running => 2
  | .staged => 3

/-- The strike that a layer's running or staged work, or a waiting one, will make current (R293). -/
def pendingStrike (l : Layer) : Word := match l.job with | some j => j.newStrike | none => l.pending

/-- The layer record (Table 9-14). -/
def layerRecord (l : Layer) : Bytes :=
  let x := regionExtents l
  toLE l.step.toNat 4 ++ toLE l.current.toNat 4 ++ toLE (pendingStrike l).toNat 4 ++ toLE l.state.code 1 ++
    toLE l.flags 1 ++ toLE l.format 1 ++ toLE l.set 1 ++ toLE l.rows 4 ++ toLE l.base 4 ++ toLE l.n 4 ++ toLE l.cols 2 ++
    toLE l.shards 1 ++ toLE l.shard 1 ++ toLE x.1 4 ++ toLE x.2.1 4 ++ toLE x.2.2 4 ++ toLE (b2n l.frozen) 1 ++ toLE 0 19

/-- Where the record of layer n of a partition lies in the vault (R257). -/
def recordAddr (q : Partition) (n : Nat) : Nat := q.record.vaultBase * 65536 + 64 * n

/-- Bytes bs at address x laid over the n bytes of a store that start at a. -/
def layOver (a n x : Nat) (bs : Bytes) (m : Memory) : Memory :=
  let lo := max a x
  let hi := min (a + n) (x + bs.length)
  if lo < hi then m.write (lo - a) (sub bs (lo - x) (hi - lo)) else m

/-- n vault bytes from a, as cells from 0: the layer tables of the shares hold the records of the defined layers as these
stand (R257; assumption log 108). -/
def vaultView (a n : Nat) (s : State) : Memory :=
  s.parts.foldl (fun m e =>
    e.2.layers.foldl (fun m l =>
      if l.2.state = .undefined_ then m else layOver a n (recordAddr e.2 l.1) (layerRecord l.2) m) m)
    (s.vault.slice a n)

end Sys2Proof.Machine
end

