-- ==== Sys2Proof/Machine/Training.lean ====
section
/-!
DEFINITION. Transposed copies, watches, the stash, held leases and copies (08_training_passes.md, R230 to R254).
-/
namespace Sys2Proof.Machine

/-! ## XPOSE (R231, R233, R234) -/

/-- Destination row j of an XPOSE: its codes and its scales, re-blocked for MX formats. -/
def xposeRow (m : Memory) (base : Nat) (r : Bytes) (j : Nat) : List Nat × List Nat :=
  let f := byteAt r 2
  let R := u16 r 16
  let ss := u16 r 12
  let codes := (List.range R).map (fun i => memElem f m (base + u32 r 4 + i * ss) j)
  if fmtMx f then
    let scs := (List.range R).map (fun i => (m.get (base + u32 r 20 + i * scalePitch f ss + j / 32)).toNat)
    let gs := (List.range (R / 32)).map (fun k => reblock f ((codes.drop (32 * k)).take 32) ((scs.drop (32 * k)).take 32))
    ((gs.map Prod.snd).flatten, gs.map Prod.fst)
  else (codes, [])

/-- Cycles of an XPOSE (R231, R234). -/
def xposeCycles (r : Bytes) : Nat := (u16 r 16 / 16) * (u16 r 18 / 16) * max 1 (Nat.gcd (u16 r 12 / 32) 32 / 2)

/-- XPOSE: each destination row is written, then its scales; a group with a NaN scale is reported as NAN (R233). -/
def xposeEffect (c : Nat) (s : State) : State :=
  withRecord 0x40 [] c s (fun g i r s =>
    let rg := xposeRanges r
    let f := byteAt r 2
    if padWaits g c rg.1 rg.2 then s
    else if rg.1.any (fun p => padPoisoned c p.1 p.2 s) then abortProgram g.id i 2 c [] s
    else
      let rows := (List.range (u16 r 18)).map (fun j => (j, xposeRow s.pads (padBase c) r j))
      let nan := rows.any (fun x => x.2.2.any (· == 0xFF))
      let s := rows.foldl (fun s x =>
        let s := padWrite c (u32 r 8 + x.1 * u16 r 14) (packCodes f x.2.1) s
        if fmtMx f then
          padWrite c (u32 r 24 + x.1 * scalePitch f (u16 r 14)) (x.2.2.map (BitVec.ofNat 8)) s
        else s) s
      let g := issue i true g
      let g := if nan then { g with flags := g.flags ||| 0x20#8 } else g
      (s.setProgram (charge c (xposeCycles r) g)).bump (kTrn 1))

/-- The next XPOSE of a core. -/
def execXpose (core : CoreNo) (s : State) : Result := whenUp s (xposeEffect core)

/-! ## WATCH (R237, R238) -/

/-- A sum of exact values. -/
def dyAdd (a b : Dy) : Dy :=
  if a.m = 0 then b
  else if b.m = 0 then a
  else
    let e := min a.e b.e
    { m := a.m * 2 ^ (a.e - e).toNat + b.m * 2 ^ (b.e - e).toNat, e := e }

/-- A finite value as an exact one. -/
def dyOf : Num → Dy
  | .fin n m e => { m := if n then -(m : Int) else (m : Int), e := e }
  | _ => { m := 0, e := 0 }

/-- An exact value as a number. -/
def Dy.num (d : Dy) : Num := .fin (d.m < 0) d.m.natAbs d.e

/-- The exact sum of the squares of a page's finite entries, and whether it holds a NaN or an infinity (R238). -/
def squares (es : List Word) : Dy × Bool :=
  let xs := es.map ofF32
  (dyOf (exactSum ((xs.filter Num.isFin).map (fun x => x.mul x))), xs.any (fun x => !x.isFin))

/-- A watch that is disabled and empty (R236). -/
def Watch.atReset : Watch :=
  { enabled := false, report := 0, s1 := { m := 0, e := 0 }, s2 := { m := 0, e := 0 }, folds := 0, finals := 0,
    nan := false }

/-- A watch of a partition changed. -/
def modWatch (p k : Nat) (f : Watch → Watch) (s : State) : State :=
  s.modPart p (fun q => { q with watches := tmod Watch.atReset q.watches k f })

/-- A final WATCH on page p. -/
def watchFinal (g : Program) (i c : Nat) (r : Bytes) (s : State) : State :=
  let v := squares (pageOf c (byteAt r 4) s).image.entries
  let s := modWatch g.part (byteAt r 3) (fun w =>
    { w with s2 := dyAdd w.s2 v.1, finals := w.finals + 1, nan := w.nan || v.2 }) s
  s.setProgram (charge c 128 (issue i true g))

/-- A fold of page q into page p. -/
def watchFold (g : Program) (i c : Nat) (r : Bytes) (s : State) : State :=
  let p := byteAt r 4
  let q := byteAt r 5
  let img := (pageOf c q s).image
  let v := squares img.entries
  let s := modWatch g.part (byteAt r 3) (fun w =>
    { w with s1 := dyAdd w.s1 v.1, folds := w.folds + 1, nan := w.nan || v.2 }) s
  let s := s.setProgram (issue i true (keepPinned (keepPinned g i c p s) i c q s))
  let s := checkpoint g.part c p g.flight s
  let s := if bit (byteAt r 2) 1 then openPage c p .fp32 (freePage c p s) else s
  let s := promoteInto c p (sourceBlocks img []) g.id s
  let s := freePage c q (checkpoint g.part c q g.flight s)
  match s.program? g.id with
  | none => s
  | some g => (s.setProgram (charge c 256 g)).bump (kTrn 6)

/-- WATCH (R237). -/
def watchEffect (c : Nat) (s : State) : State :=
  withRecord 0x45 [] c s (fun g i r s =>
    let p := byteAt r 4
    let q := byteAt r 5
    let final := bit (byteAt r 2) 0
    if pageBusy c p s || (!final && pageBusy c q s) then s
    else if (pageOf c p s).image.state = .poisoned ∨ (final = false ∧ (pageOf c q s).image.state = .poisoned) then
      skipPoisoned g.id i s
    else
      let s := if bit (byteAt r 2) 1 then s else unwritten c p .fp32 s
      if final then watchFinal g i c r s else watchFold g i c r (unwritten c q .fp32 s))

/-- The next WATCH of a core. -/
def execWatch (core : CoreNo) (s : State) : Result := whenUp s (watchEffect core)

/-! ## The stash (R240 to R243) -/

/-- The stash entry of a partition. -/
def stashOf (p e : Nat) (s : State) : StashEntry := tget StashEntry.empty (s.part p).stash e

/-- The entry that a record of program g names: one that the program has dropped keeps its data for UNSTASH records before
the SDROP in the order of the records (R240, R243). -/
def entryFor (g : Program) (e : Nat) (s : State) : StashEntry := (tget? g.dropped e).getD (stashOf g.part e s)

/-- Extents that SDROP records of the partition's running programs have returned to the projection and that are not reused
before those programs end (R241). -/
def withheld (p : Nat) (st : StashState) (s : State) : Nat :=
  ((s.programs.filter (fun g => g.part == p)).map (fun g => heldBy st g.dropped)).sum
where
  heldBy (st : StashState) (t : Table StashEntry) : Nat := extentsIn st (t.filter (fun e => e.2.fresh && e.2.placed))

/-- Whether the first part of an entry finds no extents before a running program that dropped others has ended (R241). -/
def extentsWait (p : Nat) (e : StashEntry) (s : State) : Bool :=
  let q := s.part p
  let held := withheld p e.state s
  let limit := if e.state = .stashed then q.record.stashSize else q.vaultLimit
  let back := if e.state = .stashed then q.returning.1 else q.returning.2
  let used := extentsIn e.state (q.stash.filter (fun x => x.2.placed)) + back + held
  !e.placed && held != 0 && decide (limit / 65536 < used + extentsOf e.size)

/-- A STASH or UNSTASH takes a DMA tag of its hall; a part aimed at an Unstashed entry is discarded, and the first part of
an entry chooses its extents (R241). -/
def stashEffect (op c : Nat) (s : State) : State :=
  withRecord op [] c s (fun g i r s =>
    let rg := [(u32 r 8, u32 r 12)]
    let e := entryFor g (u16 r 4) s
    if e.holds = false then s.setProgram (issue i true g)
    else if (if op = 0x41 then padWaits g c rg [] || extentsWait g.part e s else padWaits g c [] rg) then s
    else
      match freeTag (hallOfCore c) s with
      | none => s
      | some t =>
        let s := if op = 0x41 then
            s.modPart g.part (fun q => { q with stash := tset q.stash (u16 r 4) { e with placed := true } })
          else s
        takeTag (hallOfCore c) { tag := t, kind := .stash g.id i } (s.setProgram (issue i false g)))

/-- The next STASH of a core. -/
def execStash (core : CoreNo) (s : State) : Result := whenUp s (stashEffect 0x41 core)
/-- The next UNSTASH of a core. -/
def execUnstash (core : CoreNo) (s : State) : Result := whenUp s (stashEffect 0x42 core)

/-- An entry dropped: its extents return at once when it was made since the last landing, else at the next (R243). -/
def dropEntry (p e : Nat) (s : State) : State :=
  s.modPart p (fun q =>
    let x := tget StashEntry.empty q.stash e
    let n := extentsOf x.size
    let r := q.returning
    { q with stash := tdel q.stash e,
             returning := if x.fresh then r else match x.state with
               | .stashed => (r.1 + n, r.2)
               | .vaulted => (r.1, r.2 + n)
               | _ => r })

/-- SDROP (R243): the entry is Empty at once; what it held stays with the program. -/
def sdropEffect (c : Nat) (s : State) : State :=
  withRecord 0x43 [] c s (fun g i r s =>
    let n := u16 r 4
    let g := { issue i true g with dropped := tset g.dropped n (stashOf g.part n s) }
    dropEntry g.part n (s.setProgram g))

/-- The next SDROP of a core. -/
def execSdrop (core : CoreNo) (s : State) : Result := whenUp s (sdropEffect core)

/-- The transfer of a STASH or UNSTASH record ends: its bytes move, and a poisoned source aborts the program (R465). -/
def stashMoves (id i : Nat) (s : State) : State :=
  match s.program? id with
  | none => s
  | some g =>
    match g.records[i]? with
    | none => s
    | some rec =>
      let r := rec.bytes
      let c := 16 * g.hall + byteAt r 1
      let e := entryFor g (u16 r 4) s
      if recOp r = 0x41 then
        if padPoisoned c (u32 r 8) (u32 r 12) s then abortProgram id i 2 c [] s
        else
          let bs := padRead c (u32 r 8) (u32 r 12) s
          let s := s.modPart g.part (fun q =>
            { q with stash := tset q.stash (u16 r 4) { e with data := e.data.write (u32 r 16) bs } })
          markDone id i s
      else
        markDone id i (padWrite c (u32 r 8) (e.data.read (u32 r 16) (u32 r 12)) s)

/-! ## LEASE (R249) -/

/-- LEASE: a held lease on the layer's current strike, or its release. -/
def leaseEffect (c : Nat) (s : State) : State :=
  withRecord 0x44 [] c s (fun g i r s =>
    let s := s.setProgram (charge c 1 (issue i true g))
    let n := u16 r 4
    if bit (byteAt r 2) 0 then s.modPart g.part (fun q => { q with leases := tdel q.leases n })
    else
      let l : LeaseSlot :=
        { layer := u16 r 6, strike := ((layerOf (s.part g.part) (u16 r 6)).map Layer.current).getD 0 }
      (s.modPart g.part (fun q => { q with leases := tset q.leases n l })).bump (kTrn 7))

/-- The next LEASE of a core. -/
def execLease (core : CoreNo) (s : State) : Result := whenUp s (leaseEffect core)

/-! ## COPY and STRIKE_COPY (R251, R252) -/

/-- The hall that carries a COPY or CLEAR: the named one, or the partition's with the least cost admitted in the tread,
the lowest number on a tie (R381); the device domain has every hall. -/
def carryHall (owner hall : Nat) (s : State) : Nat :=
  if hall ≠ 0xFFFF then hall
  else
    let l := if owner < 8 then hallsOf (s.part owner) else List.range 256
    match l with
    | [] => 0
    | h :: hs => hs.foldl (fun b x => if (s.hall x).cost < (s.hall b).cost then x else b) h

/-- An admitted COPY, CLEAR or usher descriptor with nothing done. -/
def newWork (s : State) (rn : Nat) (f : Fetched) (owner hall left : Nat) (leases : List ReadLease) : Work :=
  { id := s.nextId, ring := rn, tag := f.tag, part := owner, opcode := byteAt f.bytes 0, bytes := f.bytes, hall := hall,
    cost := u32 f.bytes 12,
    flight := match (s.part owner).flight with | some x => x.plan.flight | none => 0,
    prefetch := bit (byteAt f.bytes 1) 2, started := false, ready := none, leases := leases, left := left, readys := [],
    readys2 := [], readySent := false, counts := [], countSent := false, arrived := [], sentTo := [], gather := false, reduced := false,
    sent := 0, slot := none, since := none, stall := 0, flags := 0, outcome := none }

/-- A work item admitted: its cost is charged to its hall (R40). -/
def admitWork (w : Work) (s : State) : State :=
  let s := { s with work := s.work ++ [w], nextId := s.nextId + 1 }
  s.modHall w.hall (fun h => { h with cost := h.cost + w.cost })

/-- The gate of the head descriptor of a COPY or CLEAR ring: `k` admits it with its hall; it waits while its cost does not
fit the hall's tread (R38 to R40). -/
def withCarried (op rn : Nat) (hallField : Bytes → Nat) (s : State) (k : Fetched → Nat → Nat → State → State) : State :=
  match headOf op rn s with
  | none => s
  | some f =>
    let o := ringPart rn s
    match workGate o (BitVec.ofNat 32 (u32 f.bytes 8)) (bit (byteAt f.bytes 1) 2) s with
    | .wait => holdHead rn s
    | .bad d => rejectHead rn f (badState d) s
    | .go =>
      if ceiling s < u32 f.bytes 12 then rejectHead rn f { status := 0x14, detail := 0, result := 0 } s
      else
        let h := carryHall o (hallField f.bytes) s
        if (s.hall h).cost + u32 f.bytes 12 ≤ ceiling s then k f o h s else holdHead rn s

/-- Why the aperture bytes of a COPY are not accessible (R302): source first, then destination. -/
def copyKv (b : Bytes) (s : State) : Option (Nat × Nat) :=
  let n := u64 b 40
  let chk := fun (o : Nat) (w : Bool) =>
    if byteAt b (if w then 17 else 16) = 0 ∧ inAperture (u64 b o) = true then
      kvReject (s.part (slotHolder (apSlot (u64 b o)) s)) (u64 b o) n w
    else none
  (chk 24 false).or (chk 32 true)

/-- The fill point that a COPY into the aperture advances at its admission (R302). -/
def copyFill (b : Bytes) (s : State) : State :=
  if byteAt b 17 = 0 ∧ inAperture (u64 b 32) = true then
    kvFill (slotHolder (apSlot (u64 b 32)) s) (u64 b 32) (u64 b 40) s
  else s

/-- Whether a COPY waits for pages that are being zeroed or copied (R307). -/
def copyWaits (b : Bytes) (s : State) : Bool :=
  let w := fun (o sp : Nat) => byteAt b sp == 0 && inAperture (u64 b o) &&
    kvWaits (s.part (slotHolder (apSlot (u64 b o)) s)) (u64 b o) (u64 b 40)
  w 24 16 || w 32 17

/-- COPY at the head of its ring (R251): it is admitted once a DMA tag of its hall is free (Table 3-15). -/
def copyEffect (rn : Nat) (s : State) : State :=
  withCarried 0x20 rn (fun b => u16 b 18) s (fun f o h s =>
    match copyKv f.bytes s, freeTag h s with
    | some e, _ => rejectHead rn f { status := e.1, detail := e.2, result := 0 } s
    | none, none => s
    | none, some t =>
      let w := newWork s rn f o h (u64 f.bytes 40) []
      let s := takeTag h { tag := t, kind := .copy w.id } (admitWork { w with started := true } (popHead rn s))
      copyFill f.bytes s)

/-- A COPY descriptor. -/
def execCopy (ring : RingNo) (s : State) : Result := whenUp s (copyEffect ring)

/-- STRIKE_COPY at the head of its ring (R248, R252): a layer without a current strike, or a range past it, is rejected. -/
def strikeCopyEffect (rn : Nat) (s : State) : State :=
  withCarried 0x21 rn (fun b => u16 b 18) s (fun f o h s =>
    let b := f.bytes
    match layerOf (s.part o) (u16 b 16) with
    | none => rejectHead rn f (badState 0x05) s
    | some l =>
      if l.current = 0 then rejectHead rn f (badState 0x05) s
      else if strikeBytes l < u64 b 24 + u32 b 36 then rejectHead rn f (badState 0x04) s
      else
        match freeTag h s with
        | none => s
        | some t =>
          let w := newWork s rn f o h (u32 b 36) [{ part := o, layer := u16 b 16, strike := l.current }]
          takeTag h { tag := t, kind := .copy w.id } (admitWork { w with started := true } (popHead rn s)))

/-- A STRIKE_COPY descriptor. -/
def execStrikeCopy (ring : RingNo) (s : State) : Result := whenUp s (strikeCopyEffect ring)

/-! ## The end of a DMA transfer -/

/-- Ranges, as offset and length in n bytes from a, that marked lines of a store poison. -/
def poisonedParts (marks : List Nat) (line a n : Nat) : List (Nat × Nat) :=
  (marks.filter (fun l => overlaps (l * line) line a n)).map (fun l =>
    let lo := max (l * line) a
    let hi := min ((l + 1) * line) (a + n)
    (lo - a, hi - lo))

/-- n bytes of a source: their listed cells from 0, and the parts that are poisoned. Space 2 is host memory, whose bytes
come with the command. -/
def copySource (space c a n : Nat) (hostData : Bytes) (s : State) : Memory × List (Nat × Nat) :=
  match space with
  | 0 =>
    if inAperture a then
      let q := s.part (slotHolder (apSlot a) s)
      ((kvView q a n s.hbm).slice a n, poisonedParts (kvMarks q a n s.hbmPoison) 64 a n)
    else if a + n ≤ hbmUsable s then (s.hbm.slice a n, poisonedParts s.hbmPoison 64 a n)
    else (Memory.write [] 0 (hbmRead a n s), [(0, n)])
  | 1 => (vaultView a n s, poisonedParts s.vaultPoison 64 a n)
  | 2 => (Memory.write [] 0 hostData, [])
  | _ => (s.pads.slice (padBase c + a) n, poisonedParts s.padPoison 32 (padBase c + a) n)

/-- n bytes placed in HBM, whose lines take the poison marks of the poisoned parts (R462, R465). -/
def copyIntoHbm (a n : Nat) (m : Memory) (bad : List (Nat × Nat)) (s : State) : State :=
  let s := snoopLines a n s
  { s with hbm := s.hbm.paste a n m,
           hbmPoison := bad.foldl (fun l p => addMarks l 64 (a + p.1) p.2) (clearMarks s.hbmPoison 64 a n),
           flt := { s.flt with counted := s.flt.counted.filter (fun x =>
             !(x.1 == 0 && a ≤ x.2 * 64 && (x.2 + 1) * 64 ≤ a + n)) } }

/-- The poisoned parts of n bytes from offset o. -/
def partsWithin (o n : Nat) (bad : List (Nat × Nat)) : List (Nat × Nat) :=
  (bad.filter (fun p => overlaps p.1 p.2 o n)).map (fun p =>
    let lo := max p.1 o
    (lo - o, min (p.1 + p.2) (o + n) - lo))

/-- n bytes placed at a destination. -/
def copyInto (space c a n : Nat) (m : Memory) (bad : List (Nat × Nat)) (s : State) : State :=
  match space with
  | 0 =>
    if inAperture a then
      (kvParts (s.part (slotHolder (apSlot a) s)) a n).foldl (fun s p =>
        copyIntoHbm p.1 p.2.2 (m.slice p.2.1 p.2.2) (partsWithin p.2.1 p.2.2 bad) s) s
    else copyIntoHbm a n m bad s
  | 1 =>
    { s with vault := s.vault.paste a n m,
             vaultPoison := bad.foldl (fun l p => addMarks l 64 (a + p.1) p.2) (clearMarks s.vaultPoison 64 a n),
             flt := { s.flt with counted := s.flt.counted.filter (fun x =>
               !(x.1 == 1 && a ≤ x.2 * 64 && (x.2 + 1) * 64 ≤ a + n)) } }
  | 2 => toHost a (m.read 0 n) (!bad.isEmpty) s
  | _ =>
    let b := padBase c + a
    { s with pads := s.pads.paste b n m,
             padPoison := bad.foldl (fun l p => addMarks l 32 (b + p.1) p.2) (clearMarks s.padPoison 32 b n) }

/-- A COPY's bytes move and it completes with the number copied; `lost` says that its host read was aborted (R463). -/
def copyMoves (w : Work) (hostData : Bytes) (lost : Bool) (s : State) : State :=
  let b := w.bytes
  let n := u64 b 40
  let c := 16 * w.hall + byteAt b 20
  let src := copySource (byteAt b 16) c (u64 b 24) n hostData s
  let bad := if lost then [(0, n)] else src.2
  let s := copyInto (byteAt b 17) c (u64 b 32) n src.1 bad (s.dropWork w.id)
  if bad.isEmpty then finish w.ring w.tag 0x00 0 n 0 s else finish w.ring w.tag 0x30 0x02 n 0 (s.bump kPoison)

/-- A STRIKE_COPY's bytes move; its result is the strike number copied (R252). -/
def strikeCopyMoves (w : Work) (s : State) : State :=
  let b := w.bytes
  let n := u32 b 36
  let c := 16 * w.hall + byteAt b 20
  match layerOf (s.part w.part) (u16 b 16), w.leases with
  | some l, x :: _ =>
    let src := copySource 0 c (strikeBase l x.strike + u64 b 24) n [] s
    let s := copyInto 3 c (u32 b 32) n src.1 src.2 (s.dropWork w.id)
    if src.2.isEmpty then finish w.ring w.tag 0x00 0 x.strike.toNat 0 s
    else finish w.ring w.tag 0x30 0x02 x.strike.toNat 0 (s.bump kPoison)
  | _, _ => s

/-- Whether the host data that comes with a transfer's end is what it reads, over a module that is up (R400). -/
def hostDataFits (w : Work) (hostData : Bytes) (s : State) : Bool :=
  byteAt w.bytes 0 != 0x20 || byteAt w.bytes 16 != 2 || (hostData.length == u64 w.bytes 40 && !s.host.halves.isEmpty)

/-- A transfer of hall h ends and its tag is free (R251, R252, R240). -/
def dmaEndEffect (h tag : Nat) (hostData : Bytes) (lost : Bool) (s : State) : State :=
  let free := fun (s : State) => s.modHall h (fun x => { x with dma := x.dma.filter (fun d => d.tag != tag) })
  match (s.hall h).dma.find? (fun d => d.tag == tag) with
  | some { kind := .copy id, .. } =>
    match s.work? id with
    | none => free s
    | some w =>
      if w.opcode = 0x21 then strikeCopyMoves w (free s)
      else if copyWaits w.bytes s then s
      else if lost || hostDataFits w hostData s then copyMoves w hostData lost (free s)
      else s
  | some { kind := .stash id i, .. } => stashMoves id i (free s)
  | _ => s

/-- A DMA transfer of a COPY, STASH or UNSTASH completes (R251). -/
def execDmaTransferEnd (hall : HallNo) (tag : Nat) (hostData : Bytes) (s : State) : Result :=
  whenUp s (fun s => dmaEndEffect hall tag hostData false (accessDone (.read hall tag) s))

end Sys2Proof.Machine
end

