-- ==== Sys2Proof/Machine/Usher.lean ====
section
/-!
DEFINITION. The ushers: ROUTE, DISPATCH, COMBINE, EMB_GATHER and EMB_SEGSUM (10_sparsity_and_sequences.md, R284 to R297).
The usher of gallery g charges its costs as hall 256 + g.
-/
namespace Sys2Proof.Machine

/-- Counter USH_TOKENS and those after it (Table 10-14). -/
def kUsh (i : Nat) : Nat := 0x080010 + 4 * i

/-- What an usher descriptor's run gives: HBM writes, status, detail, result and auxiliary. -/
structure Run where
  writes : List (Nat × Bytes)
  status : Nat
  detail : Nat
  result : Nat
  aux : Nat
  deriving DecidableEq, Repr

/-- A run that writes nothing. -/
def Run.only (status detail : Nat) : Run := { writes := [], status := status, detail := detail, result := 0, aux := 0 }

/-- NOT_OWNER with the offset of the first address field whose range leaves the share (R285). -/
def shareRun (q : Partition) (ranges : List (Nat × Nat × Nat)) : Option Run :=
  (ranges.find? (fun r => !hbmAllowed q r.2.1 r.2.2)).map (fun r => Run.only 0x12 r.1)

/-! ## ROUTE (R286 to R289) -/

/-- The regions of a route record: bias, mask, expert records, assignments (Table 10-4). -/
structure RouteMap where
  bias : Nat
  mask : Nat
  experts : Nat
  entries : Nat
  deriving DecidableEq, Repr

/-- Their offsets for E experts. -/
def routeMap (E : Nat) : RouteMap :=
  let m := 64 + up64 (4 * E)
  let x := m + up64 ((E + 7) / 8)
  { bias := 64, mask := m, experts := x, entries := x + up64 (16 * E) }

/-- One accepted choice: token, choice, expert, rank and position. -/
structure Choice where
  t : Nat
  r : Nat
  e : Nat
  q : Nat
  p : Nat
  deriving DecidableEq, Repr

/-- What the placement carries: counts, overflows, the next rank of each token, the accepted choices, those beyond rank
k - 1, and those dropped. -/
structure Placing where
  cnt : Table Nat
  ovf : Table Nat
  nx : Table Nat
  got : List Choice
  beyond : Nat
  dropped : Nat
  deriving DecidableEq, Repr

/-- An element into a list ordered by `before`. -/
def insertBy {α : Type} (before : α → α → Bool) (x : α) : List α → List α
  | [] => [x]
  | y :: ys => if before x y then x :: y :: ys else y :: insertBy before x ys

/-- A list ordered by `before`. -/
def sortBy {α : Type} (before : α → α → Bool) (l : List α) : List α := l.foldr (insertBy before) []

/-- The ranks of a token: live experts by score descending, ties to the lower number, then the others. -/
def rankOf (zs : List Num) (live : List Bool) : List Nat :=
  let es := List.range zs.length
  let z := fun e => zs.getD e zeroNum
  sortBy (fun a b => (z b).lt (z a) || (!(z a).lt (z b) && a < b)) (es.filter (fun e => live.getD e false)) ++
    es.filter (fun e => !live.getD e false)

/-- The next expert with room that a NEXT choice finds, with its rank; `fuel` bounds the search by E. -/
def nextExpert (rank : List Nat) (live : List Bool) (cnt : Table Nat) (C : Nat) : Nat → Nat → Nat × Option (Nat × Nat)
  | 0, n => (n, none)
  | fuel + 1, n =>
    match rank[n]? with
    | none => (n, none)
    | some e =>
      if live.getD e false = false then (n, none)
      else if tget 0 cnt e < C then (n + 1, some (e, n))
      else nextExpert rank live cnt C fuel (n + 1)

/-- Choice r of token t placed (R287). -/
def placeChoice (C : Nat) (next : Bool) (rank : List Nat) (live : List Bool) (nan : Bool) (k t r : Nat) (a : Placing) :
    Placing :=
  let drop : Placing := { a with dropped := a.dropped + 1 }
  match rank[r]? with
  | none => drop
  | some e =>
    if nan || !live.getD e false then drop
    else if tget 0 a.cnt e < C then
      { a with got := { t := t, r := r, e := e, q := r, p := tget 0 a.cnt e } :: a.got, cnt := tmod 0 a.cnt e (· + 1) }
    else
      let a := { a with ovf := tmod 0 a.ovf e (· + 1) }
      if next = false then { a with dropped := a.dropped + 1 }
      else
        let f := nextExpert rank live a.cnt C rank.length (tget k a.nx t)
        let a := { a with nx := tset a.nx t f.1 }
        match f.2 with
        | none => { a with dropped := a.dropped + 1 }
        | some (e, q) =>
          { a with got := { t := t, r := r, e := e, q := q, p := tget 0 a.cnt e } :: a.got,
                   cnt := tmod 0 a.cnt e (· + 1), beyond := a.beyond + 1 }

/-- The scores, biases and mask of one ROUTE. -/
structure Scores where
  xs : List (List Num)
  zs : List (List Num)
  live : List Bool
  nans : List Bool
  deriving DecidableEq, Repr

/-- n FP32 values from address a. -/
def readF32 (a n : Nat) (s : State) : List Num :=
  (List.range n).map (fun i => ofF32 (BitVec.ofNat 32 (leNat (hbmRead (a + 4 * i) 4 s))))

/-- The scores that a ROUTE reads. -/
def routeScores (b : Bytes) (s : State) : Scores :=
  let T := u32 b 20
  let E := u16 b 24
  let rec_ := u64 b 40
  let gate := byteAt b 17
  let m := routeMap E
  let bias := if bit gate 5 then readF32 (rec_ + m.bias) E s else []
  let live := (List.range E).map (fun e =>
    !bit gate 6 || bit (byteAt (hbmRead (rec_ + m.mask + e / 8) 1 s) 0) (e % 8))
  let xs := (List.range T).map (fun t => readF32 (u64 b 32 + t * up64 (4 * E)) E s)
  let zs := xs.map (fun row => row.zipIdx.map (fun (x, e) => if bit gate 5 then r32 (x.add (bias.getD e zeroNum)) else x))
  let nans := (xs.zip zs).map (fun (x, z) =>
    (List.range E).any (fun e => live.getD e false && ((x.getD e zeroNum).isNan || (z.getD e zeroNum).isNan)))
  { xs := xs, zs := zs, live := live, nans := nans }

/-- Gate probabilities of one token: softmax over the live experts, or sigmoids (R287). -/
def gateProbs (gate : Nat) (xs : List Num) (live : List Bool) : List Num :=
  if gate = 0 then
    let ms := smaxStat ((xs.zip live).filterMap (fun (x, l) => if l then some x else none)) (.inf true) zeroNum
    (xs.zip live).map (fun (x, l) => if l then (smaxApply x ms.1.1 ms.2.1).1 else zeroNum)
  else xs.map sigmoid

/-- Weights of one token's accepted choices, by expert (R288). -/
def choiceWeights (gate : Nat) (renorm : Bool) (xs ps : List Num) (es : List Nat) : Table Num :=
  if gate = 1 then
    let ms := smaxStat (es.map (fun e => xs.getD e zeroNum)) (.inf true) zeroNum
    es.foldl (fun t e => tset t e (smaxApply (xs.getD e zeroNum) ms.1.1 ms.2.1).1) []
  else
    let sa := r32 (exactSum (es.map (fun e => ps.getD e zeroNum)))
    es.foldl (fun t e =>
      let p := ps.getD e zeroNum
      tset t e (if renorm then div32 p sa else p)) []

/-- The whole placement of a ROUTE, rank by rank (R287). -/
def routePlace (b : Bytes) (sc : Scores) (cnt ovf : Table Nat) : Placing :=
  let T := u32 b 20
  let k := byteAt b 18
  let ranks := sc.zs.map (fun z => rankOf z sc.live)
  let start : Placing := { cnt := cnt, ovf := ovf, nx := [], got := [], beyond := 0, dropped := 0 }
  ((List.range k).flatMap (fun r => (List.range T).map (fun t => (r, t)))).foldl (fun a c =>
    placeChoice (u32 b 28) (bit (byteAt b 17) 3) (ranks.getD c.2 []) sc.live (sc.nans.getD c.2 false) k c.2 c.1 a) start

/-- Bytes of one assignment entry (Table 10-5). -/
def entryOf (weights : Nat → Nat → Num) (got : List Choice) (t r : Nat) : Bytes :=
  match got.find? (fun c => c.t == t && c.r == r) with
  | none => toLE 0xFFFF 2 ++ toLE 0xFFFF 2 ++ toLE 0xFFFFFFFF 4 ++ toLE 0 8
  | some c => toLE c.e 2 ++ toLE c.q 2 ++ toLE c.p 4 ++ toLE (toF32 (weights t c.e)).toNat 4 ++ toLE 0 4

/-- The header of a route record (Table 10-5). -/
def routeHeader (U E k gate C dropped : Nat) : Bytes :=
  toLE U 4 ++ toLE E 2 ++ toLE k 1 ++ toLE gate 1 ++ toLE C 4 ++ toLE dropped 4 ++ List.replicate 48 0

/-- Whether two gate bytes agree in all but CONTINUE, which the ROUTE that made the record has clear (R288; assumption log
107). -/
def sameGate (a b : Nat) : Bool := a % 16 == b % 16 && a / 32 == b / 32

/-- ROUTE: the header, the expert records and the assignments of its tokens (R286 to R289). -/
def routeRun (q : Partition) (b : Bytes) (s : State) : Run :=
  let T := u32 b 20
  let E := u16 b 24
  let C := u32 b 28
  let k := byteAt b 18
  let gate := byteAt b 17
  let rec_ := u64 b 40
  let m := routeMap E
  let cont := bit gate 4
  let hdr := hbmRead rec_ 64 s
  let u0 := if cont then u32 hdr 0 else 0
  let total := m.entries + 16 * k * (u0 + T)
  if cont && (u16 hdr 4 != E || byteAt hdr 6 != k || u32 hdr 8 != C || sameGate (byteAt hdr 7) gate = false ||
      16777216 < u0 + T) then
    Run.only 0x11 0
  else
  match shareRun q [(32, u64 b 32, T * up64 (4 * E)), (40, rec_, total)] with
  | some r => r
  | none =>
    if hbmPoisoned (u64 b 32) (T * up64 (4 * E)) s || (cont && hbmPoisoned rec_ m.entries s) ||
        (bit gate 5 && hbmPoisoned (rec_ + m.bias) (4 * E) s) || (bit gate 6 && hbmPoisoned (rec_ + m.mask) ((E + 7) / 8) s) then
      Run.only 0x30 0x02
    else
      let sc := routeScores b s
      let old := fun (o e : Nat) => if cont then u32 (hbmRead (rec_ + m.experts + 16 * e) 16 s) o else 0
      let cnt := (List.range E).foldl (fun t e => tset t e (old 0 e)) []
      let ovf := (List.range E).foldl (fun t e => tset t e (old 4 e)) []
      let pl := routePlace b sc cnt ovf
      let probs := sc.xs.map (fun x => gateProbs (bits gate 0 2) x sc.live)
      let ws := (List.range T).map (fun t =>
        choiceWeights (bits gate 0 2) (bit gate 2) (sc.xs.getD t []) (probs.getD t [])
          ((pl.got.filter (fun c => c.t == t)).map Choice.e))
      let weight := fun t e => tget zeroNum (ws.getD t []) e
      let sums := fun e =>
        if bits gate 0 2 = 1 then (pl.got.filter (fun c => c.e == e)).map (fun c => weight c.t e)
        else ((List.range T).filter (fun t => !sc.nans.getD t false)).map (fun t => (probs.getD t []).getD e zeroNum)
      let oldPsum := fun e => if cont then ofF32 (BitVec.ofNat 32 (old 8 e)) else zeroNum
      let expert := fun e =>
        toLE (tget 0 pl.cnt e) 4 ++ toLE (tget 0 pl.ovf e) 4 ++
          toLE (toF32 ((oldPsum e).add (r32 (exactSum (sums e))))).toNat 4 ++ toLE 0 4
      let drops := (if cont then u32 hdr 12 else 0) + pl.dropped
      let entries := ((List.range T).flatMap (fun t => (List.range k).map (fun r =>
        entryOf weight pl.got t r))).flatten
      { writes :=
          [(rec_, routeHeader (u0 + T) E k gate C drops), (rec_ + m.experts, ((List.range E).map expert).flatten),
           (rec_ + m.entries + 16 * k * u0, entries)],
        status := 0, detail := 32 * b2n (sc.nans.any id), result := pl.got.length + 2 ^ 32 * pl.dropped, aux := u0 + T }

/-- What a ROUTE adds to its counters: tokens, drops, choices placed by NEXT (R311). -/
def routeCounts (b : Bytes) (r : Run) (s : State) : State :=
  if r.status = 0 then
    let sc := routeScores b s
    let m := routeMap (u16 b 24)
    let old := fun (o e : Nat) => if bit (byteAt b 17) 4 then u32 (hbmRead (u64 b 40 + m.experts + 16 * e) 16 s) o else 0
    let cnt := (List.range (u16 b 24)).foldl (fun t e => tset t e (old 0 e)) []
    let pl := routePlace b sc cnt []
    ((s.bump (kUsh 0) (u32 b 20)).bump (kUsh 1) pl.dropped).bump (kUsh 2) pl.beyond
  else s

/-! ## DISPATCH and COMBINE (R290 to R292) -/

/-- A route record as its readers see it: U, E, k, counts and accepted entries as token, choice, expert, position and
weight. -/
structure RouteView where
  U : Nat
  E : Nat
  k : Nat
  C : Nat
  counts : List Nat
  entries : List (Nat × Nat × Nat × Nat × Num)
  deriving DecidableEq, Repr

/-- The route record at an address. -/
def routeView (a : Nat) (s : State) : RouteView :=
  let h := hbmRead a 64 s
  let E := u16 h 4
  let k := byteAt h 6
  let U := u32 h 0
  let m := routeMap E
  { U := U, E := E, k := k, C := u32 h 8,
    counts := (List.range E).map (fun e => u32 (hbmRead (a + m.experts + 16 * e) 4 s) 0),
    entries := ((List.range U).flatMap (fun u => (List.range k).map (fun r =>
      let x := hbmRead (a + m.entries + 16 * (k * u + r)) 16 s
      (u, r, u16 x 0, u32 x 4, ofF32 (BitVec.ofNat 32 (u32 x 8)))))).filter (fun x => x.2.2.1 != 0xFFFF) }

/-- Bytes of a route record. -/
def routeBytes (v : RouteView) : Nat := (routeMap v.E).entries + 16 * v.k * v.U

/-- Rows of the block of expert e (Table 10-9). -/
def blockRows (v : RouteView) (compact : Bool) (e : Nat) : Nat :=
  if compact then (v.counts.getD e 0 + 15) / 16 * 16 else v.C

/-- Row stride in a buffer. -/
def rowBytes (f W : Nat) : Nat := up64 (planeBytes f W)

/-- Bytes of the block of expert e. -/
def blockBytes (v : RouteView) (compact : Bool) (f W e : Nat) : Nat :=
  let r := blockRows v compact e
  r * rowBytes f W + (if fmtMx f then up64 (r * (W / 32)) else 0)

/-- First byte of each expert's block, and the end of the last. -/
def blockOffsets (v : RouteView) (compact : Bool) (f W : Nat) : List Nat :=
  (List.range v.E).foldl (fun l e => l ++ [l.getLast?.getD 1024 + blockBytes v compact f W e]) [1024]

/-- Row p of the block of expert e: its elements and its scales, as addresses and lengths from the buffer's start. -/
def blockRow (v : RouteView) (compact : Bool) (f W : Nat) (offs : List Nat) (e p : Nat) : (Nat × Nat) × (Nat × Nat) :=
  let o := offs.getD e 1024
  ((o + p * rowBytes f W, planeBytes f W),
    (o + blockRows v compact e * rowBytes f W + p * (W / 32), if fmtMx f then W / 32 else 0))

/-- DISPATCH: the plan, then each expert's rows (R290, R291). -/
def dispatchRun (q : Partition) (b : Bytes) (s : State) : Run :=
  let f := byteAt b 17
  let D := byteAt b 18
  let compact := bit (byteAt b 19) 0
  let W := u32 b 20
  let src := u64 b 24
  let v := routeView (u64 b 32) s
  let offs := blockOffsets v compact f W
  let total := offs.getLast?.getD 1024
  let scaleRow := if fmtMx f then W / 32 else 0
  match shareRun q [(24, src, v.U * rowBytes f W + v.U * scaleRow), (32, u64 b 32, routeBytes v), (40, u64 b 40, total)] with
  | some r => r
  | none =>
    if v.E % D ≠ 0 then Run.only 0x10 18
    else
      let per := v.E / D
      let plan := (List.range 64).map (fun j =>
        if j < D then
          let o := offs.getD (j * per) 1024
          toLE o 8 ++ toLE (offs.getD ((j + 1) * per) 1024 - o) 8
        else toLE 0 16)
      let rows := (List.range v.E).flatMap (fun e => (List.range (blockRows v compact e)).flatMap (fun p =>
        let d := blockRow v compact f W offs e p
        match v.entries.find? (fun x => x.2.2.1 == e && x.2.2.2.1 == p) with
        | some x =>
          [(d.1.1, src + x.1 * rowBytes f W, d.1.2, true), (d.2.1, src + v.U * rowBytes f W + x.1 * scaleRow, d.2.2, true)]
        | none => [(d.1.1, 0, d.1.2, false), (d.2.1, 0x7F, d.2.2, false)]))
      let good := rows.takeWhile (fun r => !(r.2.2.2 && hbmPoisoned r.2.1 r.2.2.1 s))
      let poisoned := good.length != rows.length || hbmPoisoned (u64 b 32) (routeBytes v) s
      let writes := good.map (fun r =>
        (u64 b 40 + r.1, if r.2.2.2 then hbmRead r.2.1 r.2.2.1 s else List.replicate r.2.2.1 (BitVec.ofNat 8 r.2.1)))
      { writes := if hbmPoisoned (u64 b 32) (routeBytes v) s then [] else (u64 b 40, plan.flatten) :: writes,
        status := if poisoned then 0x30 else 0, detail := if poisoned then 2 else 0,
        result := if hbmPoisoned (u64 b 32) (routeBytes v) s then 0
          else 1024 + (writes.map (fun w => w.2.length)).sum,
        aux := 0 }

/-- One output row of COMBINE (R292). -/
def combineRow (v : RouteView) (W : Nat) (row : Nat → Nat → List Num) (u : Nat) : List Num :=
  (v.entries.filter (fun x => x.1 == u)).foldl (fun acc x =>
    (acc.zip (row x.2.2.1 x.2.2.2.1)).map (fun (a, y) => add32 a (mul32 x.2.2.2.2 y)))
    (List.replicate W zeroNum)

/-- COMBINE. -/
def combineRun (q : Partition) (b : Bytes) (s : State) : Run :=
  let f := byteAt b 18
  let W := u32 b 20
  let compact := bit (byteAt b 19) 0
  let v := routeView (u64 b 32) s
  let offs := blockOffsets v compact f W
  let src := u64 b 24
  let o := fbFormat (byteAt b 17)
  match shareRun q [(24, src, offs.getLast?.getD 1024), (32, u64 b 32, routeBytes v), (40, u64 b 40, v.U * rowBytes o W)] with
  | some r => r
  | none =>
    let at_ := fun e p => blockRow v compact f W offs e p
    let row := fun e p =>
      let d := at_ e p
      let codes := unpackCodes f (hbmRead (src + d.1.1) d.1.2 s) W
      let sc := (hbmRead (src + d.2.1) d.2.2 s).map BitVec.toNat
      codes.zipIdx.map (fun (c, n) => blockValue f (sc.getD (n / 32) 0) c)
    let bad := fun u => (v.entries.filter (fun x => x.1 == u)).any (fun x =>
      let d := at_ x.2.2.1 x.2.2.2.1
      hbmPoisoned (src + d.1.1) d.1.2 s || hbmPoisoned (src + d.2.1) d.2.2 s)
    let good := (List.range v.U).takeWhile (fun u => !bad u)
    let rows := good.map (fun u => (u, convertRun 0 o (fbSat (byteAt b 17)) (combineRow v W row u) none))
    let recBad := hbmPoisoned (u64 b 32) (routeBytes v) s
    let poisoned := recBad || good.length != v.U
    { writes := if recBad then [] else rows.map (fun (u, p) => (u64 b 40 + u * rowBytes o W, packCodes o p.codes)),
      status := if poisoned then 0x30 else 0,
      detail := if poisoned then 2 else 16 * b2n (rows.any (fun r => r.2.sat)) + 32 * b2n (rows.any (fun r => r.2.nan)),
      result := 0, aux := 0 }

/-! ## EMB_GATHER and EMB_SEGSUM (R296, R297) -/

/-- T identifiers from address a. -/
def readIds (a T : Nat) (s : State) : List Nat := (List.range T).map (fun i => leNat (hbmRead (a + 4 * i) 4 s))

/-- EMB_GATHER from strike `strike` of layer l. -/
def gatherRun (q : Partition) (l : Layer) (strike : Word) (b : Bytes) (s : State) : Run :=
  let T := u32 b 20
  let f := l.format
  let Se := rowStride l
  let mb := l.cols / 32
  let out := u64 b 32
  match shareRun q [(24, u64 b 24, 4 * T), (32, out, T * Se + T * mb)] with
  | some r => r
  | none =>
    let base := strikeBase l strike
    let ids := readIds (u64 b 24) T s
    let idBad := hbmPoisoned (u64 b 24) (4 * T) s
    let eb := planeBytes f l.cols
    let bad := fun i => i < l.rows && (hbmPoisoned (base + i * Se) eb s || hbmPoisoned (base + l.rows * Se + i * mb) mb s)
    let good := ids.takeWhile (fun i => !bad i)
    let writes := good.zipIdx.flatMap (fun (i, u) =>
      if i < l.rows then
        [(out + u * Se, hbmRead (base + i * Se) eb s), (out + T * Se + u * mb, hbmRead (base + l.rows * Se + i * mb) mb s)]
      else [(out + u * Se, List.replicate eb 0), (out + T * Se + u * mb, List.replicate mb 0x7F#8)])
    let poisoned := idBad || good.length != ids.length
    let inside := (good.filter (fun i => i < l.rows)).length
    { writes := if idBad then [] else writes, status := if poisoned then 0x30 else 0, detail := if poisoned then 2 else 0,
      result := inside + 2 ^ 32 * (good.length - inside), aux := 0 }

/-- Where the identifiers of an EMB_SEGSUM lie in its input, and the row list in its output (R297). -/
structure SegsumMap where
  idsAt : Nat
  listAt : Nat
  deriving DecidableEq, Repr

/-- The offsets for layer l. -/
def segsumMap (l : Layer) (b : Bytes) : SegsumMap :=
  let f := byteAt b 17
  let o := fbFormat (byteAt b 20)
  let m := l.cols
  let sc := if fmtMx f then m / 32 else 0
  let so := if fmtMx o then m / 32 else 0
  { idsAt := up64 (u32 b 24 * rowBytes f m + u32 b 24 * sc), listAt := up64 (u32 b 28 * (rowBytes o m + so)) }

/-- EMB_SEGSUM for layer l. -/
def segsumRun (q : Partition) (l : Layer) (b : Bytes) (s : State) : Run :=
  let f := byteAt b 17
  let o := fbFormat (byteAt b 20)
  let T := u32 b 24
  let umax := u32 b 28
  let m := l.cols
  let src := u64 b 32
  let sc := if fmtMx f then m / 32 else 0
  let so := if fmtMx o then m / 32 else 0
  let idsAt := src + (segsumMap l b).idsAt
  let listAt := u64 b 40 + (segsumMap l b).listAt
  match shareRun q [(32, src, idsAt + 4 * T - src), (40, u64 b 40, listAt + 4 * umax - u64 b 40)] with
  | some r => r
  | none =>
    if hbmPoisoned src (idsAt + 4 * T - src) s then Run.only 0x30 0x02
    else
      let ids := readIds idsAt T s
      let mine : List (Nat × Nat) := ids.zipIdx.filter (fun x => l.base ≤ x.1 && x.1 < l.base + l.n)
      let rows : List Nat := sortBy (fun a b => a < b) (mine.map (fun x => x.1 - l.base)).eraseDups
      let U := rows.length
      if umax < U then { Run.only 0x13 0 with result := U + 2 ^ 32 * (T - mine.length) }
      else
        let row := fun u =>
          let codes := unpackCodes f (hbmRead (src + u * rowBytes f m) (planeBytes f m) s) m
          let scs := (hbmRead (src + T * rowBytes f m + u * sc) sc s).map BitVec.toNat
          codes.zipIdx.map (fun (c, n) => blockValue f (scs.getD (n / 32) 0) c)
        let outs := rows.zipIdx.map (fun (i, u) =>
          let acc : List Num := (mine.filter (fun (x : Nat × Nat) => x.1 == l.base + i)).foldl
            (fun (a : List Num) (x : Nat × Nat) =>
            (a.zip (row x.2)).map (fun (a, g) => add32 a g)) (List.replicate m zeroNum)
          (u, convertRun 0 o (fbSat (byteAt b 20)) acc none))
        { writes :=
            outs.flatMap (fun (u, p) =>
              [(u64 b 40 + u * rowBytes o m, packCodes o p.codes),
               (u64 b 40 + U * rowBytes o m + u * so, if fmtMx o then p.scales.map (BitVec.ofNat 8) else [])]) ++
              [(listAt, (rows.map (fun i => toLE i 4)).flatten)],
          status := 0,
          detail := 16 * b2n (outs.any (fun r => r.2.sat)) + 32 * b2n (outs.any (fun r => r.2.nan)),
          result := U + 2 ^ 32 * (T - mine.length), aux := 0 }

/-! ## The usher of a gallery (R284, R285) -/

/-- The usher descriptor that a gallery runs next or runs now; one of a saved partition is a pending record (R388). -/
def usherHead (g : Nat) (s : State) : Option Work := s.work.find? (fun w => w.hall == 256 + g && partLive (s.part w.part))

/-- Whether the wait tally of a body's tail is satisfied (Table 10-2, R105). -/
def tailMet (b : Bytes) (s : State) : Bool :=
  u16 b 52 == 0xFFFF || tallyMet (u16 b 52) (BitVec.ofNat 32 (u32 b 56)) s

/-- One more on the signal tally of a body's tail. -/
def tailSignal (b : Bytes) (s : State) : State := if u16 b 54 = 0xFFFF then s else addTally (u16 b 54) 1 s

/-- What an usher descriptor computes and writes. -/
def usherRun (w : Work) (s : State) : Run :=
  let q := s.part w.part
  let b := w.bytes
  match w.opcode with
  | 0x50 => routeRun q b s
  | 0x51 => dispatchRun q b s
  | 0x52 => combineRun q b s
  | 0x53 =>
    match layerOf q (u16 b 18) with
    | none => Run.only 0x11 0x05
    | some l => gatherRun q l ((w.leases.head?.map ReadLease.strike).getD 0) b s
  | _ =>
    match layerOf q (u16 b 18) with
    | none => Run.only 0x11 0
    | some l => segsumRun q l b s

/-- Rounded-up quotient. -/
def ceilDiv (a n : Nat) : Nat := (a + n - 1) / n

/-- Cycles that an usher descriptor is charged (R289, R291, R292, R297); for EMB_GATHER the manual gives no number
(assumption log 107). -/
def usherCharge (w : Work) (s : State) : Nat × State :=
  let b := w.bytes
  let q := s.part w.part
  match w.opcode with
  | 0x50 => (ceilDiv (u32 b 20 * u16 b 24) 256 + ceilDiv (u32 b 20 * byteAt b 18) 16 + 200, s)
  | 0x51 => (ceilDiv (usherRun w s).result 256 + 200, s)
  | 0x52 =>
    let v := routeView (u64 b 32) s
    let f := byteAt b 18
    let row := planeBytes f (u32 b 20) + (if fmtMx f then u32 b 20 / 32 else 0)
    (ceilDiv (v.entries.length * row) 256 + 200, s)
  | 0x54 =>
    let m := ((layerOf q (u16 b 18)).map Layer.cols).getD 0
    (ceilDiv (u32 b 24 * m) 256 + ceilDiv (u32 b 24) 16 + 200, s)
  | _ => (s.fresh.1.toNat, s.fresh.2)

/-- The usher of gallery g runs its next descriptor once that has not run and its wait tally is satisfied: its writes
are made and its completion waits for the last of them. -/
def usherStart (g : Nat) (s : State) : State :=
  match usherHead g s with
  | none => s
  | some w =>
    if w.ready.isSome || !tailMet w.bytes s || !partLive (s.part w.part) then s
    else
      let r := usherRun w s
      let c := usherCharge w s
      let s := if w.opcode = 0x50 then routeCounts w.bytes r c.2 else c.2
      let s := r.writes.foldl (fun s x => hbmWrite x.1 x.2 s) s
      let s := if r.status = 0x30 then setPoison w.part 2 (s.bump kPoison) else s
      s.setWork { w with started := true, left := w.left - c.1,
                         ready := some (r.status, r.detail, BitVec.ofNat 64 r.result, BitVec.ofNat 64 r.aux) }

/-- Step 8 of R91 for the usher descriptors that name a layer, with the lease that EMB_GATHER takes (R248, R296, R297). -/
def usherLayer (p : Nat) (b : Bytes) (s : State) : Except Reject (List ReadLease) :=
  let l := layerOf (s.part p) (u16 b 18)
  match byteAt b 0 with
  | 0x53 =>
    match l with
    | none => .error (badState 0x05)
    | some l =>
      if l.current = 0 then .error (badState 0x05)
      else if l.rowLayout = false then .error (badState 0x04)
      else .ok [{ part := p, layer := u16 b 18, strike := l.current }]
  | 0x54 =>
    match l with
    | none => .error (badState 0x00)
    | some l =>
      if l.lazy = false then .error (badState l.state.code)
      else if l.n < u32 b 28 then .error { status := 0x10, detail := 28, result := 0 }
      else .ok []
  | _ => .ok []

/-- The head usher descriptor of a ring admitted to its gallery's usher (R284). -/
def usherAdmit (op rn : Nat) (s : State) : State :=
  withCarried op rn (fun b => 256 + byteAt b 16) s (fun f o h s =>
    match usherLayer o f.bytes s with
    | .error e => rejectHead rn f e s
    | .ok ls => admitWork (newWork s rn f o h (u32 f.bytes 12) ls) (popHead rn s))

/-- The usher of each gallery runs its next descriptor when that is one of this opcode and ring. -/
def ushersGo (op rn : Nat) (s : State) : State :=
  [0, 1].foldl (fun s g =>
    match usherHead g s with
    | none => s
    | some w => if w.opcode = op ∧ w.ring = rn then usherStart g s else s) s

/-- Usher opcode `op` on ring rn: its head is admitted, and the ushers go on. -/
def usherEffect (op rn : Nat) (s : State) : State := ushersGo op rn (usherAdmit op rn s)

/-- ROUTE (R286). -/
def execRoute (ring : RingNo) (s : State) : Result := whenUp s (usherEffect 0x50 ring)
/-- DISPATCH (R290). -/
def execDispatch (ring : RingNo) (s : State) : Result := whenUp s (usherEffect 0x51 ring)
/-- COMBINE (R292). -/
def execCombine (ring : RingNo) (s : State) : Result := whenUp s (usherEffect 0x52 ring)
/-- EMB_GATHER (R296). -/
def execEmbGather (ring : RingNo) (s : State) : Result := whenUp s (usherEffect 0x53 ring)
/-- EMB_SEGSUM (R297). -/
def execEmbSegsum (ring : RingNo) (s : State) : Result := whenUp s (usherEffect 0x54 ring)

/-- USHER_LAST_WRITE: the signal tally counts, the completion posts, and the usher takes its next descriptor (R285). -/
def usherLastEffect (g : Nat) (s : State) : State :=
  match usherHead g s with
  | none => s
  | some w =>
    match w.ready with
    | none => s
    | some (st, d, r, a) =>
      let s := if st = 0 then tailSignal w.bytes s else s
      usherStart g (finish w.ring w.tag st d r.toNat a.toNat (s.dropWork w.id))

/-- The usher of a gallery finishes its last HBM write. -/
def execUsherLastWrite (gallery : GalleryNo) (s : State) : Result := whenUp s (usherLastEffect gallery)

end Sys2Proof.Machine
end

