-- ==== Sys2Proof/Machine/Collectives.lean ====
section
/-!
DEFINITION. The clearing engines: collectives and inter-stage queues (11_fabric_and_collectives.md, R328 to R337). Frames
of other kinds stand in Machine/Fabric.lean.
-/
namespace Sys2Proof.Machine

/-! ## Shards and regions (R332, R333) -/

/-- Bytes of a shard of n elements: the element plane, and for MX formats the scale plane at the next 64-byte boundary. -/
def shardBytes (f n : Nat) : Nat := if fmtMx f then up64 (planeBytes f n) + n / 32 else planeBytes f n

/-- Distance between shards. -/
def shardPitch (f n : Nat) : Nat := up64 (shardBytes f n)

/-- Group, tag, formats and element count of a CLEAR body (Table 11-8). -/
def clrGroup (b : Bytes) : Nat := byteAt b 16
/-- In format. -/
def clrIn (b : Bytes) : Nat := fbFormat (byteAt b 17)
/-- Out format. -/
def clrOut (b : Bytes) : Nat := fbFormat (byteAt b 18)
/-- Elements per rank. -/
def clrN (b : Bytes) : Nat := u32 b 40
/-- Collective tag. -/
def clrTag (b : Bytes) : Word := BitVec.ofNat 32 (u32 b 44)
/-- Source. -/
def clrSrc (b : Bytes) : Nat := u64 b 24
/-- Destination. -/
def clrDst (b : Bytes) : Nat := u64 b 32

/-- An empty group. -/
def Group.none : Group := { rank := 0, staging := 0, stagingBytes := 0, members := [], digest := 0 }

/-- The group that a work item names. -/
def groupOf (w : Work) (s : State) : Group := (s.part w.part).groups.getD (clrGroup w.bytes) Group.none

/-- The ranks of a group but the own. -/
def otherRanks (g : Group) : List Nat := (List.range g.members.length).filter (· != g.rank)

/-- Whether a work item is a collective. -/
def isCollective (op : Nat) : Bool := 0x30 ≤ op && op ≤ 0x34

/-- Whether a CLEAR reduces at present. -/
def reducing (w : Work) : Bool := w.opcode == 0x30 || (w.opcode == 0x32 && !w.gather)

/-- The format of a gather's shards. -/
def gatherFmt (w : Work) : Nat := if w.opcode = 0x32 then clrOut w.bytes else clrIn w.bytes

/-- Plan entry j of a send buffer: offset and bytes (Table 10-9). -/
def planEntry (a j : Nat) (s : State) : Nat × Nat :=
  let e := hbmRead (a + 16 * j) 16 s
  (u64 e 0, u64 e 8)

/-- Bytes of all K shards of a buffer. -/
def wholeBytes (f n K : Nat) : Nat := (K - 1) * shardPitch f n + shardBytes f n

/-- The bytes that this member sends to rank r at present: address and length. -/
def sendRegion (w : Work) (g : Group) (r : Nat) (s : State) : Nat × Nat :=
  let b := w.bytes
  let n := clrN b
  if w.opcode = 0x34 then
    let e := planEntry (clrSrc b) r s
    (clrSrc b + e.1, e.2)
  else if w.opcode = 0x33 then
    if g.rank = byteAt b 19 then (clrSrc b, wholeBytes (clrIn b) n g.members.length) else (clrSrc b, 0)
  else if reducing w then (clrSrc b + r * shardPitch (clrIn b) n, shardBytes (clrIn b) n)
  else
    let f := gatherFmt w
    let base := if w.opcode = 0x32 then clrDst b + g.rank * shardPitch f n else clrSrc b
    (base, shardBytes f n)

/-- The bytes that rank r sends to this member at present. -/
def receiveBytes (w : Work) (g : Group) (r : Nat) : Nat :=
  let b := w.bytes
  let n := clrN b
  if w.opcode = 0x34 then tget 0 w.counts r
  else if w.opcode = 0x33 then (if r = byteAt b 19 then wholeBytes (clrIn b) n g.members.length else 0)
  else if reducing w then shardBytes (clrIn b) n
  else shardBytes (gatherFmt w) n

/-- Offset of rank r's range in an ALL_TO_ALL receive buffer: 1,024 and the counts of all lower ranks (R336). -/
def a2aOffset (w : Work) (r : Nat) : Nat := (List.range r).foldl (fun o j => o + tget 0 w.counts j) 1024

/-- The address at which rank r's bytes are to land here (R333, R336). -/
def landAddress (w : Work) (g : Group) (r : Nat) : Nat :=
  let b := w.bytes
  let n := clrN b
  if w.opcode = 0x34 then clrDst b + a2aOffset w r
  else if w.opcode = 0x33 then clrDst b
  else if reducing w then g.staging + r * shardBytes (clrIn b) n
  else clrDst b + r * shardPitch (gatherFmt w) n

/-! ## Frames of a CLEAR -/

/-- Bytes cut into payloads of at most 8,192. -/
def payloads (bs : Bytes) : List Bytes := runsOf 8192 bs.length bs

/-- The bytes of a region sent to a rank in DATA frames on all eight stripes (R329, R332). -/
def sendData (w : Work) (g : Group) (r : Nat) (bs : Bytes) (s : State) : State :=
  let dst := (g.members.getD r (0, 0)).1
  (payloads bs).zipIdx.foldl (fun s p =>
    let f := { newFrame 0x07 dst 3 s with
      stripe := Fin.ofNat 8 p.2, txn := g.digest, operation := clrTag w.bytes, offset := BitVec.ofNat 32 (128 * p.2),
      senderRank := g.rank, receiverRank := r, payload := p.1 }
    sendReliable f (some w.id) w.part s) s

/-- The payload of a control REQ (R330): kind 1 READY, 2 COUNT. -/
def controlPayload (kind : Nat) (g : Group) (r value : Nat) : Bytes :=
  toLE kind 1 ++ toLE g.rank 1 ++ toLE r 1 ++ toLE 0 1 ++ toLE g.digest.toNat 4 ++ toLE value 8

/-- A control REQ sent to every other rank of the group, `value` by rank. -/
def sendControl (kind : Nat) (w : Work) (g : Group) (value : Nat → Nat) (s : State) : State :=
  (otherRanks g).foldl (fun s r =>
    sendReq (g.members.getD r (0, 0)).1 (clrTag w.bytes) (controlPayload kind g r (value r)) (.control w.id) w.part s) s

/-! ## Ends -/

/-- The final completion of a CLEAR or queue descriptor: the signal tally counts after a DONE (R285, R337). -/
def finishWork (w : Work) (status detail result aux : Nat) (s : State) : State :=
  let s := if status = 0 then tailSignal w.bytes s else s
  finish w.ring w.tag status detail result aux (s.dropWork w.id)

/-- A work item replaced by what f makes of it. -/
def modWork (id : Nat) (f : Work → Work) (s : State) : State :=
  match s.work? id with
  | none => s
  | some w => s.setWork (f w)

/-- A CLEAR that ends because of poisoned data of its own (R465). -/
def poisonClear (w : Work) (s : State) : State :=
  finishWork w 0x30 0x02 w.sent w.stall (setPoison w.part 2 (s.bump kPoison))

/-! ## Reduction (R334) -/

/-- The values of a shard at an address: each decoded exactly and rounded to FP32. -/
def shardValues (f n a : Nat) (s : State) : List Num :=
  let codes := unpackCodes f (hbmRead a (planeBytes f n) s) n
  let scs := if fmtMx f then (hbmRead (a + up64 (planeBytes f n)) (n / 32) s).map BitVec.toNat else []
  codes.zipIdx.map (fun (c, i) => r32 (blockValue f (scs.getD (i / 32) 0) c))

/-- Where the contribution of rank r to this member's shard stands: the own in the source, the others in staging. -/
def contribution (w : Work) (g : Group) (r : Nat) : Nat :=
  if r = g.rank then clrSrc w.bytes + r * shardPitch (clrIn w.bytes) (clrN w.bytes)
  else g.staging + r * shardBytes (clrIn w.bytes) (clrN w.bytes)

/-- The reduced shard: rank order fixes every element (R334). -/
def reduceValues (w : Work) (g : Group) (s : State) : List Num :=
  let vs := (List.range g.members.length).map (fun r =>
    shardValues (clrIn w.bytes) (clrN w.bytes) (contribution w g r) s)
  match vs with
  | [] => []
  | v :: rest => rest.foldl (fun acc x => (acc.zip x).map (fun (a, b) => add32 a b)) v

/-- The bytes of a converted shard. -/
def shardImage (f : Nat) (p : Plane) : Bytes :=
  let el := packCodes f p.codes
  if fmtMx f then el ++ List.replicate (up64 el.length - el.length) 0 ++ p.scales.map (BitVec.ofNat 8) else el

/-- Where the reduced shard goes. -/
def reducedAt (w : Work) (g : Group) : Nat :=
  if w.opcode = 0x30 then clrDst w.bytes else clrDst w.bytes + g.rank * shardPitch (clrOut w.bytes) (clrN w.bytes)

/-- The own shard reduced, converted and written once all contributions are present; poisoned staging ends the CLEAR. -/
def reduceOwn (w : Work) (s : State) : State :=
  let g := groupOf w s
  let b := w.bytes
  let n := clrN b
  if (List.range g.members.length).any (fun r => hbmPoisoned (contribution w g r) (shardBytes (clrIn b) n) s) then
    poisonClear w s
  else
    let slot := tget { seed := 0, stream := 0, epoch := 0, auto := false } (s.part w.part).gens (bits (byteAt b 20) 0 4)
    let draws := if fbSr (byteAt b 18) then
        some (genDraws slot.seed slot.stream (clrTag b) (BitVec.ofNat 32 (0x20000 + g.rank)) slot.epoch n)
      else none
    let p := convertRun 0 (clrOut b) (fbSat (byteAt b 18)) (reduceValues w g s) draws
    let s := hbmWrite (reducedAt w g) (shardImage (clrOut b) p) s
    s.setWork { w with reduced := true, flags := w.flags ||| BitVec.ofNat 8 (16 * b2n p.sat + 32 * b2n p.nan) }

/-! ## The progress of a collective -/

/-- Whether an earlier CLEAR of the partition names the same group (R333). -/
def groupBusy (w : Work) (s : State) : Bool :=
  (s.work.takeWhile (fun v => v.id != w.id)).any (fun v =>
    isCollective v.opcode && v.part == w.part && clrGroup v.bytes == clrGroup w.bytes)

/-- READY to every other rank. -/
def sendReadys (w : Work) (s : State) : State :=
  let g := groupOf w s
  sendControl 1 w g (landAddress w g) (s.setWork { w with readySent := true })

/-- Early control REQs of this CLEAR taken from its partition (R333). -/
def takeEarly (w : Work) (s : State) : State :=
  let g := groupOf w s
  let q := s.part w.part
  let mine := q.early.filter (fun e => e.digest == g.digest && e.tag == clrTag w.bytes)
  let s := s.setPart w.part { q with early := q.early.filter (fun e => !(e.digest == g.digest && e.tag == clrTag w.bytes)) }
  modWork w.id (fun w => mine.foldl (fun w e =>
    if e.count then { w with counts := tset w.counts e.rank e.value }
    else { w with readys := tset w.readys e.rank e.value }) w) s

/-- Whether every range that an ALL_TO_ALL send plan names lies in the partition's share (R92, Table 10-9). -/
def planAllowed (w : Work) (K : Nat) (s : State) : Bool :=
  (List.range K).all (fun r =>
    let e := planEntry (clrSrc w.bytes) r s
    hbmAllowed (s.part w.part) (clrSrc w.bytes + e.1) e.2)

/-- The start of a collective (R333, R336): READYs go out, or the counts of the first round. -/
def clearStart (w : Work) (s : State) : State :=
  let g := groupOf w s
  let b := w.bytes
  let K := g.members.length
  if (w.opcode = 0x30 ∨ w.opcode = 0x32) ∧ g.stagingBytes < K * shardBytes (clrIn b) (clrN b) then
    finishWork w 0x13 0x01 0 0 s
  else if w.opcode = 0x34 ∧ planAllowed w K s = false then finishWork w 0x12 24 0 0 s
  else
    let s := takeEarly { w with started := true } (s.setWork { w with started := true })
    match s.work? w.id with
    | none => s
    | some w =>
      if w.opcode = 0x34 then
        let own := (planEntry (clrSrc b) g.rank s).2
        let w := { w with countSent := true, counts := tset w.counts g.rank own }
        sendControl 2 w g (fun r => (planEntry (clrSrc b) r s).2) (s.setWork w)
      else
        let s := if w.opcode = 0x31 then
            hbmWrite (clrDst b + g.rank * shardPitch (clrIn b) (clrN b))
              (hbmRead (clrSrc b) (shardBytes (clrIn b) (clrN b)) s) s
          else if w.opcode = 0x33 ∧ g.rank = byteAt b 19 then
            hbmWrite (clrDst b) (hbmRead (clrSrc b) (wholeBytes (clrIn b) (clrN b) K) s) s
          else s
        sendReadys w s

/-- The second round of ALL_TO_ALL, once every count is known (R336): the plan and the own range are written. -/
def a2aSecond (w : Work) (s : State) : State :=
  let g := groupOf w s
  let b := w.bytes
  let K := g.members.length
  let sum := a2aOffset w K - 1024
  if 64 * clrN b < sum ∨ hbmAllowed (s.part w.part) (clrDst b) (a2aOffset w K) = false then finishWork w 0x13 0x02 0 0 s
  else
    let plan := ((List.range 64).map (fun r =>
      if r < K then toLE (a2aOffset w r) 8 ++ toLE (tget 0 w.counts r) 8 else toLE 0 16)).flatten
    let own := planEntry (clrSrc b) g.rank s
    let s := hbmWrite (clrDst b) plan s
    let s := hbmWrite (clrDst b + a2aOffset w g.rank) (hbmRead (clrSrc b + own.1) own.2 s) s
    sendReadys w s

/-- The ranks whose READY has come and which have had no DATA. -/
def dueRanks (w : Work) (g : Group) : List Nat :=
  (otherRanks g).filter (fun r => (tget? w.readys r).isSome && !w.sentTo.contains r)

/-- DATA to the ranks that are due, as far as there is room for their messages (R322, R333). -/
def sendReady (w : Work) (s : State) : State :=
  let g := groupOf w s
  let due := (dueRanks w g).take (16384 - transactions s)
  let regions := due.map (fun r => (r, sendRegion w g r s))
  if regions.any (fun x => hbmPoisoned x.2.1 x.2.2 s) then poisonClear w s
  else
    let n := regions.foldl (fun t x => t + x.2.2) 0
    let s := s.setWork { w with sentTo := w.sentTo ++ due, sent := w.sent + n, left := w.left - n }
    regions.foldl (fun s x => sendData w g x.1 (hbmRead x.2.1 x.2.2 s) s) s

/-- Whether the bytes of every other rank have arrived. -/
def allArrived (w : Work) (g : Group) : Bool :=
  (otherRanks g).all (fun r => tget 0 w.arrived r == receiveBytes w g r)

/-- Whether DATA has gone to every other rank to which this member sends any. -/
def allSent (w : Work) (g : Group) (s : State) : Bool :=
  (otherRanks g).all (fun r => w.sentTo.contains r || (sendRegion w g r s).2 == 0)

/-- The second half of ALL_REDUCE begins (R334). -/
def beginGather (w : Work) (s : State) : State :=
  sendReadys { w with gather := true, arrived := [], sentTo := [], readys := w.readys2, readys2 := [] } s

/-- Whether some other member of a collective has no route (R316). -/
def unrouted (g : Group) (s : State) : Bool :=
  (otherRanks g).any (fun r => !routed (g.members.getD r (0, 0)).1 s)

/-- Whether a collective has sent all that it sends. -/
def sentAll (w : Work) (g : Group) (s : State) : Bool := allSent w g s && (w.opcode != 0x32 || w.gather)

/-- One step of a started collective: what can be done now is done. A frame toward a route of MODE 0 fails at once
(R316, R321). -/
def clearStep (w : Work) (s : State) : State :=
  let g := groupOf w s
  if w.started = false then
    if groupBusy w s || !tailMet w.bytes s || !fabricFits (otherRanks g).length s then s
    else if unrouted g s then finishWork w 0x31 0 0 0 s
    else clearStart w s
  else if unrouted g s && !sentAll w g s then finishWork w 0x31 0 w.sent 0 s
  else if w.opcode = 0x34 ∧ w.readySent = false then
    if (List.range g.members.length).all (fun r => (tget? w.counts r).isSome) && fabricFits (otherRanks g).length s
    then a2aSecond w s else s
  else if !(dueRanks w g).isEmpty && fabricRoom s then sendReady w s
  else if reducing w && !w.reduced && allArrived w g then reduceOwn w s
  else if w.opcode = 0x32 ∧ w.gather = false ∧ w.reduced = true ∧ allSent w g s = true then
    if fabricFits (otherRanks g).length s then beginGather w s else s
  else if allArrived w g && allSent w g s && (!reducing w || w.reduced) && !unackedOf w.id s then
    finishWork w 0x00 w.flags.toNat w.sent 0 s
  else s

/-! ## Queues (R335) -/

/-- The queue that a queue descriptor names. -/
def queueOf (p n : Nat) (s : State) : Option Queue := (s.part p).queues[n]?

/-- Queue n of a partition replaced. -/
def setQueue (p n : Nat) (x : Queue) (s : State) : State :=
  s.modPart p (fun q => { q with queues := setAt q.queues n x })

/-- The payloads of a queue message: the last is shorter than 8,192 bytes unless the message fills the entry, so that the
receiver knows the message's end (assumption log 14). -/
def queuePayloads (entry : Nat) (bs : Bytes) : List Bytes :=
  let ps := payloads bs
  match ps.getLast? with
  | some l => if l.length = 8192 ∧ bs.length ≠ entry then ps.dropLast ++ [l.take 8128, l.drop 8128] else ps
  | none => []

/-- Offsets of payloads in their message, in units of 64 bytes. -/
def offsetsOf : List Bytes → Nat → List (Nat × Bytes)
  | [], _ => []
  | p :: ps, o => (o / 64, p) :: offsetsOf ps (o + p.length)

/-- Cycles that a queue operation has stalled until now. -/
def stalled (w : Work) (s : State) : Nat := match w.since with | some t => s.time.ref - t | none => 0

/-- A queue operation that cannot go on now: its stall begins. -/
def stall (w : Work) (s : State) : State :=
  if w.since.isSome then s else s.setWork { w with since := some s.time.ref }

/-- The push or pop that is the oldest of its queue. -/
def queueFirst (w : Work) (s : State) : Bool :=
  (s.work.takeWhile (fun v => v.id != w.id)).all (fun v =>
    !(v.opcode == w.opcode && v.part == w.part && byteAt v.bytes 16 == byteAt w.bytes 16 && v.slot.isNone))

/-- A queue's stall cycles counted in FAB_QSTALL, in units of 1,024 (R339). -/
def countStall (n : Nat) (s : State) : State :=
  let t := s.fab.stallRest + n
  (modFab s (fun f => { f with stallRest := t % 1024 })).bump kQstall (t / 1024)

/-- A push takes a credit and sends its message (R335). -/
def pushStart (w : Work) (x : Queue) (s : State) : State :=
  let b := w.bytes
  let n := byteAt b 16
  let len := u32 b 32
  let st := stalled w s
  if hbmPoisoned (clrSrc b) len s then poisonClear { w with stall := st } s
  else if routed x.peer s = false then finishWork w 0x31 0 0 st s
  else
    let s := countStall st (setQueue w.part n { x with credits := x.credits - 1, begun := x.begun + 1, since := x.since + 1,
                                                       stall := x.stall + st } s)
    let s := s.setWork { w with started := true, slot := some x.begun, stall := st, sent := len, left := 0 }
    (offsetsOf (queuePayloads x.entryBytes (hbmRead (clrSrc b) len s)) 0).foldl (fun s p =>
      let f := { newFrame 0x07 x.peer 2 s with
        operation := BitVec.ofNat 32 n, offset := BitVec.ofNat 32 p.1, payload := p.2 }
      sendReliable f (some w.id) w.part s) s

/-- A pop copies its complete slot out, to the address in bytes 24 to 31 of its body, and returns a credit (R335). -/
def popStart (w : Work) (x : Queue) (len : Nat) (s : State) : State :=
  let b := w.bytes
  let n := byteAt b 16
  let a := x.buffer + x.begun % x.depth * x.entryBytes
  let st := stalled w s
  let s := countStall st (setQueue w.part n { x with begun := x.begun + 1, complete := x.complete.tail,
                                                      since := x.since + 1, stall := x.stall + st } s)
  let s := if routed x.peer s then
      sendReliable { newFrame 0x08 x.peer 2 s with operation := BitVec.ofNat 32 n, payload := toLE 1 4 } none w.part s
    else s
  if hbmPoisoned a len s then poisonClear { w with stall := st } s
  else finishWork w 0x00 0 0 st (hbmWrite (clrSrc b) (hbmRead a len s) s)

/-- One step of a queue descriptor. -/
def queueStep (w : Work) (s : State) : State :=
  match queueOf w.part (byteAt w.bytes 16) s with
  | none => s
  | some x =>
    if w.opcode = 0x35 then
      if w.started then
        if unackedOf w.id s then s else finishWork w 0x00 0 w.sent w.stall s
      else if !tailMet w.bytes s || !queueFirst w s then s
      else if x.credits = 0 then stall w s
      else if fabricRoom s then pushStart w x s
      else s
    else if !tailMet w.bytes s || !queueFirst w s then s
    else
      match x.complete with
      | [] => stall w s
      | len :: _ => popStart w x len s

/-- One step of every CLEAR descriptor whose partition is not saved, oldest first. -/
def clearSweep (s : State) : State :=
  (s.work.filter (fun w => bits w.opcode 4 4 == 3 && partLive (s.part w.part))).foldl (fun s w =>
    match s.work? w.id with
    | none => s
    | some w => if isCollective w.opcode then clearStep w s else queueStep w s) s

/-- The CLEARs do all that they can do now; `fuel` bounds the sweeps, each of which moves some CLEAR by a phase. -/
def advanceClears : Nat → State → State
  | 0, s => s
  | fuel + 1, s => advanceClears fuel (clearSweep s)

/-- Enough sweeps for every phase of a CLEAR. -/
def clearsRun (s : State) : State := advanceClears 8 s

/-- Bytes that a CLEAR has yet to move, for its estimate (R42). -/
def clearBytes (p : Nat) (b : Bytes) (s : State) : Nat :=
  let K := ((s.part p).groups.getD (clrGroup b) Group.none).members.length
  match byteAt b 0 with
  | 0x35 => u32 b 32
  | 0x36 => 0
  | 0x34 => 64 * clrN b
  | _ => K * shardBytes (clrIn b) (clrN b)

/-- CLEAR opcode `op` on ring rn: its head is admitted, and the CLEARs go on. -/
def clearEffect (op rn : Nat) (s : State) : State :=
  clearsRun (withCarried op rn (fun b => u16 b 48) s (fun f o h s =>
    admitWork (newWork s rn f o h (clearBytes o f.bytes s) []) (popHead rn s)))

/-- REDUCE_SCATTER (R332, R334). -/
def execReduceScatter (ring : RingNo) (s : State) : Result := whenUp s (clearEffect 0x30 ring)
/-- ALL_GATHER (R332, R334). -/
def execAllGather (ring : RingNo) (s : State) : Result := whenUp s (clearEffect 0x31 ring)
/-- ALL_REDUCE (R334). -/
def execAllReduce (ring : RingNo) (s : State) : Result := whenUp s (clearEffect 0x32 ring)
/-- BROADCAST (R332, R334). -/
def execBroadcast (ring : RingNo) (s : State) : Result := whenUp s (clearEffect 0x33 ring)
/-- ALL_TO_ALL (R336). -/
def execAllToAll (ring : RingNo) (s : State) : Result := whenUp s (clearEffect 0x34 ring)
/-- QUEUE_PUSH (R335). -/
def execQueuePush (ring : RingNo) (s : State) : Result := whenUp s (clearEffect 0x35 ring)
/-- QUEUE_POP (R335). -/
def execQueuePop (ring : RingNo) (s : State) : Result := whenUp s (clearEffect 0x36 ring)

/-! ## Frames that collectives receive -/

/-- The partition of this device that has a group of a digest at a rank. The digest covers the members, so a member's rank
names one partition (R329). -/
def groupIn (digest : Word) (rank : Nat) (s : State) : Option Nat :=
  (s.parts.find? (fun e => e.2.groups.any (fun g => g.digest == digest && g.rank == rank))).map Prod.fst

/-- The CLEAR that a collective frame belongs to: the oldest with its tag, whichever of its partition's groups with that digest
and rank it names (R333). -/
def clearOf (digest : Word) (rank : Nat) (tag : Word) (s : State) : Option Work :=
  s.work.find? (fun w => isCollective w.opcode && clrTag w.bytes == tag && w.started &&
    (groupOf w s).digest == digest && (groupOf w s).rank == rank)

/-- The CLEARs with a tag whose group has another digest. -/
def strangers (tag digest : Word) (s : State) : List Work :=
  s.work.filter (fun w => isCollective w.opcode && clrTag w.bytes == tag && (groupOf w s).digest != digest)

/-- The CLEAR that a frame with a digest of no group here names: of those with its tag, one that has the receiver's rank, best
with the sender in its place; else the oldest (R329, assumption log 14). -/
def mismatched (tag digest : Word) (src : Half) (sender receiver : Nat) (s : State) : Option Work :=
  let l := strangers tag digest s
  let own := fun w => (groupOf w s).rank == receiver
  let placed := fun w => ((groupOf w s).members.getD sender (0, 0)).1 == src
  if s.parts.any (fun e => e.2.groups.any (fun g => g.digest == digest)) then none
  else ((l.find? (fun w => own w && placed w)).or (l.find? own)).or l.head?

/-- MAP_MISMATCH, and ABORTED for the descriptor (R329, R338). -/
def mismatchEnds (w : Work) (src : Half) (s : State) : State :=
  finishWork w 0x3F 0x05 0 0 (postEvent w.part 0x5003 2 (clrGroup w.bytes) src.toNat s)

/-- A collective frame of a digest that no group of this device has at the receiver's rank: it is not used (R329). -/
def notMine (f : Frame) (digest : Word) (sender receiver : Nat) (s : State) : State :=
  match mismatched f.operation digest f.src sender receiver s with
  | some w => mismatchEnds w f.src s
  | none => s

/-- A READY or COUNT recorded: with its CLEAR, or kept until that starts; the RESP's status (R330). -/
def controlIn (count : Bool) (f : Frame) (s : State) : State × Nat × Nat :=
  let b := f.payload
  let digest := BitVec.ofNat 32 (u32 b 4)
  let rank := byteAt b 1
  let value := u64 b 8
  match groupIn digest (byteAt b 2) s with
  | none => (notMine f digest rank (byteAt b 2) s, 0x3F, 0)
  | some p =>
    let keep : EarlyReq := { digest := digest, tag := f.operation, rank := rank, count := count, value := value }
    match clearOf digest (byteAt b 2) f.operation s with
    | none => (s.modPart p (fun q => { q with early := q.early ++ [keep] }), 0, 0)
    | some w =>
      if count then (s.setWork { w with counts := tset w.counts rank value }, 0, 0)
      else if w.opcode = 0x32 ∧ w.gather = false ∧ (tget? w.readys rank).isSome = true then
        (s.setWork { w with readys2 := tset w.readys2 rank value }, 0, 0)
      else (s.setWork { w with readys := tset w.readys rank value }, 0, 0)

/-- READY (R330, R333). -/
def execReadyReq (link : LinkNo) (frame : Frame) (s : State) : Result :=
  whenUpWf (Instr.wellFormed (.readyReq link frame)) "READY_REQ" s (fun s =>
    clearsRun (receiveReq link frame s (controlIn false frame)))

/-- COUNT (R330, R336). -/
def execCountReq (link : LinkNo) (frame : Frame) (s : State) : Result :=
  whenUpWf (Instr.wellFormed (.countReq link frame)) "COUNT_REQ" s (fun s =>
    clearsRun (receiveReq link frame s (controlIn true frame)))

/-- Collective DATA lands at the address that this member's READY named for its sender (R330, R334). -/
def dataLands (f : Frame) (s : State) : State :=
  match groupIn f.txn f.receiverRank s with
  | none => notMine f f.txn f.senderRank f.receiverRank s
  | some _ =>
    match clearOf f.txn f.receiverRank f.operation s with
    | none => s
    | some w =>
      let g := groupOf w s
      let a := landAddress w g f.senderRank + 64 * f.offset.toNat
      (hbmWrite a f.payload s).setWork { w with arrived := tmod 0 w.arrived f.senderRank (· + f.payload.length) }

/-- Collective DATA (R334). -/
def execCollectiveData (link : LinkNo) (frame : Frame) (s : State) : Result :=
  whenUpWf (Instr.wellFormed (.collectiveData link frame)) "COLLECTIVE_DATA" s (fun s =>
    clearsRun (receiveReliable link frame s (dataLands frame)))

/-- The partition that sent a frame, where this device can know it: a frame that it sent to itself is one of those that wait
on its own connection. -/
def sentBy (f : Frame) (s : State) : Option Nat :=
  if f.src = fabAddr s then ((connOf (connIn f) s).unacked.find? (fun u => u.frame.seq == f.seq)).map Sent.part else none

/-- The queue that a queue frame belongs to: partition and entry; of several, the lowest partition's, since a frame does not
carry its partition (R335, assumption log 14). -/
def queueIn (receive : Bool) (f : Frame) (s : State) : Option (Nat × Queue) :=
  (s.parts.filterMap (fun e =>
    match e.2.queues[f.operation.toNat]? with
    | some x =>
      if x.receive == receive && x.peer == f.src && (sentBy f s).getD x.peerPart == x.peerPart then some (e.1, x) else none
    | none => none)).head?

/-- Queue DATA fills the slot of its push; the message is complete when its last frame has come. -/
def queueLands (f : Frame) (s : State) : State :=
  let n := f.operation.toNat
  match queueIn true f s with
  | none => s
  | some (p, x) =>
    let slot := (x.begun + x.complete.length) % x.depth
    let s := hbmWrite (x.buffer + slot * x.entryBytes + 64 * f.offset.toNat) f.payload s
    let have_ := x.arrived + f.payload.length
    if f.payload.length < 8192 ∨ have_ = x.entryBytes then
      setQueue p n { x with arrived := 0, complete := x.complete ++ [have_] } s
    else setQueue p n { x with arrived := have_ } s

/-- Queue DATA (R335). -/
def execQueueData (link : LinkNo) (frame : Frame) (s : State) : Result :=
  whenUpWf (Instr.wellFormed (.queueData link frame)) "QUEUE_DATA" s (fun s =>
    clearsRun (receiveReliable link frame s (queueLands frame)))

/-- Credits return to the sender of a queue (R335). -/
def creditLands (f : Frame) (s : State) : State :=
  let n := f.operation.toNat
  match queueIn false f s with
  | none => s
  | some (p, x) => setQueue p n { x with credits := min x.depth (x.credits + u32 f.payload 0) } s

/-- CREDIT (R335). -/
def execCreditReceived (link : LinkNo) (frame : Frame) (s : State) : Result :=
  whenUpWf (Instr.wellFormed (.creditReceived link frame)) "CREDIT_RECEIVED" s (fun s =>
    clearsRun (receiveReliable link frame s (creditLands frame)))

end Sys2Proof.Machine
end

