-- ==== Sys2Proof/Machine/MintMath.lean ====
section
/-!
DEFINITION. What the mint engines compute: the update rule of R264 with its draws, the exchange bodies, and strikes
(09_mint_and_vault.md, R257, R264 to R268, R273 to R277). The commands that use it stand in Machine/Mint.lean.
-/
namespace Sys2Proof.Machine

/-! ## Masters, row records and momentum (R257, Table 9-2) -/

/-- The byte at an offset of the masters region: what has been written there, else a free value (R257, R261). -/
def masterByte (l : Layer) (o : Nat) : Byte :=
  match tget? l.masters o with
  | some b => b
  | none => (Config.freeWord (l.mastersFree + o)).setWidth 8

/-- The bf16 code of the master of row i and column j. -/
def masterCode (l : Layer) (i j : Nat) : Nat :=
  let o := i * masterStride l + 2 * j
  (masterByte l o).toNat + 256 * (masterByte l (o + 1)).toNat

/-- The row record of row i; one that nothing has written is zero (R261). -/
def rowRec (t : Table RowRec) (i : Nat) : RowRec := tget { r := 0, last := 0, xs := 0 } t i

/-- Whether row i is frozen (R265). -/
def rowFrozen (l : Layer) (i : Nat) : Bool := l.frozen || l.mask.contains i

/-- The decoded momentum of row i and column j. -/
def momentumValue (l : Layer) (i j : Nat) : Num :=
  blockValue 2 (l.mom.get (l.n * l.cols + i * (l.cols / 32) + j / 32)).toNat (l.mom.get (i * l.cols + j)).toNat

/-! ## UPDATE bodies (Table 9-9) -/

/-- The layer that a MINT body names. -/
def mintLayer (b : Bytes) : Nat := u16 b 16
/-- Whether a row list is given. -/
def hasRowList (b : Bytes) : Bool := bit (byteAt b 19) 0
/-- Number of gradient rows. -/
def gradRows (l : Layer) (b : Bytes) : Nat := if hasRowList b then u32 b 20 else l.n
/-- Format of the gradient. -/
def gradFmt (b : Bytes) : Nat := byteAt b 18
/-- Distance between gradient rows. -/
def gradStride (l : Layer) (b : Bytes) : Nat := up64 (planeBytes (gradFmt b) l.cols)
/-- Bytes of the gradient. -/
def gradBytes (l : Layer) (b : Bytes) : Nat :=
  gradRows l b * gradStride l b + (if fmtMx (gradFmt b) then gradRows l b * (l.cols / 32) else 0)

/-- The listed rows, or every row. -/
def touchedRows (l : Layer) (b : Bytes) (s : State) : List Nat :=
  if hasRowList b then (List.range (u32 b 20)).map (fun k => leNat (hbmRead (u64 b 32 + 4 * k) 4 s))
  else List.range l.n

/-- Whether a row list is strictly ascending and below n (R267). -/
def rowListOk (n : Nat) : List Nat → Bool
  | [] => true
  | [a] => a < n
  | a :: c :: rest => a < c && rowListOk n (c :: rest)

/-- Row k of the gradient, as exact values. -/
def gradRow (l : Layer) (b : Bytes) (s : State) (k : Nat) : List Num :=
  let f := gradFmt b
  let codes := unpackCodes f (hbmRead (u64 b 24 + k * gradStride l b) (planeBytes f l.cols) s) l.cols
  let sc := u64 b 24 + gradRows l b * gradStride l b + k * (l.cols / 32)
  let scs := if fmtMx f then (hbmRead sc (l.cols / 32) s).map BitVec.toNat else []
  codes.zipIdx.map (fun (c, j) => blockValue f (scs.getD (j / 32) 0) c)

/-- The first block of a gradient, with its row list, that is poisoned. -/
def gradPoisoned (l : Layer) (b : Bytes) (s : State) : Bool :=
  hbmPoisoned (u64 b 24) (gradBytes l b) s || (hasRowList b && hbmPoisoned (u64 b 32) (4 * u32 b 20) s)

/-! ## Constants of the rule (R264) -/

/-- The number 1. -/
def one32 : Num := Num.ofInt 1

/-- An integer as FP32. -/
def int32 (n : Nat) : Num := r32 (Num.ofInt n)

/-- b2 at step t. -/
def updateB2 (h : HyperSet) (t : Word) : Num :=
  sub32 one32 (prim32 1 (mul32 (ofF32 h.c) (prim32 3 (int32 t.toNat))).negate)

/-- b2 x + (1 - b2) y, rounded after each operation. -/
def blend32 (b2 x y : Num) : Num := add32 (mul32 b2 x) (mul32 (sub32 one32 b2) y)

/-! ## Pass A -/

/-- What pass A gives: the new row statistics, the local column sums, rsum, xsq, nu, nf, and whether a gradient element
was not finite. -/
structure PassA where
  rn : Table Word
  cols : List Num
  rs : Num
  xq : Num
  nu : Nat
  nf : Nat
  bad : Bool
  deriving DecidableEq, Repr

/-- Exact sum, element by element. -/
def sumCols (a b : List Num) : List Num := (a.zip b).map (fun (x, y) => x.add y)

/-- Pass A over the touched rows `rows` (R264, R265, R268). -/
def passA (l : Layer) (h : HyperSet) (b : Bytes) (rows : List Nat) (s : State) : PassA :=
  let b2 := updateB2 h (l.step + 1)
  let live := rows.zipIdx.filter (fun (i, _) => !rowFrozen l i)
  let gs := live.map (fun (i, k) => (i, gradRow l b s k))
  let bad := gs.any (fun x => x.2.any (fun v => !v.isFin))
  let sq := gs.map (fun x => (x.1, x.2.map (fun v => v.mul v)))
  let fresh := sq.map (fun x =>
    let q := r32 ((exactSum x.2).div (Num.ofInt l.cols))
    (x.1, toF32 (blend32 b2 (ofF32 (rowRec l.rowRecs x.1).r) (add32 q (ofF32 h.eps1)))))
  let open_ := (List.range l.n).filter (fun i => !rowFrozen l i)
  let rn := open_.map (fun i =>
    (i, match fresh.find? (fun x => x.1 == i) with | some x => x.2 | none => (rowRec l.rowRecs i).r))
  { rn := rn, cols := sq.foldl (fun a x => sumCols a x.2) (List.replicate l.cols zeroNum),
    rs := exactSum (rn.map (fun x => ofF32 x.2)),
    xq := exactSum ((List.range l.n).map (fun i => ofF32 (rowRec l.rowRecs i).xs)),
    nu := open_.length, nf := l.n - open_.length, bad := bad }

/-! ## Exchange bodies (Table 9-8) -/

/-- The flags byte of a set. -/
def HyperSet.flags (h : HyperSet) : Nat := b2n h.relative + 2 * b2n h.noclip
/-- The first 16 bytes of a body. -/
def bodyHead (n : Nat) (l : Layer) (round cause at6 : Nat) (flight : Word) : Bytes :=
  toLE n 2 ++ toLE l.shard 1 ++ toLE l.shards 1 ++ toLE round 1 ++ toLE cause 1 ++ toLE at6 2 ++ toLE l.step.toNat 4 ++
    toLE flight.toNat 4

/-- An FP32 code as bytes. -/
def f32Bytes (v : Num) : Bytes := toLE (toF32 v).toNat 4

/-- The eight hyper-parameters as bytes. -/
def hyperBytes (h : HyperSet) : Bytes :=
  ([h.lr, h.rhomax, h.c, h.eps1, h.eps2, h.d, h.lam, h.b1].map (fun w => toLE w.toNat 4)).flatten

/-- The body of round 1. -/
def round1Body (n : Nat) (l : Layer) (h : HyperSet) (flight : Word) (cause : Nat) (a : PassA) : Bytes :=
  bodyHead n l 1 cause l.cols flight ++ toLE l.rows 4 ++ toLE a.nu 4 ++ toLE a.nf 4 ++ toLE h.flags 1 ++ toLE l.flags 1 ++
    toLE 0 2 ++ hyperBytes h ++ f32Bytes a.rs ++ f32Bytes a.xq ++ (a.cols.map f32Bytes).flatten

/-- The body of round 2. -/
def round2Body (n : Nat) (l : Layer) (flight : Word) (cause : Nat) (usq : Num) : Bytes :=
  bodyHead n l 2 cause 0 flight ++ f32Bytes usq

/-- An FP32 field of a body. -/
def f32At (b : Bytes) (o : Nat) : Num := ofF32 (BitVec.ofNat 32 (u32 b o))

/-- The exact sum of a field over the shards, rounded once (R266). -/
def sumField (bs : List Bytes) (o : Nat) : Num := r32 (exactSum (bs.map (fun b => f32At b o)))

/-! ## The combination (R264) -/

/-- What every shard computes from the bodies of round 1. -/
structure Combined where
  nu : Nat
  nf : Nat
  cn : List Num
  rbar : Num
  alpha : Num
  b2 : Num
  deriving DecidableEq, Repr

/-- The combination of the K bodies of round 1. -/
def combine (l : Layer) (h : HyperSet) (bs : List Bytes) : Combined :=
  let b2 := updateB2 h (l.step + 1)
  let nu := (bs.map (fun b => u32 b 20)).sum
  let tf := int32 (l.step + 1).toNat
  let rms := prim32 5 (div32 (sumField bs 68) (int32 (l.rows * l.cols)))
  { nu := nu, nf := (bs.map (fun b => u32 b 24)).sum, b2 := b2,
    cn := (List.range l.cols).map (fun j =>
      blend32 b2 (ofF32 (tget 0 l.colst j)) (add32 (div32 (sumField bs (72 + 4 * j)) (Num.ofInt nu)) (ofF32 h.eps1))),
    rbar := div32 (sumField bs 64) (Num.ofInt nu),
    alpha := if h.relative then
        mul32 (Num.max (ofF32 h.eps2) rms) (Num.min (ofF32 h.rhomax) (prim32 6 tf))
      else ofF32 h.lr }

/-- upd(i, j) for a gradient row (R264). -/
def updRow (c : Combined) (rn : Num) (g : List Num) : List Num :=
  (g.zip c.cn).map (fun (g, cn) => mul32 g (prim32 6 (div32 (mul32 rn cn) c.rbar)))

/-- Touched and unfrozen rows with their place in the gradient. -/
def liveRows (l : Layer) (rows : List Nat) : List (Nat × Nat) := rows.zipIdx.filter (fun (i, _) => !rowFrozen l i)

/-- Pass B: the sum of squared updates, and whether one is not finite. -/
def passB (l : Layer) (b : Bytes) (c : Combined) (rn : Table RowRec) (rows : List Nat) (s : State) : Num × Bool :=
  let us := (liveRows l rows).flatMap (fun (i, k) => updRow c (ofF32 (rowRec rn i).r) (gradRow l b s k))
  (r32 (exactSum (us.map (fun u => u.mul u))), us.any (fun u => !u.isFin))

/-- clip (R264). -/
def clipOf (l : Layer) (h : HyperSet) (c : Combined) (bs2 : List Bytes) : Num :=
  if h.noclip then one32
  else Num.max one32 (div32 (prim32 5 (div32 (sumField bs2 16) (int32 (c.nu * l.cols)))) (ofF32 h.d))

/-! ## Pass C -/

/-- The factor of weight decay of a row (R264, R274). -/
def decayOf (h : HyperSet) (c : Combined) (t last : Word) : Num :=
  if (ofF32 h.lam).isZero then one32
  else
    let s1 := sub32 one32 (mul32 c.alpha (ofF32 h.lam))
    let gap := t - last
    if gap = 1 then s1 else prim32 1 (mul32 (int32 gap.toNat) (prim32 3 s1))

/-- What pass C gives for one row. -/
structure RowOut where
  row : Nat
  codes : List Nat
  line : RowRec
  mom : List Num
  sat : Bool
  deriving DecidableEq, Repr

/-- The draws of a row of the masters or the momentum (R265). -/
def mintDraws (q : Partition) (l : Layer) (h : HyperSet) (layer i : Nat) (momentum : Bool) : List Nat :=
  let g := tget { seed := 0, stream := 0, epoch := 0, auto := false } q.gens h.slot
  genDraws g.seed g.stream (BitVec.ofNat 32 (l.base + i)) (BitVec.ofNat 32 (layer + 0x10000 * b2n momentum)) (l.step + 1)
    l.cols

/-- Pass C on one live row (R264). -/
def passCRow (q : Partition) (layer : Nat) (l : Layer) (h : HyperSet) (c : Combined) (clip : Num) (rn : Word)
    (g : List Num) (i : Nat) : RowOut :=
  let t := l.step + 1
  let old := rowRec l.rowRecs i
  let f := decayOf h c t old.last
  let us := (updRow c (ofF32 rn) g).zipIdx.map (fun (u, j) =>
    let u := div32 u clip
    if l.momentum then add32 (mul32 (ofF32 h.b1) (momentumValue l i j)) (mul32 (sub32 one32 (ofF32 h.b1)) u) else u)
  let draws := mintDraws q l h layer i false
  let xs := us.zipIdx.map (fun (u, j) =>
    fpEncode fBF16 (sub32 (mul32 (ofBf16 (masterCode l i j)) f) (mul32 c.alpha u)) (some (draws.getD j 0)) true)
  let vals := xs.map (fun x => ofBf16 x.1)
  { row := i, codes := xs.map Prod.fst, mom := if l.momentum then us else [], sat := xs.any Prod.snd,
    line := { r := rn, last := t, xs := toF32 (exactSum (vals.map (fun v => v.mul v))) } }

/-- The masters with a row's codes. -/
def putCodes (l : Layer) (t : Table Byte) (o : RowOut) : Table Byte :=
  o.codes.zipIdx.foldl (fun t (c, j) =>
    let a := o.row * masterStride l + 2 * j
    tset (tset t a (BitVec.ofNat 8 c)) (a + 1) (BitVec.ofNat 8 (c / 256))) t

/-- The momentum region with a row's new momentum (R264: MXFP8 E4M3 under R125). -/
def putMomentum (q : Partition) (layer : Nat) (l : Layer) (h : HyperSet) (m : Memory) (o : RowOut) : Memory :=
  if l.momentum then
    let p := convertRun 0 2 true o.mom (some (mintDraws q l h layer o.row true))
    (m.write (o.row * l.cols) (packCodes 2 p.codes)).write (l.n * l.cols + o.row * (l.cols / 32))
      (p.scales.map (BitVec.ofNat 8))
  else m

/-- The shadow that pass C makes: masters, row records, column statistics, momentum and step; with whether a master
saturated (R264, R269). -/
def passC (q : Partition) (layer : Nat) (l : Layer) (h : HyperSet) (b : Bytes) (c : Combined) (clip : Num)
    (rn : Table RowRec) (rows : List Nat) (s : State) : Shadow × Bool :=
  let t := l.step + 1
  let outs := (liveRows l rows).map (fun (i, k) =>
    passCRow q layer l h c clip (rowRec rn i).r (gradRow l b s k) i)
  let recs := outs.foldl (fun m o => tset m o.row o.line) l.rowRecs
  let recs := (List.range l.n).foldl (fun m i =>
    if rowFrozen l i then tset m i { rowRec m i with last := t } else m) recs
  ({ masters := outs.foldl (putCodes l) l.masters, rows := recs,
     colst := c.cn.zipIdx.map (fun (v, j) => (j, toF32 v)),
     momentum := outs.foldl (putMomentum q layer l h) l.mom, step := t },
   outs.any RowOut.sat)

/-! ## Strikes (R275 to R277, Table 9-12) -/

/-- The strike number after n: never 0, and always of the other parity (R275). -/
def strikeAfter (n : Word) : Word := if n = 0xFFFFFFFF then 2 else n + 1

/-- The number of the next strike of a layer: the next one whose slot does not hold the current strike. -/
def nextStrike (l : Layer) : Word :=
  let n := strikeAfter l.taken
  if l.current ≠ 0 ∧ n.toNat % 2 = l.current.toNat % 2 then strikeAfter n else n

/-- The kept columns of a group of four masters, ascending: the two of largest magnitude, ties to the lower (R276). -/
def keepTwo (g : List Nat) : List Nat :=
  let order := sortBy (fun a b => g.getD b 0 % 32768 < g.getD a 0 % 32768 ||
    (g.getD a 0 % 32768 == g.getD b 0 % 32768 && a < b)) (List.range 4)
  let k := order.take 2
  (List.range 4).filter k.contains

/-- The bytes of one tile of a row: elements, scales, indices (R276, Table 5-3). -/
def strikeTile (f : Nat) (sparse : Bool) (codes : List Nat) : Bytes × Bytes × Bytes :=
  let keeps := (runsOf 4 codes.length codes).map keepTwo
  let vals := if sparse then
      codes.zipIdx.map (fun (c, j) => if (keeps.getD (j / 4) []).contains (j % 4) then ofBf16 c else zeroNum)
    else codes.map ofBf16
  let bs := (runsOf 32 vals.length vals).map (fun v => convertBlock 1 f v none)
  let all := (bs.map Conv.codes).flatten
  let kept := if sparse then
      keeps.zipIdx.flatMap (fun (k, g) => k.map (fun p => all.getD (4 * g + p) 0))
    else all
  (packCodes f kept, bs.map (fun c => BitVec.ofNat 8 c.scale),
    if sparse then packCodes 9 (keeps.map (fun k => k.getD 0 0 + 4 * k.getD 1 0)) else [])

/-- The ranges that row r of a strike occupies: offset in the strike and length, in the order of its tiles' planes. -/
def strikeRanges (l : Layer) (r : Nat) : List (Nat × Nat) :=
  if l.rowLayout then
    [(r * rowStride l, planeBytes l.format l.cols), (l.rows * rowStride l + r * (l.cols / 32), l.cols / 32)]
  else
    let e := featureElemBytes l.format
    let sc := featureScaleBytes l.format l.sparse
    let x := featureIndexBytes l.format l.sparse
    (List.range (panelTiles l)).flatMap (fun u =>
      let base := (r / 128 * panelTiles l + u) * panelBytes l
      let i := r % 128
      [(base + i * e, e), (base + 128 * e + i * sc, sc), (base + 128 * (e + sc) + i * x, x)])

/-- The tile u of a row of masters, with +0 beyond the last column. -/
def tileCodes (T u : Nat) (codes : List Nat) : List Nat := (List.range T).map (fun i => codes.getD (u * T + i) 0)

/-- A tile's bytes with scale 0x7F for the blocks beyond the last column. -/
def padScales (l : Layer) (u : Nat) (sc : Bytes) : Bytes :=
  let T := tilePositions l.format l.sparse
  sc.zipIdx.map (fun (c, k) => if l.cols ≤ u * T + 32 * k then 0x7F else c)

/-- The bytes of a row's ranges, struck from its masters. -/
def strikeRow (l : Layer) (codes : List Nat) : List Bytes :=
  if l.rowLayout then
    let t := strikeTile l.format false codes
    [t.1, t.2.1]
  else
    (List.range (panelTiles l)).flatMap (fun u =>
      let t := strikeTile l.format l.sparse (tileCodes (tilePositions l.format l.sparse) u codes)
      [t.1, padScales l u t.2.1, t.2.2])

/-- The bytes of a row beyond N: +0 codes and scale 0x7F. -/
def emptyRow (l : Layer) : List Bytes :=
  (List.range (panelTiles l)).flatMap (fun _ =>
    [List.replicate (featureElemBytes l.format) 0, List.replicate (featureScaleBytes l.format l.sparse) 0x7F,
     List.replicate (featureIndexBytes l.format l.sparse) 0])

/-- The rows beyond N that share the last panel, written by the shard that holds row N - 1 (assumption log 16). -/
def beyondRows (l : Layer) : List Nat :=
  if !l.rowLayout && l.base + l.n == l.rows then upFrom l.rows ((l.rows + 127) / 128 * 128 - l.rows) else []

/-- The writes of a strike's shard rows into the slot of `strike` (R276, R277): `fresh` rows are struck from the masters
of `l`, the others are copied from the current strike, or struck too when there is none. -/
def strikeWrites (l : Layer) (strike : Word) (fresh : Nat → Bool) (s : State) : List (Nat × Bytes) :=
  let to_ := strikeBase l strike
  let from_ := strikeBase l l.current
  let rows := (List.range l.n).flatMap (fun i =>
    let rs := strikeRanges l (l.base + i)
    if fresh i || l.current == 0 then
      (rs.zip (strikeRow l ((List.range l.cols).map (masterCode l i)))).map (fun (r, b) => (to_ + r.1, b))
    else rs.map (fun r => (to_ + r.1, hbmRead (from_ + r.1) r.2 s)))
  rows ++ (beyondRows l).flatMap (fun r => ((strikeRanges l r).zip (emptyRow l)).map (fun (x, b) => (to_ + x.1, b)))

/-- Whether a row that would be copied from the current strike is poisoned. -/
def copyPoisoned (l : Layer) (fresh : Nat → Bool) (s : State) : Bool :=
  l.current != 0 && (List.range l.n).any (fun i =>
    !fresh i && (strikeRanges l (l.base + i)).any (fun r => hbmPoisoned (strikeBase l l.current + r.1) r.2 s))

end Sys2Proof.Machine
end

