-- ==== Sys2Proof/Machine/Mint.lean ====
section
/-!
DEFINITION. The mint's commands: layers, updates with their exchanges, strikes, and layer input and output
(09_mint_and_vault.md, R257 to R282). What a landing does with staged layers stands at the end.
-/
namespace Sys2Proof.Machine

/-- Counter MNT_PARAM and those after it (Table 9-18), in indirect space 0. -/
def kMnt (i : Nat) : Nat := indirectKey 0 (0x10 + 4 * i)

/-- A layer of a partition replaced. -/
def setLayer (p n : Nat) (l : Layer) (s : State) : State := s.modPart p (fun q => { q with layers := tset q.layers n l })

/-- Two 32-bit halves of a result. -/
def halves (lo hi : Nat) : Nat := lo % 2 ^ 32 + 2 ^ 32 * (hi % 2 ^ 32)

/-! ## The layer pool (R257) -/

/-- Extents that layers and shadows hold. -/
def heldExtents (q : Partition) : Nat :=
  q.layers.foldl (fun n e =>
    if e.2.state = .undefined_ then n
    else n + layerExtents e.2 + (match e.2.job with | some j => j.extents | none => 0)) 0

/-- Free extents of the layer pool. -/
def poolFree (q : Partition) : Nat := q.record.vaultSize - 64 - q.vaultLimit / 65536 - heldExtents q

/-! ## Taking a MINT descriptor (R260, R374) -/

/-- The gate of a MINT descriptor. -/
def mintGate (op : Nat) (q : Partition) (target : Word) : Gate :=
  if q.state = .configured ∧ (op = 0x40 ∨ op = 0x41 ∨ op = 0x44) then
    if target = 0 then .go else targetGate q target
  else partGate q target

/-- Whether a descriptor of the ring is being run by the mint. -/
def mintBusy (rn : Nat) (s : State) : Bool :=
  s.parts.any (fun e => e.2.layers.any (fun l => l.2.state == .running &&
    (match l.2.job with | some j => j.ring == rn | none => false))) ||
  s.work.any (fun w => w.opcode == 0x44 && w.ring == rn)

/-- The head MINT descriptor of ring rn with opcode `op`, given to `k` with its partition once it can be taken. -/
def withMint (op rn : Nat) (s : State) (k : Fetched → Nat → State → State) : State :=
  match headOf op rn s with
  | none => s
  | some f =>
    if mintBusy rn s then s
    else
      let p := ringPart rn s
      match mintGate op (s.part p) (BitVec.ofNat 32 (u32 f.bytes 8)) with
      | .wait => s
      | .bad d => rejectHead rn f (badState d) s
      | .go => k f p s

/-- The state code of a layer (Table 9-3). -/
def layerCode (q : Partition) (n : Nat) : Nat := match layerOf q n with | some l => l.state.code | none => 0

/-- A rejection with BAD_VALUE. -/
def badValue (d : Nat) : Reject := { status := 0x10, detail := d, result := 0 }

/-! ## LAYER_DEF and LAYER_UNDEF (R261, R262) -/

/-- The layer that a LAYER_DEF body describes. -/
def layerFrom (b : Bytes) (peers : List (Half × Nat)) (free : Nat) : Layer :=
  let fl := byteAt b 18
  { state := .idle, momentum := bit fl 0, lazy := bit fl 1, sparse := bit fl 2, rowLayout := bit fl 3,
    format := byteAt b 19, rows := u32 b 20, base := u32 b 24, n := u32 b 28, cols := u16 b 32, set := byteAt b 34,
    shards := byteAt b 35, shard := byteAt b 36, peers := peers, slot0 := u64 b 48, slot1 := u64 b 56, step := 0,
    current := 0, pending := 0, taken := 0, frozen := false, mask := [], masters := [], mastersFree := free,
    rowRecs := [], colst := [], mom := [], bodies := [], job := none }

/-- The K peer entries of a LAYER_DEF. -/
def peerEntries (b : Bytes) (s : State) : List (Half × Nat) :=
  (List.range (byteAt b 35)).map (fun k =>
    let e := hbmRead (u64 b 40 + 4 * k) 4 s
    (BitVec.ofNat 16 (u16 e 0), byteAt e 2))

/-- Why a LAYER_DEF is rejected, in the order of its fields from offset 40 on, then of its layer's state. -/
def layerDefReject (b : Bytes) (p : Nat) (l : Layer) (s : State) : Option Reject :=
  let q := s.part p
  let n := strikeBytes l
  if l.shards ≠ 1 ∧ hbmAllowed q (u64 b 40) (4 * l.shards) = false then some (notOwner 40)
  else if l.shards ≠ 1 ∧ l.peers.getD l.shard (0, 8) ≠ (fabAddr s, p) then some (badValue 40)
  else if hbmAllowed q l.slot0 n = false then some (notOwner 48)
  else if overlaps l.slot0 n l.slot1 n then some (badValue 56)
  else if hbmAllowed q l.slot1 n = false then some (notOwner 56)
  else if (layerOf q (mintLayer b)).isSome then some (badState (layerCode q (mintLayer b)))
  else if poolFree q < layerExtents l then some { status := 0x13, detail := 0, result := 0 }
  else none

/-- LAYER_DEF. -/
def layerDefEffect (rn : Nat) (s : State) : State :=
  withMint 0x40 rn s (fun f p s =>
    let b := f.bytes
    let peers := if byteAt b 35 = 1 then [(fabAddr s, p)] else peerEntries b s
    let l := layerFrom b peers s.free
    match layerDefReject b p l s with
    | some r => rejectHead rn f r s
    | none =>
      let s := setLayer p (mintLayer b) l { s with free := s.free + masterBytes l }
      finish rn f.tag 0x00 0 (layerExtents l) 0 (popHead rn s))

/-- A LAYER_DEF descriptor. -/
def execLayerDef (ring : RingNo) (s : State) : Result := whenUp s (layerDefEffect ring)

/-- Whether a held lease names a strike of a layer (R249). -/
def heldLease (q : Partition) (n : Nat) (strike : Word) : Bool :=
  q.leases.any (fun e => e.2.layer == n && e.2.strike == strike)

/-- LAYER_UNDEF. -/
def layerUndefEffect (rn : Nat) (s : State) : State :=
  withMint 0x41 rn s (fun f p s =>
    let n := mintLayer f.bytes
    match layerOf (s.part p) n with
    | none => rejectHead rn f (badState 0) s
    | some l =>
      if l.state ≠ .idle then rejectHead rn f (badState l.state.code) s
      else if l.current ≠ 0 ∧ heldLease (s.part p) n l.current = true then rejectHead rn f (badState 0x01) s
      else
        let s := s.modPart p (fun q => { q with layers := tdel q.layers n })
        finish rn f.tag 0x00 0 0 0 (popHead rn s))

/-- A LAYER_UNDEF descriptor. -/
def execLayerUndef (ring : RingNo) (s : State) : Result := whenUp s (layerUndefEffect ring)

/-! ## UPDATE (R264 to R271) -/

/-- The state code of the first other layer whose current or pending strike lies in the slot that layer n would write
(R293). -/
def slotClash (q : Partition) (n : Nat) (l : Layer) : Option Nat :=
  let a := strikeBase l (nextStrike l)
  (q.layers.find? (fun e => e.1 != n && e.2.state != .undefined_ &&
    [e.2.current, pendingStrike e.2].any (fun st =>
      st != 0 && overlaps a (strikeBytes l) (strikeBase e.2 st) (strikeBytes e.2)))).map (fun e => e.2.state.code)

/-- Extents that hold a byte of one of the ranges. -/
def extentsTouched (rs : List (Nat × Nat)) : Nat :=
  (rs.flatMap (fun r => if r.2 = 0 then [] else upFrom (r.1 / 65536) ((r.1 + r.2 - 1) / 65536 - r.1 / 65536 + 1))).eraseDups.length

/-- Extents of the shadow of an UPDATE (R269). -/
def shadowExtents (l : Layer) (rows : List Nat) : Nat :=
  (regionExtents l).2.1 + extentsTouched (rows.map (fun i => (i * masterStride l, 2 * l.cols))) +
    (if l.momentum then extentsTouched (rows.flatMap (fun i =>
      [(i * l.cols, l.cols), (l.n * l.cols + i * (l.cols / 32), l.cols / 32)])) else 0)

/-- Why an UPDATE's own fields are illegal for its layer. -/
def updateFields (q : Partition) (l : Layer) (b : Bytes) : Option Reject :=
  if hasRowList b && !l.lazy then some (badValue 19)
  else if hasRowList b && (u32 b 20 == 0 || l.n < u32 b 20) then some (badValue 20)
  else if hbmAllowed q (u64 b 24) (gradBytes l b) = false then some (notOwner 24)
  else if hasRowList b && !hbmAllowed q (u64 b 32) (4 * u32 b 20) then some (notOwner 32)
  else none

/-- A job that begins. -/
def newJob (rn : Nat) (f : Fetched) (q : Partition) (l : Layer) (isStrike : Bool) : MintJob :=
  { ring := rn, tag := f.tag, bytes := f.bytes, isStrike := isStrike,
    flight := match q.flight with | some x => x.plan.flight | none => 0, round := 0,
    hyper := tget { relative := true, noclip := false, slot := 0, lr := 0, rhomax := 0x3C23D70A, c := 0x3F4CCCCD,
                    eps1 := 0x0DA24260, eps2 := 0x3A83126F, d := 0x3F800000, lam := 0, b1 := 0 } q.hypers l.set,
    frozenRows := 0, clip := false, sat := false, cause := 0, shadow := none, extents := 0, short := 0,
    newStrike := nextStrike l, late := false }

/-- The bodies of round r by shard, when all K are held. -/
def roundBodies (l : Layer) (r : Nat) : Option (List Bytes) :=
  (List.range l.shards).mapM (fun k =>
    (l.bodies.find? (fun b => b.shard == k && b.round == r)).map MintBody.bytes)

/-- The first body of shard k in round r taken away. -/
def dropBody (bs : List MintBody) (k r : Nat) : List MintBody :=
  match bs with
  | [] => []
  | b :: rest => if b.shard = k ∧ b.round = r then rest else b :: dropBody rest k r

/-- A layer whose job has ended, without the bodies that it used: back to Idle with nothing of its shadow (R267). -/
def endJob (l : Layer) (rounds : List Nat) : Layer :=
  { l with state := .idle, job := none,
           bodies := rounds.foldl (fun bs r => (List.range l.shards).foldl (fun bs k => dropBody bs k r) bs) l.bodies }

/-- A body sent to every other shard and kept as the own one (R266, R327). -/
def sendBody (p n : Nat) (round : Nat) (bs : Bytes) (s : State) : State :=
  match layerOf (s.part p) n with
  | none => s
  | some l =>
    let s := setLayer p n { l with bodies := l.bodies ++ [{ shard := l.shard, round := round, bytes := bs }] } s
    (l.peers.zipIdx.filter (fun x => x.2 != l.shard)).foldl (fun s x =>
      (payloads bs).zipIdx.foldl (fun s f =>
        sendReliable { newFrame 0x07 x.1.1 1 s with
          operation := BitVec.ofNat 32 n, offset := BitVec.ofNat 32 (128 * f.2), payload := f.1 } none p s) s) s

/-- A layer's job whose fault poisons the flight set, with a detail of Table 17-4: it ends at the broken landing (R465,
R271). -/
def poisonMint (p n : Nat) (l : Layer) (j : MintJob) (detail : Nat) (s : State) : State :=
  setPoison p detail ((setLayer p n { l with job := some { j with round := 9 } } s).bump kPoison)

/-- Pass A of a job whose tally is satisfied, and round 1 (R264, R267, R268). -/
def runPassA (p n : Nat) (l : Layer) (j : MintJob) (s : State) : State :=
  let allFrozen := (List.range l.n).all (rowFrozen l)
  if allFrozen = false ∧ gradPoisoned l j.bytes s = true then poisonMint p n l j 2 s
  else
    let rows := touchedRows l j.bytes s
    let badList := hasRowList j.bytes && !rowListOk l.n rows
    let a := passA l j.hyper j.bytes (if allFrozen || badList then [] else rows) s
    let cause := if j.short ≠ 0 then 3 else if a.bad then 1 else if badList then 2 else 0
    let recs := a.rn.foldl (fun t x => tset t x.1 { rowRec l.rowRecs x.1 with r := x.2 }) l.rowRecs
    let sh : Shadow := { masters := [], rows := recs, colst := [], momentum := [], step := l.step }
    let s := setLayer p n { l with job := some { j with round := 1, cause := cause, shadow := some sh } } s
    sendBody p n 1 (round1Body n l j.hyper j.flight cause a) s

/-- How a round ends the job, when it does: status, detail, result, auxiliary (R267, Table 9-10). -/
structure RoundEnd where
  status : Nat
  detail : Nat
  result : Nat
  aux : Nat
  deriving DecidableEq, Repr

/-- The first shard whose counter differs from that of shard 0. -/
def firstDiffer (bs : List Bytes) : Nat :=
  bs.findIdx (fun b => u32 b 8 != u32 (bs.headD []) 8)

/-- Whether two bodies of round 1 agree in K, m, N, flags and hyper-parameters. -/
def sameSettings (a b : Bytes) : Bool :=
  byteAt a 3 == byteAt b 3 && u16 a 6 == u16 b 6 && u32 a 16 == u32 b 16 && sub a 28 2 == sub b 28 2 &&
    sub a 32 32 == sub b 32 32

/-- The check of the K bodies of round 1 (R267). -/
def round1End (l : Layer) (j : MintJob) (bs : List Bytes) : Option RoundEnd :=
  let steps := bs.map (fun b => u32 b 8)
  let nf := (bs.map (fun b => u32 b 24)).sum
  if steps.any (· != l.step.toNat) then
    some { status := 0x21, detail := 0, result := halves (steps.foldl min l.step.toNat) l.step.toNat,
           aux := halves (steps.foldl max 0) (firstDiffer bs) }
  else if bs.any (fun b => !sameSettings (bs.headD []) b) then some { status := 0x3F, detail := 1, result := 0, aux := 0 }
  else if (bs.map (fun b => u32 b 20)).sum = 0 then
    some { status := 0x20, detail := 0, result := halves 0 l.step.toNat, aux := halves nf l.current.toNat }
  else if bs.any (fun b => byteAt b 5 == 3) then
    some { status := 0x13, detail := if j.cause = 3 then 1 else 2, result := j.short, aux := 0 }
  else if bs.any (fun b => byteAt b 5 == 1) then some { status := 0x3F, detail := 2, result := 0, aux := 0 }
  else if bs.any (fun b => byteAt b 5 == 2) then some { status := 0x3F, detail := 4, result := 0, aux := 0 }
  else none

/-- Counter of an outcome (Table 9-18). -/
def endCounter (status : Nat) : Nat := if status = 0x20 then kMnt 2 else if status = 0x21 then kMnt 3 else kMnt 4

/-- A job that ends at once after a round. -/
def postRoundEnd (p n : Nat) (l : Layer) (j : MintJob) (rounds : List Nat) (e : RoundEnd) (s : State) : State :=
  finish j.ring j.tag e.status e.detail e.result e.aux
    ((setLayer p n (endJob l rounds) s).bump (endCounter e.status))

/-- Pass B and round 2 (R264). -/
def runPassB (p n : Nat) (l : Layer) (j : MintJob) (bs : List Bytes) (s : State) : State :=
  let c := combine l j.hyper bs
  let live := !(List.range l.n).all (rowFrozen l)
  if live && gradPoisoned l j.bytes s then poisonMint p n l j 2 s
  else
    let recs := match j.shadow with | some sh => sh.rows | none => []
    let r := if live then passB l j.bytes c recs (touchedRows l j.bytes s) s else (zeroNum, false)
    let cause := b2n r.2
    let s := setLayer p n { l with job := some { j with round := 2, frozenRows := c.nf } } s
    sendBody p n 2 (round2Body n l j.flight cause r.1) s

/-- A job moved on by the bodies that it holds; `fuel` bounds the rounds. -/
def mintAdvance (p n : Nat) : Nat → State → State
  | 0, s => s
  | fuel + 1, s =>
    match layerOf (s.part p) n with
    | none => s
    | some l =>
      match l.job with
      | none => s
      | some j =>
        if l.state ≠ .running then s
        else if j.round = 1 then
          match roundBodies l 1 with
          | none => s
          | some bs =>
            match round1End l j bs with
            | some e => postRoundEnd p n l j [1] e s
            | none => mintAdvance p n fuel (runPassB p n l j bs s)
        else if j.round = 2 then
          match roundBodies l 2 with
          | none => s
          | some bs =>
            if bs.any (fun b => byteAt b 5 == 1) then
              postRoundEnd p n l j [1, 2] { status := 0x3F, detail := 2, result := 0, aux := 0 } s
            else setLayer p n { l with job := some { j with round := 3 } } s
        else s

/-- Whether the wait tally of an UPDATE is satisfied (Table 9-9). -/
def updateTallyMet (b : Bytes) (s : State) : Bool :=
  u16 b 40 == 0xFFFF || tallyMet (u16 b 40) (BitVec.ofNat 32 (u32 b 44)) s

/-- A job that waits for its tally begins once that is satisfied. -/
def mintStart (p n : Nat) (s : State) : State :=
  match layerOf (s.part p) n with
  | none => s
  | some l =>
    match l.job with
    | none => s
    | some j =>
      if l.state = .running ∧ j.round = 0 ∧ updateTallyMet j.bytes s = true then
        mintAdvance p n 3 (runPassA p n l j s)
      else s

/-- Every UPDATE that waits for its tally begins once that is satisfied. -/
def mintRun (s : State) : State :=
  s.parts.foldl (fun s e => (tkeys e.2.layers).foldl (fun s n => mintStart e.1 n s) s) s

/-- What waits for a tally goes on: CLEARs, then UPDATEs (R285, R332). -/
def tallyWakes (s : State) : State := mintRun (clearsRun s)

/-- An UPDATE or STRIKE checked against its layer (step 8 of R91, R259, R269, R293). -/
def jobReject (q : Partition) (n : Nat) (l : Layer) (isStrike : Bool) : Option Reject :=
  if l.state ≠ .idle then some (badState l.state.code)
  else if isStrike = false ∧ l.step = 0xFFFFFFFF then some (badState 0x01)
  else (slotClash q n l).map badState

/-- UPDATE taken from its ring. -/
def updateTake (rn : Nat) (s : State) : State :=
  withMint 0x42 rn s (fun f p s =>
    let n := mintLayer f.bytes
    let q := s.part p
    match layerOf q n with
    | none => rejectHead rn f (badState 0) s
    | some l =>
      match (updateFields q l f.bytes).or (jobReject q n l false) with
      | some r => rejectHead rn f r s
      | none =>
        let rows := (touchedRows l f.bytes s).filter (· < l.n)
        let x := shadowExtents l rows
        let short := x - poolFree q
        let j := newJob rn f q l false
        let j := { j with extents := if short = 0 then x else 0, short := short }
        mintStart p n (setLayer p n { l with state := .running, job := some j } (popHead rn s)))

/-- An UPDATE descriptor, or an UPDATE that its tally now lets begin. -/
def execUpdate (ring : RingNo) (s : State) : Result := whenUp s (fun s => mintRun (updateTake ring s))

/-- STRIKE taken from its ring (R279): short of room for its shadow statistics it completes with NO_ROOM (Table 9-10). -/
def strikeTake (rn : Nat) (s : State) : State :=
  withMint 0x43 rn s (fun f p s =>
    let n := mintLayer f.bytes
    let q := s.part p
    match layerOf q n with
    | none => rejectHead rn f (badState 0) s
    | some l =>
      match jobReject q n l true with
      | some r => rejectHead rn f r s
      | none =>
        let x := (regionExtents l).2.1
        if poolFree q < x then
          finish rn f.tag 0x13 1 (x - poolFree q) 0 ((popHead rn s).bump (kMnt 4))
        else
          let j := newJob rn f q l true
          let frozen := ((List.range l.n).filter (rowFrozen l)).length
          let j := { j with round := 3, extents := x, frozenRows := frozen }
          setLayer p n { l with state := .running, job := some j } (popHead rn s))

/-- A STRIKE descriptor. -/
def execStrike (ring : RingNo) (s : State) : Result := whenUp s (strikeTake ring)

/-! ## Exchanges received (R266, R327) -/

/-- Bytes of an exchange body, from its head. -/
def bodyBytes (b : Bytes) : Nat := if byteAt b 4 = 1 then 72 + 4 * u16 b 6 else 20

/-- Whether partition p awaits a body from `src`: its layer has that shard there, and lacks the body of the shard and round. A
frame to the own address tells its partition too. -/
def awaitsBody (src : Half) (sender : Option Nat) (b : Bytes) (q : Partition) : Bool :=
  match layerOf q (u16 b 0) with
  | none => false
  | some l =>
    let peer := l.peers.getD (byteAt b 2) (0, 8)
    byteAt b 2 != l.shard && peer.1 == src && sender.getD peer.2 == peer.2 &&
      !l.bodies.any (fun x => x.shard == byteAt b 2 && x.round == byteAt b 4)

/-- A whole body delivered from `src`: to the lowest partition that awaits it in the flight that it names, since a frame does not
carry its partition (assumption log 14). One that names no current flight is stale (R266). -/
def bodyIn (src : Half) (sender : Option Nat) (b : Bytes) (s : State) : State :=
  let n := u16 b 0
  let l := s.parts.filter (fun e => awaitsBody src sender b e.2)
  match l.find? (fun e => e.2.flight.map (fun f => f.plan.flight.toNat) == some (u32 b 12)) with
  | some e =>
    match layerOf e.2 n with
    | none => s
    | some l =>
      mintAdvance e.1 n 3
        (setLayer e.1 n { l with bodies := l.bodies ++ [{ shard := byteAt b 2, round := byteAt b 4, bytes := b }] } s)
  | none => if l.isEmpty then s else s.bump (kMnt 7)

/-- A frame of an exchange body: the parts are put together in order, and a whole body is delivered. -/
def exchangeLands (f : Frame) (s : State) : State :=
  let sender := sentBy f s
  let key := BitVec.ofNat 32 (f.operation.toNat % 65536 + 65536 * sender.getD deviceOwner)
  let mine := fun (x : Half × Word × Bytes) => x.1 == f.src && x.2.1 == key
  let have_ := match s.fab.partial_.find? mine with | some x => x.2.2 | none => []
  let b := have_ ++ f.payload
  let s := modFab s (fun g => { g with partial_ := g.partial_.filter (fun x => !mine x) })
  if bodyBytes b ≤ b.length then bodyIn f.src sender (b.take (bodyBytes b)) s
  else modFab s (fun g => { g with partial_ := g.partial_ ++ [(f.src, key, b)] })

/-- MINT_EXCHANGE_RECEIVED. -/
def execMintExchangeReceived (link : LinkNo) (frame : Frame) (s : State) : Result :=
  whenUpWf (Instr.wellFormed (.mintExchangeReceived link frame)) "MINT_EXCHANGE_RECEIVED" s
    (fun s => receiveReliable link frame s (exchangeLands frame))

/-! ## Staged (R270, R276 to R279) -/

/-- The shadow of a STRIKE: xs of every row from its masters. -/
def strikeShadow (l : Layer) : Shadow :=
  { masters := l.masters, colst := l.colst, momentum := l.mom, step := l.step,
    rows := (List.range l.n).foldl (fun t i =>
      let vals := (List.range l.cols).map (fun j => ofBf16 (masterCode l i j))
      tset t i { rowRec t i with xs := toF32 (exactSum (vals.map (fun v => v.mul v))) }) l.rowRecs }

/-- What pass C, or the striking of a STRIKE, leaves: the shadow, CLIP and SAT. -/
def jobShadow (p n : Nat) (l : Layer) (j : MintJob) (s : State) : Shadow × Bool × Bool :=
  if j.isStrike then (strikeShadow l, false, false)
  else
    match roundBodies l 1, roundBodies l 2 with
    | some b1, some b2 =>
      let c := combine l j.hyper b1
      let clip := clipOf l j.hyper c b2
      let rn := match j.shadow with | some sh => sh.rows | none => []
      let r := passC (s.part p) n l j.hyper j.bytes c clip rn (touchedRows l j.bytes s) s
      (r.1, one32.lt clip, r.2)
    | _, _ => (strikeShadow l, false, false)

/-- The rows that are struck from masters. -/
def struckRows (l : Layer) (j : MintJob) (s : State) : Nat → Bool :=
  let rows := touchedRows l j.bytes s
  fun i => j.isStrike || (rows.contains i && !rowFrozen l i)

/-- Pass C and the striking end: the shadow stands, the strike is written into the slot that does not hold the current
one, a strike that waited there is discarded, and DEFERRED posts. -/
def stagedEffect (p n : Nat) (s : State) : State :=
  match layerOf (s.part p) n with
  | none => s
  | some l =>
    match l.job with
    | none => s
    | some j =>
      if l.state ≠ .running ∨ j.round ≠ 3 then s
      else
        let fresh := struckRows l j s
        if copyPoisoned l fresh s || (!j.isStrike && !(List.range l.n).all (rowFrozen l) && gradPoisoned l j.bytes s) then
          poisonMint p n l j 2 s
        else
          let r := jobShadow p n l j s
          let new := { l with masters := r.1.masters }
          let s := (strikeWrites new j.newStrike fresh s).foldl (fun s w => hbmWrite w.1 w.2 s) s
          let s := if l.pending = 0 then s else postEvent p 0x9002 0 n l.pending.toNat s
          let j := { j with round := 4, shadow := some r.1, clip := r.2.1, sat := r.2.2 }
          let s := setLayer p n { l with state := .staged, pending := 0, job := some j } s
          interim j.ring j.tag 0 (halves j.newStrike.toNat r.1.step.toNat) (halves j.frozenRows l.current.toNat) s

/-- A fault in the mint's work on a running layer: a vault line is marked before it is read, and the flight set is poisoned as
by a fault in a pass (R271, R463, R465). A line outside the partition's share is none that the work reads. -/
def mintFaultEffect (p n : Nat) (fault : MintFault) (s : State) : State :=
  match layerOf (s.part p) n with
  | none => s
  | some l =>
    match l.job with
    | none => s
    | some j =>
      if l.state ≠ .running then s
      else
        match fault with
        | .engine => poisonMint p n l j 1 s
        | .vaultLine a => if vaultAllowed (s.part p) a 1 then poisonMint p n l j 2 (vaultLineFails a s) else s

/-- UPDATE_STAGED: an UPDATE or STRIKE of layer `layer` finishes pass C and its striking, or meets a fault. -/
def execUpdateStaged (part : PartNo) (layer : Nat) (s : State) (fault : Option MintFault := none) : Result :=
  whenUp s (fun s =>
    let s := mintStart part layer s
    match fault with
    | some e => mintFaultEffect part layer e s
    | none => stagedEffect part layer s)

/-! ## LAYER_IO (R280) -/

/-- Bytes of a part of a layer. -/
def partBytes (l : Layer) (part : Nat) : Nat :=
  match part with
  | 0 => masterBytes l
  | 1 => 16 * l.n
  | 2 => 4 * l.cols
  | 3 => momentumBytes l
  | 4 => (l.n + 7) / 8
  | _ => 64

/-- The bytes of the frozen mask. -/
def maskBytes (l : Layer) : Bytes := toLE (maskOf l.mask) ((l.n + 7) / 8)

/-- A part of a layer as bytes. -/
def partOut (l : Layer) (part : Nat) : Bytes :=
  match part with
  | 0 => (List.range (masterBytes l)).map (masterByte l)
  | 1 => ((List.range l.n).map (fun i =>
      let r := rowRec l.rowRecs i
      toLE r.r.toNat 4 ++ toLE r.last.toNat 4 ++ toLE r.xs.toNat 4 ++ toLE 0 4)).flatten
  | 2 => ((List.range l.cols).map (fun j => toLE (tget 0 l.colst j).toNat 4)).flatten
  | 3 => l.mom.read 0 (momentumBytes l)
  | 4 => maskBytes l
  | _ => layerRecord l

/-- A layer with a part written. -/
def partIn (l : Layer) (part : Nat) (bs : Bytes) : Layer :=
  match part with
  | 0 => { l with masters := bs.zipIdx.foldl (fun t (b, i) => tset t i b) l.masters }
  | 1 => { l with rowRecs := (List.range l.n).foldl (fun t i =>
      tset t i { r := BitVec.ofNat 32 (u32 bs (16 * i)), last := BitVec.ofNat 32 (u32 bs (16 * i + 4)),
                 xs := BitVec.ofNat 32 (u32 bs (16 * i + 8)) }) l.rowRecs }
  | 2 => { l with colst := (List.range l.cols).foldl (fun t j => tset t j (BitVec.ofNat 32 (u32 bs (4 * j)))) l.colst }
  | 3 => { l with mom := l.mom.write 0 bs }
  | _ => { l with step := BitVec.ofNat 32 (u32 bs 0) }

/-- LAYER_IO taken: its copy runs until LAYER_IO_COPY_END. -/
def layerIoEffect (rn : Nat) (s : State) : State :=
  withMint 0x44 rn s (fun f p s =>
    let b := f.bytes
    let q := s.part p
    match layerOf q (mintLayer b) with
    | none => rejectHead rn f (badState 0) s
    | some l =>
      let n := partBytes l (byteAt b 18)
      let ok := if byteAt b 20 = 0 then hbmAllowed q (u64 b 24) n else hostAllowed q (u64 b 24) n
      if ok = false then rejectHead rn f (notOwner 24) s
      else if l.state ≠ .idle then rejectHead rn f (badState l.state.code) s
      else
        let w := newWork s rn f p 512 n []
        { popHead rn s with work := s.work ++ [{ w with started := true }], nextId := s.nextId + 1 })

/-- A LAYER_IO descriptor. -/
def execLayerIo (ring : RingNo) (s : State) : Result := whenUp s (layerIoEffect ring)

/-- The copy of a LAYER_IO ends. A poisoned line of its source ends it as a COPY's does, with the layer unchanged
(R465 names no outcome for it; assumption log 17). -/
def layerIoMoves (w : Work) (hostData : Bytes) (s : State) : State :=
  let b := w.bytes
  let n := mintLayer b
  match layerOf (s.part w.part) n with
  | none => s
  | some l =>
    let len := partBytes l (byteAt b 18)
    let s := s.dropWork w.id
    if bit (byteAt b 19) 0 then
      if byteAt b 20 = 0 ∧ hbmPoisoned (u64 b 24) len s = true then finish w.ring w.tag 0x30 2 0 0 (s.bump kPoison)
      else
        let bs := if byteAt b 20 = 0 then hbmRead (u64 b 24) len s else hostData
        finish w.ring w.tag 0x00 0 len 0 (setLayer w.part n (partIn l (byteAt b 18) bs) s)
    else
      let bs := partOut l (byteAt b 18)
      let s := if byteAt b 20 = 0 then hbmWrite (u64 b 24) bs s else toHost (u64 b 24) bs false s
      finish w.ring w.tag 0x00 0 len 0 s

/-- LAYER_IO_COPY_END on a ring; data from host memory come with the command, and wait while no module is up (R400). -/
def layerIoEndEffect (rn : Nat) (hostData : Bytes) (s : State) : State :=
  match s.work.find? (fun w => w.opcode == 0x44 && w.ring == rn) with
  | none => s
  | some w =>
    let host := bit (byteAt w.bytes 19) 0 && byteAt w.bytes 20 == 2
    if host && (hostData.length != w.left || s.host.halves.isEmpty) then s else layerIoMoves w hostData s

/-- LAYER_IO_COPY_END. -/
def execLayerIoCopyEnd (ring : RingNo) (hostData : Bytes) (s : State) : Result :=
  whenUp s (layerIoEndEffect ring hostData)

/-! ## At landings (R271, R278, R294) -/

/-- A completion that a landing posts at its step 10; `interim` is the completion DEFERRED (R60). -/
structure Done where
  ring : Nat
  tag : Word
  status : Nat
  detail : Nat
  result : Nat
  aux : Nat
  interim : Bool := false
  deriving DecidableEq, Repr

/-- A staged layer commits: its shadow replaces its regions, and its strike is pending (step 2 of Table 2-9). -/
def commitLayer (p n : Nat) (s : State) : State :=
  match layerOf (s.part p) n with
  | none => s
  | some l =>
    match l.job with
    | none => s
    | some j =>
      match l.state, j.shadow with
      | .staged, some sh =>
        let rows := if j.isStrike then l.n else gradRows l j.bytes
        let params := s.mintParams + (if j.isStrike then 0 else rows * l.cols)
        let s := setLayer p n
          { l with masters := sh.masters, rowRecs := sh.rows, colst := sh.colst, mom := sh.momentum, step := sh.step,
                   pending := j.newStrike, taken := j.newStrike } s
        let s := ({ s with mintParams := params % 65536 }.bump (kMnt 0) (params / 65536)).bump (kMnt 1)
        if l.lazy && !j.isStrike then s.bump (kMnt 6) (l.n - rows) else s
      | _, _ => s

/-- Whether a read or held lease names the current strike of a layer. -/
def leased (p n : Nat) (strike : Word) (s : State) : Bool :=
  heldLease (s.part p) n strike ||
    ((s.programs.map Program.leases).flatten ++ (s.work.map Work.leases).flatten).any (fun x =>
      x.part == p && x.layer == n && x.strike == strike)

/-- The strike swap of a layer at step 3 of Table 2-9, and the completion of the job that committed at this landing. -/
def swapLayer (p n : Nat) (s : State) : State × List Done :=
  match layerOf (s.part p) n with
  | none => (s, [])
  | some l =>
    let own := l.state == .staged
    let finalOf (j : MintJob) (status detail kept : Nat) : Done :=
      { ring := j.ring, tag := j.tag, status := status, detail := detail,
        result := halves j.newStrike.toNat l.step.toNat, aux := halves j.frozenRows kept }
    let ended := if own then endJob l (match l.job with | some j => if j.isStrike then [] else [1, 2] | none => []) else l
    if l.pending = 0 then (s, [])
    else if l.current ≠ 0 ∧ leased p n l.current s = true then
      let s := (setLayer p n ended s).bump (kMnt 5)
      (s, match l.job with | some j => if own then [finalOf j 0x22 0 l.current.toNat] else [] | none => [])
    else
      let s := setLayer p n { ended with current := l.pending, pending := 0 } s
      let s := if own then s else postEvent p 0x9001 0 n l.pending.toNat s
      (s, match l.job with
        | some j => if own then [finalOf j 0x00 (b2n j.clip + 2 * b2n j.sat) j.newStrike.toNat] else []
        | none => [])

/-- An EVICT at a landing, after its layer's swap: status, detail and result (R294). -/
def evictLayer (p n : Nat) (s : State) : State × Nat × Nat × Nat :=
  match layerOf (s.part p) n with
  | none => (s, 0x11, 0, 0)
  | some l =>
    if pendingStrike l ≠ 0 ∨ (l.current ≠ 0 ∧ leased p n l.current s = true) then (s, 0x22, 0, 0)
    else (setLayer p n { l with current := 0 } s, 0x00, 0, l.current.toNat)

/-- Exchange bodies that layer n of a partition keeps while no job of it runs, discarded and counted, because the flight that
they name is over (R266). -/
def dropStale (p n : Nat) (s : State) : State :=
  match layerOf (s.part p) n with
  | none => s
  | some l =>
    if l.job.isSome then s else (setLayer p n { l with bodies := [] } s).bump (kMnt 7) l.bodies.length

/-- The same for every layer of the partition. -/
def staleBodies (p : Nat) (s : State) : State := (tkeys (s.part p).layers).foldl (fun s n => dropStale p n s) s

/-- Every UPDATE and STRIKE of a partition that is Running or Staged is discarded at a broken landing (R271). -/
def discardMint (p : Nat) (s : State) : State × List Done :=
  (tkeys (s.part p).layers).foldl (fun a n =>
    match layerOf (a.1.part p) n with
    | none => a
    | some l =>
      match l.job with
      | none => a
      | some j =>
        let s := setLayer p n { l with state := .idle, job := none, bodies := [] } a.1
        (s.bump (kMnt 4), a.2 ++ [{ ring := j.ring, tag := j.tag, status := 0x3F, detail := 3, result := 0, aux := 0 }])) (s, [])

end Sys2Proof.Machine
end

