-- ==== Sys2Proof/Machine/Operands.lean ====
section
/-!
DEFINITION. The operands of a descriptor: its header and body fields, and step 6 of R91, the first field in ascending byte
offset that is illegal in itself or names what the owner does not hold. Each table is cited where its fields are checked.
-/
namespace Sys2Proof.Machine

/-! ## Checks of one field -/

/-- A field that is illegal in itself unless `ok`: BAD_VALUE with its offset (R91). -/
def need (ok : Bool) (off : Nat) : Option Reject := if ok then none else some (badValue off)

/-- A field that names another owner's object unless `ok`: NOT_OWNER with its offset (R91). -/
def owned (ok : Bool) (off : Nat) : Option Reject := if ok then none else some (notOwner off)

/-- A reserved field in bytes [lo, hi): not zero, it is illegal at its first byte (R9, R91; assumption log 98). -/
def rsv (b : Bytes) (lo hi : Nat) : Option Reject := need ((upFrom lo (hi - lo)).all (fun i => byteAt b i == 0)) lo

/-- The first check that fails. -/
def firstOf : List (Option Reject) → Option Reject
  | [] => none
  | some r :: _ => some r
  | none :: l => firstOf l

/-- Alignment of an address field, then its range's owner. -/
def addrField (b : Bytes) (off align : Nat) (allowed : Nat → Bool) : Option Reject :=
  (need (u64 b off % align == 0) off).or (owned (allowed (u64 b off)) off)

/-- Whether n bytes of HBM from a may be named by an owner. -/
def hbmNamed (o a n : Nat) (s : State) : Bool :=
  if o < 8 then hbmAllowed (s.part o) a n else a + n ≤ 2 ^ 40

/-- Whether n bytes of host memory from a may be named by an owner: its window, or for the device domain any (R369). -/
def hostNamed (o a n : Nat) (s : State) : Bool := if o < 8 then hostAllowed (s.part o) a n else a + n ≤ 2 ^ 64

/-- Whether n bytes from a touch the HDM range (R405). -/
def touchesHdm (a n : Nat) (s : State) : Bool :=
  match s.host.hdm with
  | some base => overlaps base (hbmUsable s) a n
  | none => false

/-- A hall field: a device hall in the owner's wings, or 0xFFFF for placement where `place`. -/
def hallField (o : Nat) (b : Bytes) (off : Nat) (place : Bool) (s : State) : Option Reject :=
  let h := u16 b off
  if h = 0xFFFF then need place off
  else (need (h < 256) off).or (owned (if o < 8 then ownsHall (s.part o) h else true) off)

/-- Whether a tally number lies in an owner's share; a device-domain ring may name any (R103). -/
def tallyNamed (o t : Nat) (s : State) : Bool :=
  if o < 8 then inShare (s.part o).record.tallyFirst (s.part o).record.tallyCount t else true

/-- A tally field of which 0xFFFF is none. -/
def tallyField (o : Nat) (b : Bytes) (off : Nat) (s : State) : Option Reject :=
  let t := u16 b off
  if t = 0xFFFF then none else (need (t < 8192) off).or (owned (tallyNamed o t s) off)

/-- The tally tail of a body (Table 10-2). -/
def tailFields (o : Nat) (b : Bytes) (s : State) : List (Option Reject) :=
  [tallyField o b 52 s, tallyField o b 54 s, rsv b 60 64]

/-! ## Classes 0x0 and 0x6 (Tables 3-6, 3-10, 3-16) -/

/-- One tally record at offset `at_` (R104, R105). DESIGN CHOICE: the tally field of a NOP, and of a REMOTE record, whose tally
is another device's, is not held to the owner's share, and an address or a limit that the record's operation does not read is
ignored (assumption log 104). -/
def tallyRecordFields (o : Nat) (b : Bytes) (at_ : Nat) (s : State) : List (Option Reject) :=
  let op := byteAt b (at_ + 2)
  let fl := byteAt b (at_ + 3)
  let remote := bit fl 0
  [need (u16 b at_ < 8192) at_,
   owned (op == 0 || remote || tallyNamed o (u16 b at_) s) at_,
   need (op < 4) (at_ + 2),
   need (fl < 4 && (!remote || op == 2) && (!bit fl 1 || op == 1)) (at_ + 3),
   rsv b (at_ + 6) (at_ + 8),
   need (op != 2 || (1 ≤ u32 b (at_ + 8) && u32 b (at_ + 8) < 2 ^ 31)) (at_ + 8)]

/-- The ring that a ring command names: not a boot ring, not the carrier nor its CPL ring, and in the owner's share
(R71, R82, R83). -/
def ringField (rn o : Nat) (b : Bytes) (s : State) : Option Reject :=
  let n := u16 b 16
  (need (3 ≤ n && n < 8192 && n != rn && n != (s.ring rn).cpl) 16).or (owned (o == deviceOwner || ringHolder n s == o) 16)

/-- The cpl ring field of RING_ENABLE for a submission ring: its owner, then its class unless it is Disabled (R85). -/
def cplField (n : Nat) (b : Bytes) (s : State) : Option Reject :=
  let c := u16 b 22
  if bits (byteAt b 18) 0 4 ≤ 5 then
    (need (c < 8192) 22).or
      ((owned (ringHolder c s == ringHolder n s) 22).or (need ((s.ring c).cls == 7 || !(s.ring c).live?) 22))
  else none

/-- The vector field of RING_ENABLE for a CPL or EVENT ring (R108). -/
def vectorField (n : Nat) (b : Bytes) (s : State) : Option Reject :=
  let o := ringHolder n s
  let v := u16 b 40
  if bits (byteAt b 18) 0 4 ≤ 5 then none
  else (need (v < 2048) 40).or (owned (o == deviceOwner || vectorHolder v s == o) 40)

/-- An address of a ring: aligned and in the owner's host window (R369). -/
def ringAddress (n : Nat) (b : Bytes) (off align len : Nat) (s : State) : Option Reject :=
  addrField b off align (fun a => hostNamed (ringHolder n s) a len s)

/-- Bytes of a ring's entries. -/
def ringBytes (cls k : Nat) : Nat := 2 ^ k * (if cls ≤ 5 then 64 else 32)

/-- Fields of RING_ENABLE (Table 3-6). -/
def ringEnableFields (rn o : Nat) (b : Bytes) (s : State) : List (Option Reject) :=
  let n := u16 b 16
  let cls := byteAt b 18
  [ringField rn o b s, need (cls < 8) 18, need (byteAt b 19 < 8 || byteAt b 19 == 0xFF) 19,
   owned (byteAt b 19 == ringHolder n s) 19, need (6 ≤ byteAt b 20 && byteAt b 20 ≤ 16) 20, rsv b 21 22,
   cplField n b s, ringAddress n b 24 4096 (ringBytes cls (byteAt b 20)) s, ringAddress n b 32 64 64 s,
   vectorField n b s, rsv b 44 64]

/-- The HDM tests of RING_ENABLE, made when it executes (R405). -/
def ringEnableHdm (b : Bytes) (s : State) : Option Reject :=
  (need (!touchesHdm (u64 b 24) (ringBytes (byteAt b 18) (byteAt b 20)) s) 24).or (need (!touchesHdm (u64 b 32) 64 s) 32)

/-! ## Work (Tables 5-7, 8-14, 8-15, 11-8, 9-6 to 9-13) -/

/-- Fields of PROGRAM and, with `cond`, of PROGRAM_IF (Tables 5-7 and 8-12). -/
def programFields (o : Nat) (b : Bytes) (cond : Bool) (s : State) : List (Option Reject) :=
  [addrField b 16 64 (fun a => hbmNamed o a (32 * u16 b 24) s), need (1 ≤ u16 b 24 && u16 b 24 ≤ 4096) 24,
   need (u16 b 26 != 0) 26, hallField o b 28 true s] ++
  (if cond then [need (u16 b 30 ≤ 65534) 30, need (byteAt b 32 < 2) 32, rsv b 33 64] else [rsv b 30 64])

/-- One end of a COPY (Table 8-14, R251). -/
def copyEnd (o space off len : Nat) (b : Bytes) (s : State) : Option Reject :=
  let a := u64 b off
  match space with
  | 0 => owned (if o < 8 then viewAllowed o a len s else hbmNamed o a len s) off
  | 1 => owned (if o < 8 then vaultAllowed (s.part o) a len else a + len ≤ 2 ^ 42) off
  | 2 => owned (hostNamed o a len s) off
  | _ => need (a + len ≤ 262144) off

/-- Fields of COPY. -/
def copyFields (o : Nat) (b : Bytes) (s : State) : List (Option Reject) :=
  let src := byteAt b 16
  let dst := byteAt b 17
  let pad := src == 3 || dst == 3
  let len := u64 b 40
  [need (src ≤ 3 && !(src == 2 && dst == 2)) 16, need (dst ≤ 3) 17, hallField o b 18 (!pad) s,
   need (if pad then byteAt b 20 < 16 else byteAt b 20 == 0) 20, rsv b 21 24,
   need (!(src == dst && overlaps (u64 b 24) len (u64 b 32) len)) 24, copyEnd o src 24 len b s, copyEnd o dst 32 len b s,
   need (len % 64 == 0 && 64 ≤ len && len ≤ 2 ^ 40) 40, rsv b 48 64]

/-- Fields of STRIKE_COPY (Table 8-15, R523). -/
def strikeCopyFields (o : Nat) (b : Bytes) (s : State) : List (Option Reject) :=
  [need (u16 b 16 ≤ 65534) 16, hallField o b 18 false s, need (byteAt b 20 < 16) 20, rsv b 21 24,
   need (u64 b 24 % 32 == 0) 24, need (u32 b 32 % 32 == 0) 32,
   need (u32 b 36 % 32 == 0 && 32 ≤ u32 b 36 && u32 b 32 + u32 b 36 ≤ 262144) 36, rsv b 40 64]

/-- The formats of a CLEAR's in format byte (Table 11-8). -/
def clearFormat (f : Nat) : Bool := [0, 1, 2, 3, 7].contains f

/-- Bytes that a collective's source and destination take (Table 11-8, R336). -/
def clearRanges (b : Bytes) (K : Nat) : Nat × Nat :=
  let n := clrN b
  match byteAt b 0 with
  | 0x30 => (wholeBytes (clrIn b) n K, shardBytes (clrOut b) n)
  | 0x31 => (shardBytes (clrIn b) n, wholeBytes (clrIn b) n K)
  | 0x32 => (wholeBytes (clrIn b) n K, wholeBytes (clrOut b) n K)
  | 0x33 => (wholeBytes (clrIn b) n K, wholeBytes (clrIn b) n K)
  | _ => (1024, 64 * n)

/-- Fields of a collective. -/
def collectiveFields (o : Nat) (b : Bytes) (s : State) : List (Option Reject) :=
  let q := s.part o
  let op := byteAt b 0
  let K := (q.groups.getD (clrGroup b) Group.none).members.length
  let r := clearRanges b K
  let same := op == 0x31 || op == 0x33 || op == 0x34
  [need (clrGroup b < q.groups.length) 16, need (clearFormat (byteAt b 17)) 17,
   need (fbLegal (byteAt b 18) && (!same || byteAt b 18 == byteAt b 17)) 18,
   need (if op == 0x33 then byteAt b 19 < K else byteAt b 19 == 0) 19, need (byteAt b 20 < 16) 20, rsv b 21 24,
   addrField b 24 64 (fun a => hbmAllowed q a r.1), addrField b 32 64 (fun a => hbmAllowed q a r.2),
   need (op == 0x34 || !(fmtMx (clrIn b) || fmtMx (clrOut b)) || clrN b % 32 == 0) 40, hallField o b 48 true s,
   rsv b 50 52] ++ tailFields o b s

/-- The queue that a queue descriptor names, of the direction it needs (R335). -/
def queueField (q : Partition) (b : Bytes) (receive : Bool) : Option Reject :=
  need (match q.queues[byteAt b 16]? with | some x => x.receive == receive | none => false) 16

/-- Fields of QUEUE_PUSH (R335). -/
def pushFields (o : Nat) (b : Bytes) (s : State) : List (Option Reject) :=
  let q := s.part o
  let entry := match q.queues[byteAt b 16]? with | some x => x.entryBytes | none => 0
  let n := u32 b 32
  [queueField q b false, rsv b 17 24, owned (hbmAllowed q (u64 b 24) n) 24,
   need (n % 64 == 0 && 1 ≤ n && n ≤ entry) 32, rsv b 36 48, hallField o b 48 true s, rsv b 50 52] ++ tailFields o b s

/-- Fields of QUEUE_POP (R335). -/
def popFields (o : Nat) (b : Bytes) (s : State) : List (Option Reject) :=
  let q := s.part o
  let entry := match q.queues[byteAt b 16]? with | some x => x.entryBytes | none => 0
  [queueField q b true, rsv b 17 24, owned (hbmAllowed q (u64 b 24) entry) 24, rsv b 32 48, hallField o b 48 true s,
   rsv b 50 52] ++ tailFields o b s

/-- The layer field of a MINT body. -/
def layerField (b : Bytes) (off : Nat) : Option Reject := need (u16 b off ≤ 65534) off

/-- Fields of LAYER_DEF up to its addresses (Table 9-6, R261); what the addresses name is checked when it is taken. -/
def layerDefFields (b : Bytes) : List (Option Reject) :=
  let fl := byteAt b 18
  let cols := u16 b 32
  [layerField b 16, need (fl < 16 && !(bit fl 0 && bit fl 1) && !(bit fl 2 && bit fl 3)) 18,
   need ([2, 3, 6].contains (byteAt b 19)) 19, need (1 ≤ u32 b 20 && u32 b 20 ≤ 16777216) 20,
   need (u32 b 24 + u32 b 28 ≤ u32 b 20) 24, need (1 ≤ u32 b 28) 28,
   need (32 ≤ cols && cols ≤ 65504 && cols % (if bit fl 2 then 128 else 32) == 0) 32, need (byteAt b 34 < 16) 34,
   need (1 ≤ byteAt b 35 && byteAt b 35 ≤ 64) 35, need (byteAt b 36 < byteAt b 35) 36, rsv b 37 40,
   need (u64 b 48 % 64 == 0) 48, need (u64 b 56 % 64 == 0) 56]

/-- Fields of UPDATE that do not rest on its layer (Table 9-9). -/
def updateOwnFields (o : Nat) (b : Bytes) (s : State) : List (Option Reject) :=
  [layerField b 16, need ([0, 1, 2, 3].contains (byteAt b 18)) 18, need (byteAt b 19 < 2) 19,
   (if bit (byteAt b 19) 0 then none else rsv b 20 24), need (u64 b 24 % 64 == 0) 24, tallyField o b 40 s, rsv b 42 44,
   rsv b 48 64]

/-- Fields of LAYER_IO (Table 9-13). -/
def layerIoFields (b : Bytes) : List (Option Reject) :=
  [layerField b 16, need (byteAt b 18 ≤ 5) 18, need (byteAt b 19 < 2 && !(byteAt b 19 == 1 && byteAt b 18 == 4)) 19,
   need (byteAt b 20 == 0 || byteAt b 20 == 2) 20, rsv b 21 24, need (u64 b 24 % 64 == 0) 24, rsv b 32 64]

/-! ## Ushers and sequences (10_sparsity_and_sequences.md) -/

/-- The gallery field of an usher body: a gallery that holds some of the partition's wings (R285). -/
def galleryField (o : Nat) (b : Bytes) (s : State) : Option Reject :=
  let g := byteAt b 16
  (need (g ≤ 1) 16).or (owned ((wingsOf (s.part o)).any (fun w => w / 8 == g)) 16)

/-- Fields of ROUTE (Table 10-3, R286). -/
def routeFields (o : Nat) (b : Bytes) (s : State) : List (Option Reject) :=
  let gate := byteAt b 17
  let within (v hi : Nat) : Bool := 1 ≤ v && v ≤ hi
  [galleryField o b s, need (bits gate 0 2 != 3 && !bit gate 7 && !(bit gate 2 && bits gate 0 2 == 1)) 17,
   need (within (byteAt b 18) 8 && byteAt b 18 ≤ u16 b 24) 18, rsv b 19 20, need (within (u32 b 20) 65536) 20,
   need (within (u16 b 24) 8192) 24, rsv b 26 28, need (within (u32 b 28) 65536) 28,
   addrField b 32 64 (fun a => hbmNamed o a (u32 b 20 * up64 (4 * u16 b 24)) s),
   addrField b 40 64 (fun a => hbmNamed o a ((routeMap (u16 b 24)).entries + 16 * byteAt b 18 * u32 b 20) s),
   rsv b 48 52] ++ tailFields o b s

/-- A width of 32 to 65,504 in steps of 32. -/
def widthOk (w : Nat) : Bool := 32 ≤ w && w ≤ 65504 && w % 32 == 0

/-- Fields of DISPATCH (Table 10-8). The ranges whose size the route record decides are checked whole when the usher runs;
here what it touches in every case, the header and the plan (R285, assumption log 107). -/
def dispatchFields (o : Nat) (b : Bytes) (s : State) : List (Option Reject) :=
  [galleryField o b s, need ([0, 1, 2, 3, 7, 8].contains (byteAt b 17)) 17,
   need (1 ≤ byteAt b 18 && byteAt b 18 ≤ 64) 18, need (byteAt b 19 < 2) 19, need (widthOk (u32 b 20)) 20,
   owned (hbmNamed o (u64 b 24) 0 s) 24, owned (hbmNamed o (u64 b 32) 64 s) 32,
   addrField b 40 64 (fun a => hbmNamed o a 1024 s), rsv b 48 52] ++ tailFields o b s

/-- A written format byte of the listed formats with ROUND rne. -/
def rneFormat (fs : List Nat) (v : Nat) : Bool := fbLegal v && !fbSr v && fs.contains (fbFormat v)

/-- Fields of COMBINE (Table 10-8). -/
def combineFields (o : Nat) (b : Bytes) (s : State) : List (Option Reject) :=
  [galleryField o b s, need (rneFormat [0, 1] (byteAt b 17)) 17, need ([0, 1, 2, 3].contains (byteAt b 18)) 18,
   need (byteAt b 19 < 2) 19, need (widthOk (u32 b 20)) 20, owned (hbmNamed o (u64 b 24) 0 s) 24,
   owned (hbmNamed o (u64 b 32) 64 s) 32, owned (hbmNamed o (u64 b 40) 0 s) 40, rsv b 48 52] ++ tailFields o b s

/-- A range of HBM whose size a layer decides: its owner, where that layer is defined. -/
def layerRange (o : Nat) (b : Bytes) (off : Nat) (size : Layer → Nat) (s : State) : Option Reject :=
  let n := ((layerOf (s.part o) (u16 b 18)).map size).getD 0
  owned (hbmNamed o (u64 b off) n s) off

/-- Fields of EMB_GATHER (R285, R296). -/
def gatherFields (o : Nat) (b : Bytes) (s : State) : List (Option Reject) :=
  [galleryField o b s, rsv b 17 18, layerField b 18, need (1 ≤ u32 b 20 && u32 b 20 ≤ 1048576) 20,
   owned (hbmNamed o (u64 b 24) (4 * u32 b 20) s) 24,
   layerRange o b 32 (fun l => u32 b 20 * (rowStride l + l.cols / 32)) s, rsv b 40 52] ++ tailFields o b s

/-- Fields of EMB_SEGSUM (R297); Umax against the layer's rows is checked when it is admitted. -/
def segsumFields (o : Nat) (b : Bytes) (s : State) : List (Option Reject) :=
  [galleryField o b s, need ([0, 1, 2, 3].contains (byteAt b 17)) 17, layerField b 18,
   need (rneFormat [0, 1, 2, 3] (byteAt b 20)) 20, rsv b 21 24, need (1 ≤ u32 b 24 && u32 b 24 ≤ 1048576) 24,
   need (1 ≤ u32 b 28) 28, layerRange o b 32 (fun l => (segsumMap l b).idsAt + 4 * u32 b 24) s,
   layerRange o b 40 (fun l => (segsumMap l b).listAt + 4 * u32 b 28) s, rsv b 48 52] ++ tailFields o b s

/-- Fields of the sequence settings (R304): `join` has the stream fields, `prio` the priority. -/
def seqFields (o : Nat) (b : Bytes) (join prio : Bool) (s : State) : List (Option Reject) :=
  let r := (s.part o).record
  [(need (u16 b 16 < 2048) 16).or (owned (inShare r.slotFirst r.slotCount (u16 b 16)) 16),
   (if prio then none else rsv b 18 19), rsv b 19 20,
   (if join then need (1 ≤ u16 b 20 && u16 b 20 ≤ 256) 20 else rsv b 20 22), rsv b 22 24,
   (if join then need (u32 b 24 ≤ 1073676288) 24 else rsv b 24 28), rsv b 28 64]

/-! ## Stairwell commands, settings and partition commands -/

/-- Fields of STW_FORM (Table 3-10). -/
def stwFormFields (b : Bytes) : List (Option Reject) :=
  let within (v lo hi : Nat) : Bool := lo ≤ v && v ≤ hi
  [need (u64 b 16 % 64 == 0) 16, need (within (byteAt b 24) 1 64) 24, need (within (byteAt b 25) 1 64) 25,
   need (within (u16 b 26) 8 256) 26, rsv b 30 64]

/-- Fields of FLIGHT_PLAN (Table 2-2). -/
def flightPlanFields (b : Bytes) : List (Option Reject) :=
  [need (u32 b 16 != 0) 16, need (u16 b 20 != 0) 20, need (byteAt b 22 < 2) 22, rsv b 23 24,
   need (1 ≤ u16 b 26 && u16 b 26 ≤ 64) 26, rsv b 28 64]

/-- Fields of STW_SET (R89). -/
def stwSetFields (b : Bytes) (s : State) : List (Option Reject) :=
  let p := u16 b 16
  let a := BitVec.ofNat 16 (u16 b 20)
  let members := if s.stw.members.isEmpty then [fabAddr s] else s.stw.members
  [need (p == 0 || (8 ≤ p && p ≤ 256)) 16, need (byteAt b 18 ≤ 64) 18, rsv b 19 20,
   need (a == 0xFFFF || members.contains a) 20, rsv b 22 64]

/-- Fields of PWR_SET (Table 15-3). -/
def pwrSetFields (b : Bytes) : List (Option Reject) :=
  let sel := byteAt b 16
  let mode := byteAt b 17
  let fixed := bit mode 0
  let base := byteAt b 18
  let vf := bit sel 1
  [need (sel < 4 && sel != 0) 16, need (mode < 4 && mode != 3) 17,
   need (!vf || (if fixed then [6, 8, 12].contains base else base ≤ 12)) 18,
   need (!vf || fixed || byteAt b 19 ≤ base) 19, need (!bit sel 0 || (550 ≤ u16 b 20 && u16 b 20 ≤ 850)) 20, rsv b 22 64]

/-- Whether an FP32 field is finite and lies within bounds; `open_` leaves the bound out. -/
def fpWithin (w : Nat) (lo hi : Num) (openLo openHi : Bool) : Bool :=
  let v := ofF32 (BitVec.ofNat 32 w)
  v.isFin && (if openLo then lo.lt v else lo.le v) && (if openHi then v.lt hi else v.le hi)

/-- A power of two. -/
def pow2 (e : Int) : Num := .fin false 1 e

/-- Fields of MINT_SET (Table 9-7). -/
def mintSetFields (b : Bytes) : List (Option Reject) :=
  let z := zeroNum
  let one := pow2 0
  [need (byteAt b 16 < 16) 16, need (byteAt b 17 < 4) 17, need (byteAt b 18 < 16) 18, rsv b 19 20,
   need (fpWithin (u32 b 20) z one (!bit (byteAt b 17) 0) false) 20, need (fpWithin (u32 b 24) z one true false) 24,
   need (fpWithin (u32 b 28) (pow2 (-1)) one false false) 28,
   need (fpWithin (u32 b 32) (pow2 (-149)) (pow2 (-10)) false false) 32,
   need (fpWithin (u32 b 36) z one false false) 36, need (fpWithin (u32 b 40) z (pow2 20) true false) 40,
   need (fpWithin (u32 b 44) z one false true) 44, need (fpWithin (u32 b 48) z one false true) 48, rsv b 52 64]

/-- Fields of FREEZE_SET (Table 9-11); the mask's range rests on its layer and is checked when it is taken. -/
def freezeSetFields (b : Bytes) : List (Option Reject) :=
  let fl := byteAt b 18
  [layerField b 16, need (fl < 8 && !(bit fl 1 && bit fl 2)) 18, rsv b 19 24, rsv b 32 64]

/-- Fields of GEN_SET (Table 7-9). -/
def genSetFields (b : Bytes) : List (Option Reject) :=
  [need (byteAt b 16 < 16) 16, need (byteAt b 17 < 4) 17, rsv b 18 20, rsv b 40 64]

/-- Fields of STASH_SET (Table 8-10). -/
def stashSetFields (o : Nat) (b : Bytes) (s : State) : List (Option Reject) :=
  let r := (s.part o).record
  [need (u64 b 16 % 65536 == 0 && u64 b 16 ≤ r.stashSize) 16,
   need (u64 b 24 % 65536 == 0 && u64 b 24 ≤ 65536 * r.vaultSize) 24, need (byteAt b 32 == 1 || byteAt b 32 == 2) 32,
   rsv b 33 64]

/-- Fields of WATCH_SET (Table 8-4, R236). -/
def watchSetFields (o : Nat) (b : Bytes) (s : State) : List (Option Reject) :=
  [need (byteAt b 16 < 64) 16, need (byteAt b 17 < 2) 17, rsv b 18 24,
   addrField b 24 32 (fun a => hbmNamed o a 32 s), rsv b 32 64]

/-- Fields of FW_ACTIVATE (R444). -/
def fwActivateFields (b : Bytes) : List (Option Reject) :=
  [need (byteAt b 16 < 2) 16, need (byteAt b 17 < 2) 17, rsv b 18 64]

/-- Fields of FW_LOAD (R443). -/
def fwLoadFields (b : Bytes) : List (Option Reject) :=
  [need (byteAt b 16 < 2) 16, rsv b 17 24, need (u64 b 24 % 64 == 0) 24,
   need (4097 ≤ u32 b 32 && u32 b 32 ≤ 134217728) 32, rsv b 36 64]

/-- Where a quote record is written: HBM where its address lies in the partition's HBM share, else host memory; the
device domain's lies in host memory (R455; assumption log 18). -/
def quoteInHbm (o a : Nat) (s : State) : Bool := o < 8 && hbmAllowed (s.part o) a 3264

/-- Fields of FW_QUOTE (R455). -/
def fwQuoteFields (o : Nat) (b : Bytes) (s : State) : List (Option Reject) :=
  [addrField b 48 64 (fun a => quoteInHbm o a s || hostNamed o a 3264 s), rsv b 56 64]

/-- Fields of TURN_SET after its partition (Table 13-4). -/
def turnSetFields (b : Bytes) : List (Option Reject) :=
  let sel := byteAt b 17
  [need (1 ≤ sel && sel < 16) 17, need (!bit sel 0 || byteAt b 18 != 0) 18, need (!bit sel 3 || byteAt b 21 != 0) 21,
   need (byteAt b 22 < 16) 22, rsv b 23 64]

/-- The partition field of a partition command: on a partition's ring only MAP_SET of itself is allowed (R372). -/
def partField (op o : Nat) (b : Bytes) : Option Reject :=
  (owned (o == deviceOwner || (op == 0x98 && byteAt b 16 == o)) 16).or (need (byteAt b 16 < 8) 16)

/-- Fields of MAP_SET after its partition (R328). -/
def mapSetFields (o : Nat) (b : Bytes) (s : State) : List (Option Reject) :=
  let q := s.part (byteAt b 16)
  let n := 320 * u16 b 32 + 64 * u16 b 34
  [rsv b 17 24,
   addrField b 24 64 (fun a => if o < 8 then hbmAllowed q a n else within (hbmShare q).1 (hbmShare q).2 a n),
   need (u16 b 32 ≤ 64) 32, need (u16 b 34 ≤ 64) 34, rsv b 36 64]

/-! ## Step 6 of R91 -/

/-- Whether an opcode's declared cost must be 0 (R33, R90, R260, R284, R442). -/
def costZero (op : Nat) : Bool :=
  op < 0x10 || bits op 4 4 == 4 || (0x55 ≤ op && op < 0x60) || op == 0x80 || op == 0x87 || op == 0x8A

/-- Whether it must not be 0 (R38). -/
def costNonzero (op : Nat) : Bool := 0x10 ≤ op && op < 0x40 || 0x50 ≤ op && op < 0x55

/-- The header fields of step 6: target flight and declared cost. -/
def headerFields (op : Nat) (b : Bytes) : List (Option Reject) :=
  [need (!(op == 0x80 || op == 0x87 || op == 0x8A) || u32 b 8 == 0) 8, need (!costZero op || u32 b 12 == 0) 12,
   need (!costNonzero op || u32 b 12 != 0) 12]

/-- What only the device domain's CTRL rings may carry (R58, R89, R442). -/
def deviceOnly (o : Nat) : Option Reject := owned (o == deviceOwner) 16

/-- The body fields of an opcode on ring rn of owner o. -/
def bodyFields (op rn o : Nat) (b : Bytes) (s : State) : List (Option Reject) :=
  match op with
  | 0x00 => [rsv b 16 64]
  | 0x01 => tallyRecordFields o b 16 s ++ tallyRecordFields o b 32 s ++ tallyRecordFields o b 48 s
  | 0x10 => programFields o b false s
  | 0x11 => programFields o b true s
  | 0x20 => copyFields o b s
  | 0x21 => strikeCopyFields o b s
  | 0x30 => collectiveFields o b s
  | 0x31 => collectiveFields o b s
  | 0x32 => collectiveFields o b s
  | 0x33 => collectiveFields o b s
  | 0x34 => collectiveFields o b s
  | 0x35 => pushFields o b s
  | 0x36 => popFields o b s
  | 0x40 => layerDefFields b
  | 0x41 => [layerField b 16, rsv b 18 64]
  | 0x42 => updateOwnFields o b s
  | 0x43 => [layerField b 16, rsv b 18 64]
  | 0x44 => layerIoFields b
  | 0x50 => routeFields o b s
  | 0x51 => dispatchFields o b s
  | 0x52 => combineFields o b s
  | 0x53 => gatherFields o b s
  | 0x54 => segsumFields o b s
  | 0x55 => [layerField b 16, rsv b 18 64]
  | 0x58 => seqFields o b true true s
  | 0x59 => seqFields o b false false s
  | 0x5A => seqFields o b false false s
  | 0x5B => seqFields o b false false s
  | 0x5C => seqFields o b false true s
  | 0x60 => ringEnableFields rn o b s
  | 0x61 => [ringField rn o b s, rsv b 18 64]
  | 0x62 => [ringField rn o b s, rsv b 18 64]
  | 0x63 => [ringField rn o b s, rsv b 18 64]
  | 0x64 => [ringField rn o b s, rsv b 18 64]
  | 0x70 => deviceOnly o :: stwFormFields b
  | 0x71 => [deviceOnly o, rsv b 16 64]
  | 0x72 => [deviceOnly o, rsv b 16 64]
  | 0x73 => [deviceOnly o, rsv b 16 64]
  | 0x80 => flightPlanFields b
  | 0x81 => deviceOnly o :: stwSetFields b s
  | 0x82 => deviceOnly o :: pwrSetFields b
  | 0x83 => deviceOnly o :: fwActivateFields b
  | 0x84 => mintSetFields b
  | 0x85 => freezeSetFields b
  | 0x86 => genSetFields b
  | 0x87 => deviceOnly o :: fwLoadFields b
  | 0x88 => stashSetFields o b s
  | 0x89 => watchSetFields o b s
  | 0x8A => fwQuoteFields o b s
  | 0x90 => [partField op o b, rsv b 17 24, need (u64 b 24 % 64 == 0) 24, rsv b 32 64]
  | 0x97 => partField op o b :: turnSetFields b
  | 0x98 => partField op o b :: mapSetFields o b s
  | _ => [partField op o b, rsv b 17 64]

/-- Step 6 of R91: the first failing field of a descriptor in ascending byte offset. -/
def fieldCheck (op rn o : Nat) (b : Bytes) (s : State) : Option Reject :=
  firstOf (headerFields op b ++ bodyFields op rn o b s)

/-! ## Steps 3 to 5 of R91 (R86 to R88) -/

/-- Whether some chapter defines an opcode. -/
def opcodeDefined (op : Nat) : Bool :=
  op ≤ 0x01 || op == 0x10 || op == 0x11 || op == 0x20 || op == 0x21 || (0x30 ≤ op && op ≤ 0x36) ||
    (0x40 ≤ op && op ≤ 0x44) || (0x50 ≤ op && op ≤ 0x55) || (0x58 ≤ op && op ≤ 0x5C) || (0x60 ≤ op && op ≤ 0x64) ||
    (0x70 ≤ op && op ≤ 0x73) || (0x80 ≤ op && op ≤ 0x8A) || (0x90 ≤ op && op ≤ 0x98)

/-- Whether a ring of a class accepts an opcode class (Table 3-1). -/
def classAccepts (cls op : Nat) : Bool :=
  let c := bits op 4 4
  c == 0 || (cls < 5 && c == cls + 1) || (cls == 5 && 6 ≤ c && c ≤ 9)

/-- Opcodes that act only on objects of a partition (R91 step 4). -/
def partitionOnly (op : Nat) : Bool :=
  let c := bits op 4 4
  c == 1 || c == 3 || c == 4 || c == 5 || [0x21, 0x80, 0x84, 0x85, 0x86, 0x88, 0x89].contains op

/-- Step 4 of R91: the partition byte. -/
def partitionByte (op o : Nat) (b : Bytes) : Option Reject :=
  let p := byteAt b 2
  (need (p < 8 || p == deviceOwner) 2).or (owned (p == o && !(p == deviceOwner && partitionOnly op)) 2)

/-- Step 5 of R91: the flags byte (Table 3-9). -/
def flagsByte (op : Nat) (b : Bytes) : Option Reject :=
  need (byteAt b 1 < 8 && (!bit (byteAt b 1) 2 || bits op 4 4 == 2)) 1

/-- Steps 2 to 6 of R91. -/
def descriptorCheck (rn : Nat) (b : Bytes) (s : State) : Option Reject :=
  let r := s.ring rn
  let op := byteAt b 0
  firstOf
    [need (byteAt b 3 == 1) 3, need (opcodeDefined op && classAccepts r.cls op) 0, partitionByte op r.owner b,
     flagsByte op b, fieldCheck op rn r.owner b s]

/-- Whether an opcode can post an interim completion, so that two CPL slots are reserved for it (R95). -/
def canDefer (op : Nat) : Bool := [0x42, 0x43, 0x80, 0x83, 0x87, 0x92].contains op

end Sys2Proof.Machine
end

