-- ==== Sys2Proof/Machine/Rings.lean ====
section
/-!
DEFINITION. Rings: doorbells, the fetch of descriptors and the tag check, ring commands, boot rings, NOP and TALLY,
interrupts, and host-memory accesses that fail (03_command_rings.md, 14_host_attach.md).
-/
namespace Sys2Proof.Machine

/-! ## Errors and doorbells (R74, R75, R84) -/

/-- Ring n enters Error from Enabled or Paused and RING_ERROR posts (R84). -/
def ringError (n cause : Nat) (s : State) : State :=
  let r := s.ring n
  if r.state = .enabled ∨ r.state = .paused then
    postEvent r.owner 0x2001 2 n cause (telling n (fun s => s.setRing n { r with state := .error, cause := cause }) s)
  else s

/-- Whether the device is past the training of its modules in Boot (Tables 18-1 and 18-5). -/
def linkTrained (s : State) : Bool :=
  match s.dev.state with
  | .up => true
  | .fault => true
  | .boot => decide (4 ≤ s.dev.bootStep)
  | _ => false

/-- Whether CXL.io is up: a half-module is trained in a device state that answers (R493). -/
def cxlUp (s : State) : Bool := !s.host.halves.isEmpty && linkTrained s

/-- The doorbell write's ring, when its form is right (R74). -/
def doorbellRing (offset size : Nat) : Option Nat := if size = 8 ∧ offset % 8 = 0 then some (offset / 8) else none

/-- What a read of the doorbell window answers, whatever its offset and size (R74). -/
def doorbellRead (_offset : Nat) : Word := 0

/-- A doorbell index that passes R75 for a submission ring. -/
def producerOk (r : Ring) (p : Word) : Bool := (p - r.cons).toNat ≤ r.size && (p - r.prod).toNat ≤ r.size

/-- A doorbell index that passes R75 for a CPL or EVENT ring. -/
def consumerOk (r : Ring) (c : Word) : Bool := (c - r.cons).toNat ≤ r.occupancy

/-- Whether a ring takes doorbells (Table 3-3). -/
def takesDoorbell (r : Ring) : Bool := r.state == .enabled || r.state == .paused

/-- The doorbell of a submission ring. -/
def submissionEffect (offset size : Nat) (p : Word) (s : State) : State :=
  if cxlUp s = false ∨ 65536 ≤ offset then s
  else
    match doorbellRing offset size with
    | none => s.bump kDbIgnored
    | some n =>
      let r := s.ring n
      if takesDoorbell r = false then s.bump kDbIgnored
      else if 6 ≤ r.cls then s
      else if producerOk r p then s.setRing n { r with prod := p }
      else ringError n 1 s

/-- A doorbell write to a submission ring. -/
def execSubmissionDoorbell (offset size : Nat) (index : Word) (s : State) : Result :=
  whenOn s (submissionEffect offset size index)

/-- The doorbell of a CPL or EVENT ring: the consumed records leave it, and what waited follows (R70, R101). -/
def consumerEffect (offset size : Nat) (c : Word) (s : State) : State :=
  if cxlUp s = false ∨ 65536 ≤ offset then s
  else
    match doorbellRing offset size with
    | none => s.bump kDbIgnored
    | some n =>
      let r := s.ring n
      if takesDoorbell r = false then s.bump kDbIgnored
      else if r.cls < 6 then s
      else if consumerOk r c then
        drainEvents n 66 (s.setRing n { r with cons := c, posted := r.posted.drop (c - r.cons).toNat })
      else ringError n 1 s

/-- A doorbell write to a CPL or EVENT ring. -/
def execConsumerDoorbell (offset size : Nat) (index : Word) (s : State) : Result :=
  whenOn s (consumerEffect offset size index)

/-! ## Fetch (R76, R91, R95, R98) -/

/-- Free CPL slots that no fetched descriptor has reserved (R95). -/
def freeSlots (c : Ring) : Nat := c.size - c.occupancy - c.waiting.length - c.reserved

/-- Whether ring rn fetches now a descriptor that needs k slots (Table 3-3, R76, R81, R95, R400). -/
def fetches (rn k : Nat) (s : State) : Bool :=
  let r := s.ring rn
  decide (r.state = .enabled ∧ r.cls ≤ 5 ∧ r.occupancy ≠ 0 ∧ r.fetched.length < 64) && r.closing.isNone &&
    !s.host.halves.isEmpty && decide (k ≤ freeSlots (s.ring r.cpl))

/-- A descriptor accepted at the tag check: its slots are reserved, and steps 2 to 6 of R91 reject it or let it wait. -/
def acceptDescriptor (rn : Nat) (b : Bytes) (k : Nat) (s : State) : State :=
  let tag := BitVec.ofNat 32 (u32 b 4)
  let s := telling rn (fun s => s.modRing rn (fun r =>
    { r with high := some tag,
             live := r.live ++ [{ tag := tag, irq := bit (byteAt b 1) 1, slots := k, opcode := byteAt b 0 }] })) s
  let s := s.modRing (s.ring rn).cpl (fun c => { c with reserved := c.reserved + k })
  match descriptorCheck rn b s with
  | some e => finish rn tag e.status e.detail 0 0 s
  | none =>
    let f : Fetched := { tag := tag, bytes := b, done := 0, waited := 0, landed := false, seen := 0 }
    s.modRing rn (fun r => { r with fetched := r.fetched ++ [f] })

/-- A fetched descriptor at the tag check (R98). -/
def checkTag (rn : Nat) (b : Bytes) (k : Nat) (s : State) : State :=
  let r := s.ring rn
  let tag := BitVec.ofNat 32 (u32 b 4)
  let irq := bit (byteAt b 1) 1
  if (match r.high with | none => true | some h => newer tag h) then acceptDescriptor rn b k s
  else
    match r.window.find? (fun w => w.tag == tag) with
    | some w => postFor rn tag 0x01 w.status w.result.toNat w.aux.toNat irq s
    | none =>
      if r.live.any (fun l => l.tag == tag) then
        let s := s.setRing rn { r with dups := r.dups ++ [{ tag := tag, irq := irq, slots := k, opcode := byteAt b 0 }] }
        s.modRing r.cpl (fun c => { c with reserved := c.reserved + k })
      else postFor rn tag 0x10 4 0 0 irq s

/-- Host address that ring rn fetches from next (R72, R76). -/
def fetchAddr (rn : Nat) (s : State) : Nat := (s.ring rn).entryAddr (s.ring rn).cons

/-- The entry at the consumer index is read: the index advances, and the control block tells it (R72, R76, R77). -/
def fetchEntry (rn : Nat) (s : State) : State :=
  telling rn (fun s => s.modRing rn (fun r => { r with cons := r.cons + 1 })) (s.emit (.hostRead (fetchAddr rn s) 64))

/-- A fetched descriptor arrives: the consumer index advances and the descriptor is checked. -/
def fetchEffect (rn : Nat) (b : Bytes) (s : State) : State :=
  let k := if canDefer (byteAt b 0) then 2 else 1
  if fetches rn k s = false then s
  else checkTag rn b k (accessDone (.fetch (Fin.ofNat 8192 rn)) (fetchEntry rn s))

/-- DESCRIPTOR_FETCHED. -/
def execDescriptorFetched (ring : RingNo) (bytes : Bytes) (s : State) : Result :=
  whenUpWf (Instr.wellFormed (.descriptorFetched ring bytes)) "DESCRIPTOR_FETCHED" s (fetchEffect ring bytes)

/-! ## Disabling (R81, R82) -/

/-- The fetched descriptors of ring n that are not admitted complete with ABORTED and a detail; how many there were. DESIGN
CHOICE: a TALLY at the head that has run some records counts as fetched and not admitted, since class 0x0 is not admitted
into treads, and its result is the value it has seen (R81, R90, R104; assumption log 100). -/
def abortFetched (n detail : Nat) (s : State) : State × Nat :=
  let fs := (s.ring n).fetched
  let s := s.modRing n (fun r => { r with fetched := [], due := 0 })
  (fs.foldl (fun s f => finish n f.tag 0x3F detail f.seen.toNat 0 s) s, fs.length)

/-- Ring n is disabled as RING_DISABLE does; `by_` is the descriptor that asked for it. -/
def disableRing (n : Nat) (by_ : Option (Nat × Word)) (s : State) : State :=
  if (s.ring n).live? = false then s
  else
    let a := abortFetched n 7 s
    let s := a.1.modRing n (fun r =>
      { r with closing := match r.closing with
          | some c => some c
          | none => some { by_ := by_, aborted := a.2 } })
    closeRings s.rings.length s

/-! ## Ring commands (R80 to R85) -/

/-- The named ring of a ring command and the descriptor at the head of ring rn. -/
def withRingCommand (op rn : Nat) (s : State) (k : Fetched → Nat → State → State) : State :=
  match headOf op rn s with
  | none => s
  | some f => k f (u16 f.bytes 16) s

/-- A ring command that is legal only while the named ring is in a state (Table 3-4). -/
def ringMove (op rn : Nat) (from_ : RingState) (s : State) (k : Nat → State → State) : State :=
  withRingCommand op rn s (fun f n s =>
    let r := s.ring n
    if r.state ≠ from_ then rejectHead rn f (badState r.state.code) s
    else finish rn f.tag 0x00 0 0 0 (telling n (k n) (popHead rn s)))

/-- A ring as RING_ENABLE makes it (R73, R85). DESIGN CHOICE: an EVENT ring's own backlog and lost count, and completions that
waited on a CPL ring, are kept while it is Disabled and discarded here, where R85 and R101 are silent (assumption log 101). -/
def enabledRing (b : Bytes) : Ring :=
  { Ring.atReset with
    cls := bits (byteAt b 18) 0 4, owner := byteAt b 19, state := .enabled, k := byteAt b 20, cpl := u16 b 22,
    base := BitVec.ofNat 64 (u64 b 24), control := BitVec.ofNat 64 (u64 b 32), vector := u16 b 40,
    countThr := byteAt b 42, timeThr := byteAt b 43 }

/-- Why a RING_ENABLE at the head of its ring is rejected: the HDM tests (R405), then the states of its rings. DESIGN CHOICE:
the NO_ROOM of a fifth EVENT ring has detail 0, which R85 leaves open (assumption log 99). -/
def enableReject (b : Bytes) (s : State) : Option Reject :=
  let n := u16 b 16
  let cls := bits (byteAt b 18) 0 4
  let c := s.ring (u16 b 22)
  match ringEnableHdm b s with
  | some e => some e
  | none =>
    if (s.ring n).live? then some (badState (s.ring n).state.code)
    else if cls ≤ 5 ∧ c.live? = true ∧ c.cls ≠ 7 then some (badValue 22)
    else if cls ≤ 5 ∧ c.live? = false then some (badState 0)
    else if cls = 6 ∧ 4 ≤ (eventRings (byteAt b 19) s).length then some { status := 0x13, detail := 0, result := 0 }
    else none

/-- RING_ENABLE. -/
def ringEnableEffect (rn : Nat) (s : State) : State :=
  withRingCommand 0x60 rn s (fun f n s =>
    match enableReject f.bytes s with
    | some e => rejectHead rn f e s
    | none =>
      let r := enabledRing f.bytes
      let s := tellBlock n ((popHead rn s).setRing n r)
      let s := if r.cls = 6 then adoptBacklog n s else s
      finish rn f.tag 0x00 0 0 0 s)

/-- A RING_ENABLE descriptor. -/
def execRingEnable (ring : RingNo) (s : State) : Result := whenUp s (ringEnableEffect ring)

/-- A RING_PAUSE descriptor. -/
def execRingPause (ring : RingNo) (s : State) : Result :=
  whenUp s (fun s => ringMove 0x61 ring .enabled s (fun n s => s.modRing n (fun r => { r with state := .paused })))

/-- Ring n Enabled again: the records that waited are written (R70, R101). -/
def resumeRing (n : Nat) (s : State) : State :=
  let s := s.modRing n (fun r => { r with state := .enabled })
  drainEvents n 66 (drainCpls n (s.ring n).waiting.length s)

/-- A RING_RESUME descriptor. -/
def execRingResume (ring : RingNo) (s : State) : Result := whenUp s (fun s => ringMove 0x62 ring .paused s resumeRing)

/-- A RING_CLEAR descriptor. -/
def execRingClear (ring : RingNo) (s : State) : Result :=
  whenUp s (fun s => ringMove 0x64 ring .error s (fun n s => s.modRing n (fun r => { r with state := .paused, cause := 0 })))

/-- The lowest submission ring that is not Disabled and posts to CPL ring n (R82). -/
def firstFeeder (n : Nat) (s : State) : Option Nat :=
  (tkeys s.rings).find? (fun m => let r := s.ring m; decide (r.cls ≤ 5) && r.live? && r.cpl == n)

/-- RING_DISABLE. -/
def ringDisableEffect (rn : Nat) (s : State) : State :=
  withRingCommand 0x63 rn s (fun f n s =>
    let r := s.ring n
    if r.live? = false ∨ r.closing.isSome = true then rejectHead rn f (badState r.state.code) s
    else
      match (if r.cls = 7 then firstFeeder n s else none) with
      | some m => rejectHead rn f (badState (s.ring m).state.code) s
      | none => disableRing n (some (rn, f.tag)) (popHead rn s))

/-- A RING_DISABLE descriptor. -/
def execRingDisable (ring : RingNo) (s : State) : Result := whenUp s (ringDisableEffect ring)

/-! ## Boot rings (R109, R405, R484) -/

/-- Whether the boot registers describe legal rings (Tables 3-17 and 3-18, R405). -/
def bootLegal (s : State) : Bool :=
  let g := s.regs
  let bytes := fun (k e : Nat) => 2 ^ (6 + k) * e
  g.bootCtrlSize.toNat ≤ 6 && g.bootCplSize.toNat ≤ 6 && g.bootEvtSize.toNat ≤ 6 &&
    bootBase 0 s % 4096 == 0 && bootBase 1 s % 4096 == 0 && bootBase 2 s % 4096 == 0 && bootBase 3 s % 256 == 0 &&
    !touchesHdm (bootBase 0 s) (bytes g.bootCtrlSize.toNat 64) s &&
    !touchesHdm (bootBase 1 s) (bytes g.bootCplSize.toNat 32) s &&
    !touchesHdm (bootBase 2 s) (bytes g.bootEvtSize.toNat 32) s && !touchesHdm (bootBase 3 s) 192 s

/-- The reserved bits of RNG_BOOT_CTL, which read 0: a write that sets one changes an RSV field (R495). -/
def bootCtlRsv (v : Word) : Bool := bits v.toNat 12 4 != 0

/-- The state after a write that changed an RSV field (R495, assumption log 6). -/
def markUnbound (changed : Bool) (s : State) : State :=
  if changed then { s with dev := { s.dev with unbound := true } } else s

/-- The VECTOR and size fields of RNG_BOOT_CTL take a write (Table 3-18). -/
def bootFields (v : Word) (s : State) : State :=
  { s with regs := { s.regs with
      bootVector := BitVec.ofNat 11 (bits v.toNat 16 11), bootCtrlSize := BitVec.ofNat 4 (bits v.toNat 8 4),
      bootCplSize := BitVec.ofNat 4 (bits v.toNat 4 4), bootEvtSize := BitVec.ofNat 4 (bits v.toNat 0 4) } }

/-- Whether RNG_BOOT_CTL takes a write: not before Ready (R484), so in Ready, Running and Fault while CXL.io is up (R493). -/
def bootCtlTakes (s : State) : Bool :=
  cxlUp s && (match s.dev.state with | .up => s.dev.rails | .fault => true | _ => false)

/-- A write that sets RNG_BOOT_CTL.ENABLE from 0 to 1: its own VECTOR and size fields apply first, and while rings 0 to 2
still close from an earlier disable they are enabled once they are Disabled (R109, assumption log 20). -/
def bootEnableEffect (v : Word) (s : State) : State :=
  if bootCtlTakes s = false then s
  else
    let s := markUnbound (bootCtlRsv v) s
    if s.regs.bootEnable || !bit v.toNat 31 then s
    else
      let s := bootFields v s
      let s := { s with regs := { s.regs with bootEnable := true, bootErr := !bootLegal s } }
      bootWaits s

/-- BOOT_RINGS_ENABLE; writes before Ready are ignored (R484). -/
def execBootRingsEnable (value : Word) (s : State) : Result := whenBound s (bootEnableEffect value)

/-- A write that clears RNG_BOOT_CTL.ENABLE: rings 0 to 2 are disabled, and its other fields are ignored. -/
def bootDisableEffect (v : Word) (s : State) : State :=
  if bootCtlTakes s = false then s
  else
    let s := markUnbound (bootCtlRsv v) s
    if s.regs.bootEnable = false ∨ bit v.toNat 31 = true then s
    else
      let s := { s with regs := { s.regs with bootEnable := false, bootErr := false } }
      disableRing 2 none (disableRing 1 none (disableRing 0 none s))

/-- BOOT_RINGS_DISABLE. -/
def execBootRingsDisable (value : Word) (s : State) : Result := whenBound s (bootDisableEffect value)

/-! ## NOP and TALLY (R89, R103 to R106) -/

/-- A NOP descriptor completes with DONE. -/
def execNop (ring : RingNo) (s : State) : Result :=
  whenUp s (fun s => withHead 0x00 ring s (fun f s => finish ring f.tag 0x00 0 0 0 s))

/-- Record i of a TALLY body. -/
def tallyRec (f : Fetched) : Bytes := sub f.bytes (16 + 16 * f.done) 16

/-- The record at the front of ring rn's TALLY is done, having seen a value. -/
def tallyAdvance (rn : Nat) (seen : Option Word) (s : State) : State :=
  s.modRing rn (fun r => { r with fetched := match r.fetched with
    | f :: rest => { f with done := f.done + 1, waited := 0, seen := seen.getD f.seen } :: rest
    | [] => [] })

/-- The head TALLY of ring rn completes. -/
def tallyEnd (rn : Nat) (f : Fetched) (status detail result : Nat) (s : State) : State :=
  finish rn f.tag status detail result 0 (popHead rn s)

/-- What waits for the RESP to the remote ADD of a TALLY's present record. -/
def tallyWaiter (rn : Nat) (f : Fetched) : Waiter := .tally rn f.tag (16 + 16 * f.done)

/-- A remote ADD of a TALLY: with no route it is exhausted at once (R316); else its REQ goes once there is room. -/
def tallySend (rn : Nat) (f : Fetched) (r : Bytes) (s : State) : State :=
  let a := BitVec.ofNat 16 (u16 r 4)
  if s.fab.requests.any (fun q => q.waiter == tallyWaiter rn f) then s
  else if routed a s = false then tallyEnd rn f 0x31 0 f.seen.toNat s
  else if fabricRoom s = false then s
  else sendReq a 0 r (tallyWaiter rn f) (s.ring rn).owner s

/-- The head TALLY of ring rn runs as far as it can; `fuel` is its records and its end. DESIGN CHOICE: the value that a SET or
ADD has seen is the one after its own change, which R104 leaves open (assumption log 102). -/
def runTally (rn : Nat) : Nat → State → State
  | 0, s => s
  | fuel + 1, s =>
    match headOf 0x01 rn s with
    | none => s
    | some f =>
      if partLive (s.part (s.ring rn).owner) = false then s
      else if 3 ≤ f.done then tallyEnd rn f 0x00 0 f.seen.toNat s
      else
        let r := tallyRec f
        if byteAt r 2 = 0 then runTally rn fuel (tallyAdvance rn none s)
        else if tallyRecordWaits r s then s
        else if tallyRemote r then tallySend rn f r s
        else
          let s := tallyLocal r s
          runTally rn fuel (tallyAdvance rn (some (s.tally (u16 r 0)).value) s)

/-- A TALLY descriptor at the head of its ring. -/
def execTally (ring : RingNo) (s : State) : Result := whenUp s (fun s => tallyWakes (runTally ring 4 s))

/-- The next TALLY record of a core. -/
def execTallyRecord (core : CoreNo) (s : State) : Result := whenUp s (fun s => tallyWakes (tallyRecordEffect core s))

/-- Whether the limit of a WAIT has expired after `waited` treads; one without a limit waits until the target flight has
landed (R105). -/
def waitExpired (r : Bytes) (waited : Nat) (landed : Bool) : Bool :=
  if u32 r 12 = 0 then landed else u32 r 12 ≤ waited

/-- The limit of the WAIT at the head of ring rn expires; the value that the WAIT has seen is the result (R104, R105). -/
def ringWaitExpires (rn : Nat) (s : State) : State :=
  match headOf 0x01 rn s with
  | none => s
  | some f =>
    let r := tallyRec f
    if f.done < 3 ∧ tallyRecordWaits r s = true ∧ waitExpired r f.waited f.landed = true then
      tallyEnd rn f 0x3F (16 + 16 * f.done) (s.tally (u16 r 0)).value.toNat s
    else s

/-- Whether flight n of a partition has landed with DONE. -/
def flightLanded (n : Word) (q : Partition) : Bool :=
  (q.flight.map (fun (f : Flight) => f.plan.flight)) != some n && !newer n q.lastFlight && !(q.replayDue && n == q.lastFlight)

/-- The limit of the WAIT record at which core c stands expires: its program ends with ABORTED, and the records after it
do not run (assumption log 21). -/
def coreWaitExpires (c : Nat) (s : State) : State :=
  withRecord 0x60 [] c s (fun g i rec s =>
    let r := sub rec 16 16
    if tallyRecordWaits r s ∧ waitExpired r (tget 0 g.waited c) (flightLanded g.flight (s.part g.part)) = true then
      s.setProgram (stopProgram 0x3F 16 (issue i true g))
    else s)

/-- WAIT_LIMIT_EXPIRY (R105, R389). -/
def execWaitLimitExpiry (place : WaitPlace) (s : State) : Result :=
  whenUp s (fun s => match place with
    | .ring r => ringWaitExpires r s
    | .core c => coreWaitExpires c s)

/-! ## Interrupts (R108, R408) -/

/-- INTERRUPT_TIMEOUT: the oldest pending entry of a ring passes its time threshold; a count threshold of 0 disables the
vector for the ring, and a time threshold of 0 means count only (Table 3-6). DESIGN CHOICE: a pending count left on a ring that
has become Disabled fires nothing, which R108 leaves open (assumption log 103). -/
def execInterruptTimeout (ring : RingNo) (s : State) : Result :=
  whenUp s (fun s =>
    let r := s.ring ring
    if r.live? ∧ r.countThr ≠ 0 ∧ r.timeThr ≠ 0 ∧ r.irqs ≠ 0 then
      fireVector r.vector (s.setRing ring { r with irqs := 0 }) else s)

/-- A pending vector that neither its own mask nor the function's holds sends its message (R408). -/
def releaseVector (v : Nat) (s : State) : State :=
  let x := s.vector v
  if x.pending && !x.masked && !s.regs.funcMask then
    sendHost (.msix v x.addr x.data) (s.setVector v { x with pending := false })
  else s

/-- The words of entry v of the MSI-X table: message address, message data, and vector control, whose bit 0 is the mask
(R408, Table 14-4; PRESUMED from PCI Express, assumption log 34). -/
def vectorWord (v w : Nat) (s : State) : Word :=
  let x := s.vector v
  match w with
  | 0 => x.addr.setWidth 32
  | 1 => (x.addr >>> 32).setWidth 32
  | 2 => x.data
  | _ => if x.masked then 1 else 0

/-- A word of the pending-bit array: a bit for each vector. -/
def pendingWord (i : Nat) (s : State) : Word :=
  BitVec.ofNat 32 (((List.range 32).map (fun b => if (s.vector (32 * i + b)).pending then 2 ^ b else 0)).sum)

/-- What a read of an aligned word of BAR4 answers: the table, the pending bits, and zero in the rest (Table 14-4). -/
def bar4Read (a : Nat) (s : State) : Word :=
  if a < 0x8000 then vectorWord (a / 16) (a % 16 / 4) s
  else if a < 0x8100 then pendingWord ((a - 0x8000) / 4) s
  else 0

/-- A word written into the MSI-X table; a vector that this unmasks sends its pending message (R408). -/
def bar4Write (a : Nat) (v : Word) (s : State) : State :=
  if 0x8000 ≤ a then s
  else
    let n := a / 16
    let x := s.vector n
    match a % 16 / 4 with
    | 0 => s.setVector n { x with addr := x.addr.extractLsb' 32 32 ++ v }
    | 1 => s.setVector n { x with addr := v ++ x.addr.extractLsb' 0 32 }
    | 2 => s.setVector n { x with data := v }
    | _ => releaseVector n (s.setVector n { x with masked := bit v.toNat 0 })

/-- A write of the message control word of the MSI-X capability in configuration space: bit 30 masks the function (PRESUMED
from PCI Express). The pending vectors go in rising order when the mask clears (DESIGN CHOICE; assumption log 34). -/
def msixControlWrite (v : Word) (s : State) : State :=
  let s := { s with regs := { s.regs with funcMask := bit v.toNat 30 } }
  (tkeys s.vectors).foldl (fun s n => releaseVector n s) s

/-- MSIX_UNMASK: the mask of a vector clears, and a pending message goes unless the function is masked. -/
def execMsixUnmask (vector : Fin 2048) (s : State) : Result :=
  whenBound s (fun s => if cxlUp s then bar4Write (16 * vector + 12) 0 s else s)

/-! ## Host accesses that fail (R84, R400, R463) -/

/-- Whether a host-memory access of the block can be open now. -/
def accessOpen (a : HostAccess) (s : State) : Bool :=
  match a with
  | .fetch r =>
    let x := s.ring r
    decide (x.state = .enabled ∧ x.cls ≤ 5 ∧ x.occupancy ≠ 0 ∧ x.fetched.length < 64) && x.closing.isNone
  | .write r => takesDoorbell (s.ring r)
  | .read h t =>
    (s.hall h).dma.any (fun d => d.tag == t && (match d.kind with
      | .copy id => (match s.work? id with | some w => w.opcode == 0x20 && byteAt w.bytes 16 == 2 | none => false)
      | _ => false))

/-- Owner of the data of a host access. -/
def accessOwner (a : HostAccess) (s : State) : Nat :=
  match a with
  | .fetch r => (s.ring r).owner
  | .write r => (s.ring r).owner
  | .read h t =>
    match (s.hall h).dma.find? (fun d => d.tag == t) with
    | some { kind := .copy id, .. } => (match s.work? id with | some w => w.part | none => deviceOwner)
    | _ => deviceOwner

/-- The uncorrected event of a host-memory access: Table 17-6 gives it no resource, so its source is a free value
(R463, R476; assumption log 8). -/
def hostUncorrected (owner : Nat) (s : State) : State :=
  let v := s.fresh
  let s := v.2.bump kUe
  let payload := 2 ^ 56 * owner
  let s := postEvent deviceOwner 0x4001 2 v.1.toNat payload s
  if owner < 8 then postEvent owner 0x4001 2 v.1.toNat payload s else s

/-- A host-memory access fails: it is reissued up to three times, then it has its outcome (Table 17-2). -/
def accessFails (a : HostAccess) (s : State) : State :=
  if accessOpen a s = false then s
  else
    let n := reissues a s
    if n < 3 then (setReissues a (n + 1) s).bump kRetry
    else
      let s := hostUncorrected (accessOwner a s) (setReissues a 0 s)
      match a with
      | .fetch r => ringError r 2 s
      | .write r => ringError r 3 s
      | .read h t => dmaEndEffect h t [] true s

/-- HOST_ACCESS_ABORTED. -/
def execHostAccessAborted (access : HostAccess) (s : State) : Result := whenUp s (accessFails access)

/-- An access that has waited HST_CTL.TIMEOUT ms counts as aborted and is told (R400, R410). -/
def accessTimesOut (a : HostAccess) (s : State) : State :=
  if accessOpen a s = false then s
  else accessFails a (postEvent deviceOwner 0xB002 2 0 1 (s.bump 0x0B0018))

/-- HOST_ACCESS_TIMEOUT. -/
def execHostAccessTimeout (access : HostAccess) (s : State) : Result := whenUp s (accessTimesOut access)

end Sys2Proof.Machine
end

