-- ==== Sys2Proof/Machine/Requests.lean ====
section
/-!
DEFINITION. How a fabric request ends: its RESP, the failure of its connection, a fence and a reissue
(11_fabric_and_collectives.md, R321, R322; 13_partitions_and_isolation.md, R388, R389).
-/
namespace Sys2Proof.Machine

/-- The state without a request. -/
def dropRequest (r : Request) (s : State) : State :=
  modFab s (fun g => { g with requests := g.requests.filter (· != r) })

/-- What the waiter of a request does when it has ended with a status, a detail and a value. -/
def endWaiter (r : Request) (status detail value : Nat) (s : State) : State :=
  match r.waiter with
  | .tally rn tag _ =>
    match (s.ring rn).fetched with
    | f :: _ =>
      if f.tag ≠ tag then s
      else if status = 0 then runTally rn 4 (tallyAdvance rn (some (BitVec.ofNat 32 value)) s)
      else tallyEnd rn f status detail 0 s
    | [] => s
  | .record id _ =>
    match s.program? id with
    | none => s
    | some g =>
      s.setProgram { g with awaiting := g.awaiting.filter (· != r.txn),
                            outcome := if status = 0 then g.outcome else some (g.outcome.getD (status, detail)) }
  | .resume rn tag => finish rn tag status detail value 0 s
  | .control id =>
    if status = 0 then s
    else match s.work? id with | none => s | some w => finishWork w status detail 0 0 s

/-- A request ends. -/
def endRequest (r : Request) (status detail value : Nat) (s : State) : State :=
  endWaiter r status detail value (dropRequest r s)

/-- The requests of a partition that still wait are fenced (R388). -/
def fenceRequests (p : Nat) (s : State) : State :=
  let n := (s.fab.requests.filter (fun r => r.part == p && !r.fenced)).length
  let s := modFab s (fun g =>
    { g with requests := g.requests.map (fun r => if r.part == p then { r with fenced := true } else r) })
  s.modPart p (fun q => { q with fenced := q.fenced + n })

/-- A fenced request reissued under its tag, or exhausted when 1,024 later ones have been sent on its connection
(R322, R389). -/
def reissue (s : State) (r : Request) : State :=
  if 1024 ≤ ((connOf r.conn s).nextTxn - r.txn).toNat - 1 then endRequest r 0x31 0 0 s
  else
    let s := modFab s (fun g =>
      { g with requests := g.requests.map (fun x => if x = r then { x with fenced := false } else x) })
    sendReliable r.frame none r.part s

/-- Every fenced request of a partition reissued. -/
def reissueAll (p : Nat) (s : State) : State :=
  (s.fab.requests.filter (fun r => r.part == p && r.fenced)).foldl reissue s

end Sys2Proof.Machine
end

