-- ==== Sys2Proof/Machine/Fabric.lean ====
section
/-!
DEFINITION. Links of the fabric, connections that move and fail, requests and relayed frames
(11_fabric_and_collectives.md, R314 to R326, R340).
-/
namespace Sys2Proof.Machine

/-! ## FAB_CFG and routes (R315, R340, R503) -/

/-- A write of FAB_CFG (Table 11-12). -/
def fabCfgWrite (v : Word) (s : State) : State :=
  let n := v.toNat
  let s := markUnbound (bits n 4 4 != 0 || bit n 1) s
  let s := modFab s (fun f => { f with rto := BitVec.ofNat 8 (bits n 8 8),
                                       etype := if f.enable then f.etype else BitVec.ofNat 16 (bits n 16 16) })
  if addrOk s = false then s
  else modFab s (fun f => { f with enable := bit n 0, conns := if bit n 0 && f.enable then f.conns else f.conns.map Conn.restart })

/-- FABRIC_ENABLE: a write of FAB_CFG. -/
def execFabricEnable (value : Word) (s : State) : Result :=
  whenBound s (fun s => if cxlUp s then fabCfgWrite value s else s)

/-- A write of word w of the route entry of an address; word 2 makes the whole entry take effect (R503). -/
def routeWrite (a : Nat) (w : Nat) (v : Word) (s : State) : State :=
  let r := tget Route.atReset s.fab.routes a
  let put := fun (r : Route) (s : State) => modFab s (fun f => { f with routes := tset f.routes a r })
  match w with
  | 0 => put { r with w0 := v } s
  | 1 => put { r with w1 := v } s
  | 2 =>
    let n := v.toNat
    let v' := v &&& 0xFF00FFFF#32
    markUnbound (bits n 16 8 != 0)
      (put { r with w2 := v', links := setBits (r.w0.toNat + 2 ^ 32 * r.w1.toNat) 64, mode := bits n 30 2,
                    gateway := bits n 24 6, via := BitVec.ofNat 16 (bits n 0 16) } s)
  | _ => markUnbound (v != 0) s

/-- ROUTE_ENTRY_COMMIT: a write of word 2 of an entry. -/
def execRouteEntryCommit (address : Half) (value : Word) (s : State) : Result :=
  whenBound s (fun s => if cxlUp s then routeWrite address.toNat 2 value s else s)

/-! ## Connections that move and fail (R319, R321) -/

/-- Links that a connection has tried. -/
def linksTried (c : Conn) : Nat := (c.tried ++ c.link.toList).eraseDups.length

/-- A connection fails: what waits on it is exhausted, PEER_LOST posts, a member's loss halts the stairwell, and the
connection starts anew; request tags, kept answers, and the reverse direction, which is a connection of the peer's, stay (R52,
R319, R321, R322). -/
def failConn (id : ConnId) (s : State) : State :=
  let c := connOf id s
  let works := ((c.unacked ++ c.queued).filterMap Sent.work).eraseDups
  let s := setConn { Conn.atReset id with nextTxn := c.nextTxn, kept := c.kept, expect := c.expect, owed := c.owed } s
  let s := (s.fab.requests.filter (fun r => r.conn == id && !r.fenced)).foldl (fun s r => endRequest r 0x31 3 0 s) s
  let s := works.foldl (fun s w => match s.work? w with | none => s | some w => finishWork w 0x31 3 w.sent w.stall s) s
  let s := postEvent deviceOwner 0x5002 2 id.peer.toNat (id.cls.val + 256 * linksTried c) s
  if s.stw.members.contains id.peer then raiseHalt 5 id.peer s else s

/-- A link down for the fabric: NEIGHBOUR posts and its connections move (R314, R319). -/
def fabricDown (n : Nat) (s : State) : State := linkLost n (neighbourDown n s)

/-- The resend of a connection with unacknowledged frames, on the links of its route that are up: three on each, one link
after another, and after them the connection fails (R321). -/
def resendOn (id : ConnId) (l : List Nat) (s : State) : State :=
  let c := connOf id s
  match c.link with
  | none => resendAll id (setConn { c with link := connLink c s, resends := 0, idle := 0, repeats := 0 } s)
  | some n =>
    if l.contains n = false then
      match (nextLink n c.tried l).or l.head? with
      | some m => moveTo c m s
      | none => s
    else if c.resends < 3 then
      resendAll id (setConn { c with resends := c.resends + 1, idle := 0, repeats := 0 } s)
    else
      match nextLink n c.tried l with
      | some m => moveTo c m s
      | none => failConn id s

/-- RESEND_TIMEOUT of a connection: with no link up for 4 × RTO it fails (R321). -/
def resendEffect (id : ConnId) (s : State) : State :=
  let c := connOf id s
  if c.unacked.isEmpty then s
  else if id.peer = fabAddr s then resendAll id s
  else
    match linksTo id.peer s with
    | [] => if 3 ≤ c.idle then failConn id s else setConn { c with idle := c.idle + 1 } s
    | l => resendOn id l s

/-- The acknowledge field of an ACK: one that repeats a number three times makes the connection resend at once (R321). -/
def ackEffect (id : ConnId) (ack : Word) (s : State) : State :=
  let c := connOf id s
  if ack = c.lastAck ∧ c.unacked.isEmpty = false ∧ c.unacked.all (fun u => !newer ack u.frame.seq) = true then
    if c.repeats + 1 < 3 then setConn { c with repeats := c.repeats + 1 } s
    else if id.peer = fabAddr s then resendAll id (setConn { c with repeats := 0 } s)
    else
      match linksTo id.peer s with
      | [] => setConn { c with repeats := 0 } s
      | l => resendOn id l s
  else takeAck id ack s

/-- RESEND_TIMEOUT. -/
def execResendTimeout (conn : ConnId) (s : State) : Result := whenUp s (fun s => clearsRun (resendEffect conn s))

/-- ACK_TIMER: 1 µs after a frame was accepted. -/
def execAckTimer (conn : ConnId) (s : State) : Result :=
  whenUp s (fun s => if (connOf conn s).owed = 0 then s else sendAck conn s)

/-- ACK_RECEIVED. -/
def execAckReceived (link : LinkNo) (frame : Frame) (s : State) : Result :=
  whenUpWf (Instr.wellFormed (.ackReceived link frame)) "ACK_RECEIVED" s (fun s =>
    withFrame link frame s (fun s => clearsRun (ackEffect (connIn frame) frame.ack (s.bump kRx))))

/-! ## Neighbours (R314) -/

/-- Whether a link sends and takes HELLOs: it is up in the MAC and carries Zusia frames (R344, R350, R352). -/
def greets (n : Nat) (s : State) : Bool := (s.link n).stage == .up && linkCarries n s

/-- The HELLO that a link sends. -/
def helloFrame (n : Nat) (s : State) : Frame :=
  { newFrame 0x01 0xFFFF 0 s with
    payload := toLE (fabAddr s).toNat 2 ++ toLE n 1 ++ toLE 0 1 ++ toLE s.dev.bootEpoch.toNat 4 }

/-- HELLO_SEND. -/
def execHelloSend (s : State) : Result :=
  whenUp s (fun s => (List.range 64).foldl (fun s n => if greets n s then emitFrame (some n) (helloFrame n s) s else s) s)

/-- The boot epoch last heard from an address. -/
def knownEpoch (a : Half) (s : State) : Option Word :=
  (s.fab.neighbours.find? (fun e => e.2.addr == a && a != 0)).map (fun e => e.2.epoch)

/-- Every connection to an address fails and starts wholly anew, its peer having booted (R314, R321). -/
def peerBooted (a : Half) (epoch : Word) (s : State) : State :=
  let ids := (s.fab.conns.filter (fun c => c.id.peer == a)).map Conn.id
  let s := ids.foldl (fun s id => failConn id s) s
  modFab s (fun f => { f with conns := f.conns.filter (fun c => c.id.peer != a),
                              neighbours := tmap f.neighbours (fun _ x => if x.addr = a then { x with epoch := epoch } else x) })

/-- A HELLO on link n from address a with its MAC address, link number and boot epoch. -/
def helloEffect (n : Nat) (a : Half) (mac : BitVec 48) (peerLink : Nat) (epoch : Word) (s : State) : State :=
  let s := match knownEpoch a s with
    | some e => if e = epoch then s else peerBooted a epoch s
    | none => s
  let x := neighbourOf n s
  let same := x.addr == a
  let hellos := if same then min 2 (x.hellos + 1) else 1
  let up := decide (2 ≤ hellos) && greets n s
  let s := setNeighbour n { addr := a, mac := mac, peerLink := peerLink, epoch := epoch, hellos := hellos, up := up } s
  let s := if x.up && !up then linkLost n s else s
  if !same || up != x.up then neighbourEvent n s else s

/-- HELLO_RECEIVED. -/
def execHelloReceived (link : LinkNo) (frame : Frame) (s : State) : Result :=
  whenUpWf (Instr.wellFormed (.helloReceived link frame)) "HELLO_RECEIVED" s (fun s =>
    if macPasses link frame s = false then dropEffect link frame.rx s
    else
      let s := macReceive link frame s
      if s.fab.enable = false then s
      else if frame.version ≠ 1 then s.bump kRxBad
      else
        let b := frame.payload
        helloEffect link (BitVec.ofNat 16 (u16 b 0)) frame.rx.source (byteAt b 2) (BitVec.ofNat 32 (u32 b 4)) (s.bump kRx))

/-- NEIGHBOUR_TIMEOUT: no HELLO for 300 µs. -/
def execNeighbourTimeout (link : LinkNo) (s : State) : Result := whenUp s (fabricDown link)

/-! ## Requests and responses (R106, R322, R326) -/

/-- The remote ADD of a tally record, and the status and value of its RESP. -/
def remoteAdd (b : Bytes) (s : State) : State × Nat × Nat :=
  let t := u16 b 0
  if t < 8192 ∧ (s.tally t).open_ = true then
    let s := addTally t (BitVec.ofNat 32 (u32 b 8)) s
    (s, 0x00, (s.tally t).value.toNat)
  else (s, 0x12, 0)

/-- REMOTE_ADD_REQ. -/
def execRemoteAddReq (link : LinkNo) (frame : Frame) (s : State) : Result :=
  whenUpWf (Instr.wellFormed (.remoteAddReq link frame)) "REMOTE_ADD_REQ" s
    (fun s => tallyWakes (receiveReq link frame s (remoteAdd frame.payload)))

/-- The detail with which a request's descriptor completes when its RESP has a status other than DONE. -/
def respDetail (w : Waiter) (value : Nat) : Nat :=
  match w with
  | .tally _ _ offset => offset
  | .record _ _ => 16
  | .resume _ _ => value % 256
  | .control _ => 5

/-- A RESP completes the request that waits under its tag; one that nothing waits for is discarded (R322, R388). -/
def respLands (f : Frame) (s : State) : State :=
  let status := byteAt f.payload 0
  let value := leNat (sub f.payload 1 8)
  match s.fab.requests.find? (fun r => r.txn == f.txn && r.conn == reqConn f.src && !r.fenced) with
  | none => s.bump kFenced
  | some r => endRequest r status (if status = 0 then 0 else respDetail r.waiter value) value s

/-- RESP_RECEIVED. -/
def execRespReceived (link : LinkNo) (frame : Frame) (s : State) : Result :=
  whenUpWf (Instr.wellFormed (.respReceived link frame)) "RESP_RECEIVED" s (fun s =>
    clearsRun (receiveReliable link frame s (respLands frame)))

/-! ## Relaying (R316) -/

/-- A frame for another address goes on by this device's own entry, one hop less; with no hop left it is dropped. -/
def relayEffect (n : Nat) (f : Frame) (s : State) : State :=
  if macPasses n f s = false then dropEffect n f.rx s
  else
    let s := macReceive n f s
    if s.fab.enable = false ∨ f.dst = fabAddr s then s
    else if f.version ≠ 1 ∨ routed f.dst s = false then s.bump kRxBad
    else if f.hops = 0 then s.bump kRelayDrop
    else
      match pickLink { peer := f.dst, cls := f.cls, stripe := f.stripe } (linksTo f.dst s) with
      | none => s
      | some l => (emitFrame (some l) { f with hops := f.hops - 1, rx := noEther } s).bump kRelay

/-- FRAME_RELAY. -/
def execFrameRelay (link : LinkNo) (frame : Frame) (s : State) : Result :=
  whenUpWf (Instr.wellFormed (.frameRelay link frame)) "FRAME_RELAY" s (relayEffect link frame)

end Sys2Proof.Machine
end

