-- ==== Sys2Proof/Machine/Shake.lean ====
section
/-!
DEFINITION. SHAKE256 of FIPS 202, which the manual names for map digests, image digests and quotes (R329, R438, R452 to
R458). The permutation and the padding are those of the standard (assumption log 19).
-/
namespace Sys2Proof.Machine

/-- Lane (x, y) of a state of 25 lanes, indices modulo 5. -/
def lane (a : List Word64) (x y : Nat) : Word64 := a.getD (x % 5 + 5 * (y % 5)) 0

/-- Rotation offsets of step rho, lane (x, y) at x + 5y. -/
def rhoOffsets : List Nat :=
  [0, 1, 62, 28, 27, 36, 44, 6, 55, 20, 3, 10, 43, 25, 39, 41, 45, 15, 21, 8, 18, 2, 61, 56, 14]

/-- Round constants of step iota. -/
def roundConstants : List Word64 :=
  [0x0000000000000001, 0x0000000000008082, 0x800000000000808A, 0x8000000080008000, 0x000000000000808B,
   0x0000000080000001, 0x8000000080008081, 0x8000000000008009, 0x000000000000008A, 0x0000000000000088,
   0x0000000080008009, 0x000000008000000A] ++
  [0x000000008000808B, 0x800000000000008B, 0x8000000000008089, 0x8000000000008003, 0x8000000000008002,
   0x8000000000000080, 0x000000000000800A, 0x800000008000000A, 0x8000000080008081, 0x8000000000008080,
   0x0000000080000001, 0x8000000080008008]

/-- The 25 lanes made by f of their coordinates. -/
def lanes (f : Nat → Nat → Word64) : List Word64 := (List.range 25).map (fun i => f (i % 5) (i / 5))

/-- Step theta. -/
def theta (a : List Word64) : List Word64 :=
  let c := (List.range 5).map (fun x => lane a x 0 ^^^ lane a x 1 ^^^ lane a x 2 ^^^ lane a x 3 ^^^ lane a x 4)
  lanes (fun x y => lane a x y ^^^ (c.getD ((x + 4) % 5) 0 ^^^ (c.getD ((x + 1) % 5) 0).rotateLeft 1))

/-- Steps rho and pi. -/
def rhoPi (a : List Word64) : List Word64 :=
  lanes (fun x y =>
    let i := (x + 3 * y) % 5
    (lane a i x).rotateLeft (rhoOffsets.getD (i + 5 * x) 0))

/-- Steps chi and iota with a round constant. -/
def chiIota (rc : Word64) (a : List Word64) : List Word64 :=
  lanes (fun x y =>
    let v := lane a x y ^^^ (~~~(lane a (x + 1) y) &&& lane a (x + 2) y)
    if x = 0 ∧ y = 0 then v ^^^ rc else v)

/-- The permutation Keccak-f[1600]. -/
def keccakF (a : List Word64) : List Word64 := roundConstants.foldl (fun a rc => chiIota rc (rhoPi (theta a))) a

/-- A block of 136 bytes absorbed. -/
def absorb (a : List Word64) (block : Bytes) : List Word64 :=
  keccakF (a.zipIdx.map (fun (v, i) => if i < 17 then v ^^^ BitVec.ofNat 64 (u64 block (8 * i)) else v))

/-- The first 136 bytes of a state. -/
def rateBytes (a : List Word64) : Bytes := ((a.take 17).map (fun v => toLE v.toNat 8)).flatten

/-- The message padded to whole blocks: suffix 1111, then 1, zeros and 1. -/
def padMessage (m : Bytes) : Bytes :=
  let z := 135 - m.length % 136
  if z = 0 then m ++ [0x9F] else m ++ [0x1F] ++ List.replicate (z - 1) 0 ++ [0x80]

/-- Blocks of 136 bytes absorbed; `fuel` bounds them. -/
def absorbAll : Nat → Bytes → List Word64 → List Word64
  | 0, _, a => a
  | fuel + 1, m, a => if m.isEmpty then a else absorbAll fuel (m.drop 136) (absorb a (m.take 136))

/-- n bytes squeezed; `fuel` bounds the blocks. -/
def squeeze : Nat → Nat → List Word64 → Bytes
  | 0, _, _ => []
  | fuel + 1, n, a => if n ≤ 136 then (rateBytes a).take n else rateBytes a ++ squeeze fuel (n - 136) (keccakF a)

/-- SHAKE256 of a message, n bytes of output. -/
def shake256 (m : Bytes) (n : Nat) : Bytes :=
  let p := padMessage m
  squeeze (n / 136 + 1) n (absorbAll (p.length / 136 + 1) p (List.replicate 25 0))

end Sys2Proof.Machine
end

