-- ==== Sys2Proof/Machine/Firmware.lean ====
section
/-!
DEFINITION. Teller firmware, identity and attestation (16_firmware_and_identity.md, R432 to R460). FW_ACTIVATE as a
setting stands in Machine/Settings.lean; its landing calls `activations` here.
-/
namespace Sys2Proof.Machine

/-- Counter FW_QUOTES and, after it, FW_SIGS and FW_WDOG (Table 16-14). -/
def kFw (i : Nat) : Nat := indirectKey 0 (0x120 + 4 * i)

/-- The state with the firmware section changed. -/
def modFw (s : State) (f : Firmware → Firmware) : State := { s with fw := f s.fw }

/-- State code of a slot (Table 16-5). -/
def SlotState.code : SlotState → Nat
  | .empty => 0
  | .loading => 1
  | .valid => 2
  | .invalid => 3
  | .pending => 4
  | .active => 5

/-- Slot n. -/
def slotOf (n : Nat) (s : State) : FwSlot := if n = 0 then s.fw.slot0 else s.fw.slot1

/-- The state with slot n replaced. -/
def setSlot (n : Nat) (x : FwSlot) (s : State) : State :=
  modFw s (fun f => if n = 0 then { f with slot0 := x } else { f with slot1 := x })

/-- The state with slot n in another state. -/
def moveSlot (n : Nat) (st : SlotState) (s : State) : State := setSlot n { slotOf n s with state := st } s

/-- The bytes of slot n: of an image that FW_LOAD wrote, or the header of the one with which the part shipped. -/
def slotBytes (n : Nat) (s : State) : Bytes :=
  let b := (slotOf n s).image
  if b.isEmpty then (List.range 4096).map (fun i => Config.flash (0x8000000 * n + i)) else b

/-! ## Images (R436 to R440) -/

/-- Module revision of the manual (R3, R439). -/
def moduleRevision : Nat := 0x0000000B

/-- Version of an image (Table 16-3). -/
def imgVersion (b : Bytes) : Nat := u32 b 8
/-- Security version number of an image. -/
def imgSvn (b : Bytes) : Nat := u32 b 12
/-- Body length that a header gives. -/
def imgBodyLength (b : Bytes) : Nat := u32 b 24
/-- Key indexes that an image revokes on activation. -/
def imgRevoke (b : Bytes) : List Nat := setBits (bits (u16 b 6) 4 4) 4

/-- The reason code of the first failing check of Table 16-4, 0 for a pass; `sigOk` is the outcome of the XMSS
verification (R437). -/
def imageReason (b : Bytes) (sigOk : Bool) (s : State) : Nat :=
  let n := imgBodyLength b
  let key := byteAt b 28
  if u32 b 0 ≠ 0x46575A32 ∨ u16 b 4 ≠ 1 then 1
  else if n = 0 ∨ 134213632 < n ∨ b.length ≠ 4096 + n then 2
  else if moduleRevision < u32 b 16 ∨ u32 b 20 < moduleRevision then 3
  else if 4 ≤ key ∨ s.fw.revoked.contains key = true ∨ (imgRevoke b).contains key = true then 4
  else if shake256 (b.drop 4096) 64 ≠ sub b 32 64 then 5
  else if sigOk = false then 6
  else if imgSvn b < s.fw.svnFloor.toNat then 7
  else 0

/-- A completed activation of an image: with RAISE_SVN the floor rises, and its REVOKE bits are set (R440). -/
def completeActivation (b : Bytes) (s : State) : State :=
  modFw s (fun f =>
    { f with svnFloor := if bit (u16 b 6) 0 && decide (f.svnFloor.toNat < imgSvn b) then BitVec.ofNat 32 (imgSvn b)
               else f.svnFloor,
             revoked := (f.revoked ++ imgRevoke b).eraseDups })

/-! ## FW_LOAD (R443) -/

/-- Whether a slot takes an FW_LOAD (Table 16-5). -/
def slotLoads (x : FwSlot) : Bool := x.state == .empty || x.state == .valid || x.state == .invalid

/-- FW_LOAD taken: the slot is Loading and holds the bytes as copied; DEFERRED posts. -/
def fwLoadEffect (rn : Nat) (image : Bytes) (s : State) : State :=
  match headOf 0x87 rn s with
  | none => s
  | some f =>
    let n := byteAt f.bytes 16
    let len := u32 f.bytes 32
    if touchesHdm (u64 f.bytes 24) len s then rejectHead rn f (badValue 24) s
    else if slotLoads (slotOf n s) = false then rejectHead rn f (badState (slotOf n s).state.code) s
    else if s.fw.tellerDown then finish rn f.tag 0x3F 0x10 0 0 (popHead rn s)
    else if image.length ≠ len ∨ s.host.halves.isEmpty then s
    else
      let s := setSlot n { state := .loading, image := image } (popHead rn s)
      let s := modFw s (fun w => { w with loading := w.loading ++ [(n, rn, f.tag)] })
      interim rn f.tag 0 0 0 s

/-- A FW_LOAD descriptor, with the bytes of the image in host memory; their read waits while no module is up (R400). -/
def execFwLoad (ring : RingNo) (image : Bytes) (s : State) : Result := whenUp s (fwLoadEffect ring image)

/-- A load ends with a reason code, 0 for a pass. -/
def endLoad (n rn : Nat) (tag : Word) (reason : Nat) (s : State) : State :=
  let b := (slotOf n s).image
  let st : SlotState := if reason = 0 then .valid else .invalid
  let s := moveSlot n st (modFw s (fun w => { w with loading := w.loading.filter (fun e => e.1 != n) }))
  let s := postEvent deviceOwner 0x8001 0 n (st.code + 256 * reason) s
  if reason = 0 then finish rn tag 0x00 0 (halves (imgVersion b) (imgSvn b)) 0 s
  else if reason = 8 then finish rn tag 0x31 3 0 0 (uncorrected { type := 0x16, index := 0 } 0 deviceOwner s)
  else finish rn tag 0x3F reason 0 0 s

/-- The copy of a load is checked, by a teller that runs and takes firmware work. -/
def imageCheckedEffect (n : Nat) (writeOk sigOk : Bool) (s : State) : State :=
  match s.fw.loading.find? (fun e => e.1 == n) with
  | none => s
  | some (_, rn, tag) =>
    if tellerUp s = false ∨ s.fw.handover.isSome = true then s
    else endLoad n rn tag (if writeOk then imageReason (slotOf n s).image sigOk s else 8) s

/-- FW_IMAGE_CHECKED. -/
def execFwImageChecked (slot : Fin 2) (writeOk signatureOk : Bool) (s : State) : Result :=
  whenUp s (imageCheckedEffect slot writeOk signatureOk)

/-! ## Activation (R426, R444 to R447) -/

/-- Whether the slot's image reads the handover block that the Active image writes (R444). -/
def handoverFits (n : Nat) (s : State) : Bool :=
  let b := slotBytes n s
  let out_ := match s.fw.active with | some a => byteAt (slotBytes a s) 29 | none => 0
  byteAt b 30 ≤ out_ && out_ ≤ byteAt b 31

/-- The start of an activation at its landing: a cold one rewrites the boot record and completes; a warm one begins its
handover (R445, R446). -/
def startActivation (n : Nat) (cold : Bool) (rn : Nat) (tag : Word) (s : State) : State × List Done :=
  if cold then
    let s := completeActivation (slotBytes n s) (modFw s (fun f => { f with bootSlot := n }))
    (s, [{ ring := rn, tag := tag, status := 0x00, detail := 0, result := 0, aux := 0 }])
  else (modFw s (fun f => { f with handover := some (n, rn, tag), handoverBlock := s.pwr.gains }), [])

/-- The firmware part of step 7 of Table 2-9: whether this device landing is clear, then each pending FW_ACTIVATE, which
starts at the second consecutive clear landing or posts its one DEFERRED (R426, R444). -/
def activations (due : Setting → Bool) (s : State) : State × List Done :=
  let clear := !emergency s && !s.pwr.emergSince
  let s := modPwr s (fun p => { p with clears := if clear then p.clears + 1 else 0, emergSince := emergency s })
  s.settings.foldl (fun a x =>
    match x.kind with
    | .fwActivate n cold =>
      if due x && decide (2 ≤ a.1.pwr.clears) && a.1.fw.handover.isNone && tellerUp a.1 then
        let s := { a.1 with settings := a.1.settings.filter (fun y => y != x) }
        let r := startActivation n cold x.ring x.tag s
        (r.1, a.2 ++ r.2)
      else if x.deferred then a
      else
        let s := { a.1 with settings := a.1.settings.map (fun y => if y = x then { y with deferred := true } else y) }
        (s, a.2 ++ [{ ring := x.ring, tag := x.tag, status := 0x08, detail := 0, result := 0, aux := 0, interim := true }])
    | _ => a) (s, [])

/-- The reason code that the check of a warm activation gives slot n, whose signature was good when it was loaded; an image
with which the part shipped passes. -/
def warmReason (n : Nat) (s : State) : Nat :=
  if (slotOf n s).image.isEmpty then 0 else imageReason (slotOf n s).image true s

/-- The new image reports ready: its checks passed (R439, R445). -/
def handoverReadyEffect (s : State) : State :=
  match s.fw.handover with
  | none => s
  | some (n, rn, tag) =>
    let b := slotBytes n s
    if warmReason n s ≠ 0 then s
    else
      let s := match s.fw.active with | some a => moveSlot a .valid s | none => s
      let s := moveSlot n .active s
      let s := modFw s (fun f => { f with active := some n, bootSlot := n, handover := none })
      let s := completeActivation b s
      let s := postEvent deviceOwner 0x8002 0 n (imgVersion b) s
      finish rn tag 0x00 0 (halves (imgVersion b) s.fw.svnFloor.toNat) 0 s

/-- HANDOVER_READY. -/
def execHandoverReady (s : State) : Result := whenUp s handoverReadyEffect

/-- No ready report: the old image restarts from the handover block, whose gains it takes. The reason is the failing
check's, else 0x09 (R445). -/
def handoverTimeoutEffect (s : State) : State :=
  match s.fw.handover with
  | none => s
  | some (n, rn, tag) =>
    let r := warmReason n s
    let reason := if r = 0 then 9 else r
    let s := moveSlot n .invalid (modFw s (fun f => { f with handover := none }))
    let s := modPwr s (fun p => { p with gains := s.fw.handoverBlock })
    finish rn tag 0x3F reason 0 0 (postEvent deviceOwner 0x8003 2 n reason s)

/-- HANDOVER_TIMEOUT. -/
def execHandoverTimeout (s : State) : Result := whenUp s handoverTimeoutEffect

/-! ## The watchdog (R434) -/

/-- What a teller that stays down leaves: the firmware descriptors in progress complete as later ones do. -/
def tellerDownEnds (s : State) : State :=
  let s := s.fw.loading.foldl (fun s e => moveSlot e.1 .invalid (finish e.2.1 e.2.2 0x3F 0x10 0 0 s)) s
  let s := modFw s (fun f => { f with loading := [] })
  s.settings.foldl (fun s x =>
    match x.kind with
    | .fwActivate n _ =>
      moveSlot n .valid (finish x.ring x.tag 0x3F 0x10 0 0 { s with settings := s.settings.filter (fun y => y != x) })
    | _ => s) s

/-- The watchdog expires: the teller restarts, or at the third expiry within one hour stays in reset. -/
def watchdogEffect (s : State) : State :=
  if tellerUp s = false then s
  else
    let now := operatingNow s
    let l := s.fw.restarts.filter (fun t => now < t + 3600000)
    let down := decide (2 ≤ l.length)
    let l := if down then l else l ++ [now]
    let s := (modFw s (fun f => { f with restarts := l, tellerRestarting := !down, tellerDown := down })).bump (kFw 2)
    let s := postEvent deviceOwner 0x8004 2 0 (l.length % 256) s
    if down then tellerDownEnds s else s

/-- TELLER_WATCHDOG_EXPIRY. -/
def execTellerWatchdogExpiry (s : State) : Result := whenUp s watchdogEffect

/-- A write of FW_KICK restarts the watchdog, whose next expiry comes as a command (assumption log 7). -/
def execFwKick (_value : Word) (s : State) : Result := whenOn s (fun s => s)

/-! ## Attestation (R451 to R458) -/

/-- Leaves of the device key. -/
def leafCount : Nat := 1048576

/-- The leaf counter: the larger of the copies whose complement matches (R453). -/
def leafIndex (s : State) : Option Nat :=
  let a := s.fw.leafA
  let b := s.fw.leafB
  if a.2 && b.2 then some (max a.1 b.1) else if a.2 then some a.1 else if b.2 then some b.1 else none

/-- Why a quote completes with RETIRED at once: the key is exhausted, or neither copy of the counter is good. -/
def quoteRetired (s : State) : Option Nat :=
  match leafIndex s with
  | none => some 2
  | some i => if leafCount ≤ i then some 1 else none

/-- FW_QUOTE taken: the quote joins the batch. -/
def fwQuoteEffect (rn : Nat) (s : State) : State :=
  match headOf 0x8A rn s with
  | none => s
  | some f =>
    match quoteRetired s with
    | some d => finish rn f.tag 0x32 d 0 0 (popHead rn s)
    | none =>
      let q : Quote :=
        { ring := rn, tag := f.tag, part := (s.ring rn).owner, nonce := sub f.bytes 16 32,
          addr := BitVec.ofNat 64 (u64 f.bytes 48) }
      modFw (popHead rn s) (fun w => { w with batch := w.batch ++ [q] })

/-- A FW_QUOTE descriptor. -/
def execFwQuote (ring : RingNo) (s : State) : Result := whenUp s (fwQuoteEffect ring)

/-- Strict mode (R383). -/
def strictMode (s : State) : Bool :=
  s.pwr.fixed && s.parts.all (fun e =>
    match e.2.state with
    | .free => true
    | .faulted => true
    | _ => e.2.strict.all (fun b => b))

/-- Bytes of the configuration record. -/
def configBytes (o n : Nat) : Bytes := (upFrom o n).map Config.configRecord

/-- The Active image, empty when none is. -/
def activeImage (s : State) : Bytes := match s.fw.active with | some a => slotBytes a s | none => []

/-- A quote entry (Table 16-10). -/
def quoteEntry (q : Quote) (s : State) : Bytes :=
  let p := s.part q.part
  let own := decide (q.part < 8)
  let b := activeImage s
  q.nonce ++ toLE q.part 1 ++
    toLE (b2n (strictMode s) + 2 * b2n s.pwr.fixed + 4 * b2n (own && p.state == .running)) 1 ++ toLE 0 2 ++
    toLE moduleRevision 4 ++ configBytes 8 8 ++ toLE s.time.tread.toNat 6 ++ toLE 0 2 ++ toLE (imgVersion b) 4 ++
    toLE s.fw.svnFloor.toNat 4 ++ shake256 (sub b 0 1024) 32 ++
    shake256 (configBytes 0 0x1100 ++ (if own then sub p.record.raw 0 128 else List.replicate 128 0)) 32

/-- A batch of up to 64 closes, and its entries are captured: not during a handover or a rebuild, nor before the last
closed batch is signed (R456, R457). -/
def batchCloseEffect (s : State) : State :=
  if s.fw.batch.isEmpty || s.fw.handover.isSome || !s.fw.traversalOk || !s.fw.closed.isEmpty then s
  else
    modFw s (fun w =>
      { w with batch := w.batch.drop 64, closed := (w.batch.take 64).map (fun q => (q, quoteEntry q s)) })

/-- QUOTE_BATCH_CLOSE. -/
def execQuoteBatchClose (s : State) : Result := whenUp s batchCloseEffect

/-- The leaf of an entry. -/
def leafHash (entry : Bytes) : Bytes := shake256 (0x00 :: entry) 32

/-- A node of two children. -/
def nodeHash (l r : Bytes) : Bytes := shake256 (0x01 :: (l ++ r)) 32

/-- The level above a level of the tree. -/
def levelAbove : List Bytes → List Bytes
  | a :: b :: rest => nodeHash a b :: levelAbove rest
  | _ => []

/-- The seven levels of the tree, the 64 leaves first (R458). -/
def treeLevels (entries : List Bytes) : List (List Bytes) :=
  let leaves := (List.range 64).map (fun e =>
    match entries[e]? with | some x => leafHash x | none => List.replicate 32 0)
  (List.range 6).foldl (fun ls _ => ls ++ [levelAbove (ls.getLastD [])]) [leaves]

/-- The number of the neighbour of a node in its level. -/
def siblingOf (i : Nat) : Nat := if i % 2 = 0 then i + 1 else i - 1

/-- Sibling nodes of entry e, lowest level first. -/
def siblings (levels : List (List Bytes)) (e : Nat) : Bytes :=
  ((List.range 6).map (fun l => (levels.getD l []).getD (siblingOf (e / 2 ^ l)) [])).flatten

/-- The signed batch header (R458). -/
def batchHeader (leaf count : Nat) (root : Bytes) : Bytes :=
  toLE leaf 4 ++ toLE (leafCount - (leaf + 1)) 4 ++ toLE count 1 ++ toLE 0 7 ++ root ++ configBytes 8 8 ++ toLE 0 8

/-- A quote record (R458). -/
def quoteRecord (entry header sibs sig : Bytes) (e : Nat) : Bytes :=
  entry ++ header ++ toLE e 1 ++ toLE 0 7 ++ sibs ++ sig ++ List.replicate 52 0

/-- A quote record written where its descriptor says (assumption log 18), and its completion. -/
def releaseQuote (leaf : Nat) (q : Quote) (bs : Bytes) (s : State) : State :=
  let s := if quoteInHbm q.part q.addr.toNat s then hbmWrite q.addr.toNat bs s
    else toHost q.addr.toNat bs false s
  finish q.ring q.tag 0x00 0 (halves leaf (leafCount - (leaf + 1))) 0 (s.bump (kFw 0))

/-- KEY_LOW when the remaining leaves fall to 65,536, and KEY_EXHAUSTED at the last, which ends the waiting quotes
(R454). -/
def keyEvents (next : Nat) (s : State) : State :=
  let left := leafCount - next
  let s := if left ≤ 65536 ∧ s.fw.keyLowPosted = false then
      postEvent deviceOwner 0x8005 1 0 left (modFw s (fun f => { f with keyLowPosted := true }))
    else s
  if left = 0 ∧ s.fw.keyOutPosted = false then
    let s := postEvent deviceOwner 0x8006 2 0 0 (modFw s (fun f => { f with keyOutPosted := true }))
    let l := s.fw.batch
    l.foldl (fun s q => finish q.ring q.tag 0x32 1 0 0 s) (modFw s (fun f => { f with batch := [] }))
  else s

/-- A closed batch is signed with the next leaf, which is counted before the signature is released (R453, R458). -/
def signBatch (writeOk : Bool) (s : State) : State :=
  match s.fw.closed, leafIndex s with
  | [], _ => s
  | l, none => l.foldl (fun s x => finish x.1.ring x.1.tag 0x32 2 0 0 s) (modFw s (fun f => { f with closed := [] }))
  | l, some i =>
    let s := modFw s (fun f => { f with closed := [] })
    if leafCount ≤ i then l.foldl (fun s x => finish x.1.ring x.1.tag 0x32 1 0 0 s) s
    else if writeOk = false then
      let s := uncorrected { type := 0x15, index := 0 } 0 deviceOwner (modFw s (fun f => { f with leafA := (i + 1, false) }))
      l.foldl (fun s x => finish x.1.ring x.1.tag 0x31 3 0 0 s) s
    else
      let s := (modFw s (fun f => { f with leafA := (i + 1, true), leafB := (i + 1, true) })).bump (kFw 1)
      let levels := treeLevels (l.map Prod.snd)
      let header := batchHeader i l.length ((levels.getLastD []).headD [])
      let sig := (List.range 2820).map (Config.signature i header)
      let s := l.zipIdx.foldl (fun s x =>
        releaseQuote i x.1.1 (quoteRecord x.1.2 header (siblings levels x.2) sig x.2) s) s
      keyEvents (i + 1) s

/-- BATCH_SIGNED: not while the traversal state is rebuilt (R454). -/
def execBatchSigned (writeOk : Bool) (s : State) : Result :=
  whenUp s (fun s => if s.fw.traversalOk then signBatch writeOk s else s)

/-- TRAVERSAL_REBUILD_END: a batch that closed before is signed now (R454). -/
def execTraversalRebuildEnd (s : State) : Result :=
  whenUp s (fun s => if s.fw.traversalOk then s else signBatch true (modFw s (fun f => { f with traversalOk := true })))

end Sys2Proof.Machine
end

