-- ==== Sys2Proof/Machine/Mac.lean ====
section
/-!
DEFINITION. The optical ports and the MAC (12_optical_ports.md, R341 to R363): bring-up and loss of links, flow control,
secure channels, neighbour discovery, the checks of received frames, and the retirement of lanes and links.
-/
namespace Sys2Proof.Machine

/-! ## Link state (R344, R345, R358) -/

/-- Whether the optical engine of a link is on (Table 15-4). -/
def engineOn (n : Nat) (s : State) : Bool := !s.pwr.opticsOff.contains (n / 16)

/-- The stage in which a link waits that is not up: for light while its port is enabled and its lasers are on. -/
def restStage (n : Nat) (s : State) : Bringup :=
  if (s.port (n / 4)).enable && linkExists n s && engineOn n s then .waiting else .dark

/-- A link put where its bring-up starts: the PCS sends local fault from there until it locks (Table 12-3). `remote` says whether
remote fault is received. -/
def restLink (n : Nat) (remote : Bool) (s : State) : State :=
  let st := restStage n s
  s.modLink n (fun l => { l with stage := st, held := [], localFault := st == .waiting, remoteFault := remote })

/-- A link loses what it needs: one that is up goes down with the cause, is counted, and is down for the fabric; one that
is not up runs the steps of Table 12-3 again (R345). Only a link that keeps signal and lock goes on receiving remote fault. -/
def linkFalls (n cause : Nat) (s : State) : State :=
  let wasUp := (s.link n).stage == .up
  let s := restLink n (cause == 3 || (cause == 4 && (s.link n).remoteFault)) s
  if wasUp then fabricDown n ((postEvent deviceOwner 0x6002 1 n cause s).bump (kLink n 0xB4)) else s

/-- The four links of a port. -/
def portLinks (q : Nat) : List Nat := upFrom (4 * q) 4

/-- The device lane that is lane i of a link (R341). -/
def deviceLane (n i : Nat) (s : State) : Nat := if (s.port (n / 4)).breakout then n else n / 4 * 4 + i

/-- The device lanes of a link. -/
def linkLanes (n : Nat) (s : State) : List Nat := if (s.port (n / 4)).breakout then [n] else upFrom (n / 4 * 4) 4

/-- A retired lane goes dark; the link or the port that it served goes down (R358). -/
def retireLane (lane : Nat) (s : State) : State :=
  let q := lane / 4
  if (s.port q).retired.contains (lane % 4) then s
  else
    let s := s.modPort q (fun p => { p with retired := p.retired ++ [lane % 4] })
    let s := postEvent deviceOwner 0x6004 2 q lane s
    linkFalls (if (s.port q).breakout then lane else 4 * q) 5 s

/-- Lanes and links of the retirement record that are not out of service yet go out at once (Table 17-5). -/
def settleOptics (s : State) : State :=
  s.flt.retired.foldl (fun s e =>
    if e.res.type = 3 then retireLane e.res.index s
    else if e.res.type = 4 ∧ (s.link e.res.index).stage ≠ .dark then linkFalls e.res.index 5 s
    else s) s

/-- SIGNAL_DETECTED on every lane of a link (Table 12-3). -/
def execSignalDetected (link : LinkNo) (s : State) : Result :=
  whenUp s (fun s => if (s.link link).stage = .waiting then s.modLink link (fun l => { l with stage := .signal }) else s)

/-- ALIGNMENT_MARKER_LOCK: LOCK is 1. -/
def execAlignmentMarkerLock (link : LinkNo) (s : State) : Result :=
  whenUp s (fun s =>
    if (s.link link).stage = .signal then s.modLink link (fun l => { l with stage := .locked, localFault := false })
    else s)

/-- A link that held its lock for 10 ms comes up. -/
def linkUpEffect (n : Nat) (s : State) : State :=
  if (s.link n).stage = .locked then
    postEvent deviceOwner 0x6001 0 n (b2n (!(s.port (n / 4)).breakout))
      (s.modLink n (fun l => { l with stage := .up, remoteFault := false }))
  else s

/-- LINK_UP. -/
def execLinkUp (link : LinkNo) (s : State) : Result := whenUp s (linkUpEffect link)

/-- The uncorrected events of a loss of signal or lock: of the one lane that lost it while the others of its link keep
theirs, else, for a link that was up and lost lock, of the link (R358, R464). -/
def lossEvents (n cause : Nat) (lane : Option Nat) (s : State) : State :=
  let several := !(s.port (n / 4)).breakout
  match lane with
  | some i =>
    if several && (cause == 1 || cause == 2) then
      uncorrected { type := 3, index := deviceLane n i s } 0 deviceOwner s
    else if cause = 2 ∨ cause = 4 then uncorrected { type := 4, index := n } 0 deviceOwner s
    else s
  | none => if cause = 2 ∨ cause = 4 then uncorrected { type := 4, index := n } 0 deviceOwner s else s

/-- A loss of cause 1 to 4; the fifth comes with the write or the retirement that it names (R345). -/
def linkDownEffect (n cause : Nat) (lane : Option Nat) (s : State) : State :=
  let st := (s.link n).stage
  if cause = 0 ∨ st = .dark ∨ st = .waiting then s
  else
    let wasUp := st == .up
    let s := linkFalls n cause s
    settleOptics (if wasUp then lossEvents n cause lane s else s)

/-- LINK_DOWN. -/
def execLinkDown (link : LinkNo) (cause : Fin 5) (lane : Option (Fin 4)) (s : State) : Result :=
  whenUp s (linkDownEffect link cause (lane.map Fin.val))

/-- A 1 ms interval: counts, power readings, whether remote fault is received, FEC_DEGRADE, the corrected events of lanes and of
the link, and the loss of a link with too many uncorrected codewords (R345, R358, R362, R464, R502). -/
def fecEffect (n cor unc : Nat) (symbols : List Nat) (powers : List (Half × Half)) (remote : Bool) (s : State) : State :=
  let s := s.modLink n (fun l => { l with powers := powers, remoteFault := remote && l.stage != .dark })
  let st := (s.link n).stage
  if st ≠ .locked ∧ st ≠ .up then s
  else
    let p := s.port (n / 4)
    let s := (s.bump (kLink n 0x9C) cor).bump (kLink n 0xA0) unc
    let s := symbols.zipIdx.foldl (fun s x => s.bump (kLink n (0xA4 + 4 * x.2)) x.1) s
    let bad := symbols.zipIdx.filter (fun x => decide (p.fecSym.toNat < x.1))
    let s := s.modLink n (fun l => { l with fecDegrade := decide (p.fecUnc.toNat < unc) || !bad.isEmpty })
    let s := bad.foldl (fun s x => corrected { type := 3, index := deviceLane n x.2 s } s) s
    let s := if unc ≠ 0 then corrected { type := 4, index := n } s else s
    let s := if p.fecUnc.toNat < unc then linkDownEffect n 4 none s else s
    settleOptics s

/-- FEC_INTERVAL. -/
def execFecInterval (link : LinkNo) (corrected uncorrected : Nat) (symbols : List Nat) (powers : List (Half × Half))
    (s : State) (remoteFault : Bool := false) : Result :=
  whenUpWf (Instr.wellFormed (.fecInterval link corrected uncorrected symbols powers remoteFault)) "FEC_INTERVAL" s
    (fecEffect link corrected uncorrected symbols powers remoteFault)

/-! ## The optical engines (Table 15-4, Table 15-12) -/

/-- The links of the four ports of an optical engine (R341). -/
def engineLinks (e : Nat) : List Nat := upFrom (16 * e) 16

/-- The lasers of an engine go off, and its ports down. -/
def opticsOffEffect (e : Nat) (temp : Half) (s : State) : State :=
  if s.pwr.opticsOff.contains e then s
  else
    let s := modPwr s (fun p => { p with opticsOff := addOnce p.opticsOff e, emergSince := true })
    let s := postEvent deviceOwner 0x7004 2 e (1 + 65536 * temp.toNat) s
    (engineLinks e).foldl (fun s n => linkFalls n 1 s) s

/-- OPTICS_OFF. -/
def execOpticsOff (engine : Fin 4) (temp : Half) (s : State) : Result := whenOn s (opticsOffEffect engine temp)

/-- The lasers of an engine come on again, and bring-up restarts. -/
def opticsOnEffect (e : Nat) (temp : Half) (s : State) : State :=
  if s.pwr.opticsOff.contains e then
    let s := modPwr s (fun p => { p with opticsOff := dropAll p.opticsOff e })
    let s := postEvent deviceOwner 0x7004 2 e (65536 * temp.toNat) s
    (engineLinks e).foldl (fun s n => restLink n false s) s
  else s

/-- OPTICS_ON. -/
def execOpticsOn (engine : Fin 4) (temp : Half) (s : State) : Result := whenOn s (opticsOnEffect engine temp)

/-! ## Flow control (R349, R350) -/

/-- The priorities that a pause of priority p covers: all of them under FLOW 1, where the whole link pauses. -/
def pauseSet (n p : Nat) (s : State) : List Nat := if (s.port (n / 4)).flow = 1 then List.range 8 else [p]

/-- Transmission of priorities resumes: the frames that waited for them go out in order. -/
def resumePriorities (n : Nat) (ps : List Nat) (s : State) : State :=
  let l := s.link n
  let paused := l.paused.filter (fun p => !ps.contains p)
  let go := l.held.filter (fun f => !paused.contains (classPriority f.cls))
  let s := s.modLink n (fun l =>
    { l with paused := paused, held := l.held.filter (fun f => paused.contains (classPriority f.cls)) })
  go.foldl (fun s f => wireSend n f s) s

/-- Priorities stop, except those in storm, for which received pause is ignored (R350). -/
def stopPriorities (n : Nat) (ps : List Nat) (s : State) : State :=
  s.modLink n (fun l => { l with paused := (l.paused ++ ps.filter (fun p => !l.storm.contains p)).eraseDups })

/-- A PAUSE frame under FLOW 1; under any other it is dropped at step 5 (Table 12-4). -/
def pauseEffect (n : Nat) (quanta : Half) (s : State) : State :=
  let s := countRx n 64 s
  if (s.port (n / 4)).flow ≠ 1 then s.bump (kLink n 0x84)
  else
    let s := s.bump (kLink n 0x50)
    if quanta = 0 then resumePriorities n (List.range 8) s else stopPriorities n (List.range 8) s

/-- PAUSE_FRAME. -/
def execPauseFrame (link : LinkNo) (quanta : Half) (s : State) : Result := whenUp s (pauseEffect link quanta)

/-- A PFC frame under FLOW 2: each enabled priority stops, or resumes where its quanta are 0. -/
def pfcEffect (n : Nat) (enable : Byte) (quanta : List Half) (s : State) : State :=
  let s := countRx n 64 s
  if (s.port (n / 4)).flow ≠ 2 then s.bump (kLink n 0x84)
  else
    let ps := setBits enable.toNat 8
    let s := ps.foldl (fun s p => s.bump (kLink n (0x54 + 4 * p))) s
    let zero := ps.filter (fun p => quanta.getD p 0 == 0)
    stopPriorities n (ps.filter (fun p => quanta.getD p 0 != 0)) (resumePriorities n zero s)

/-- PFC_FRAME. -/
def execPfcFrame (link : LinkNo) (enable : Byte) (quanta : List Half) (s : State) : Result :=
  whenUpWf (Instr.wellFormed (.pfcFrame link enable quanta)) "PFC_FRAME" s (pfcEffect link enable quanta)

/-- PAUSE_EXPIRED: the pause time has run out. -/
def execPauseExpired (link : LinkNo) (priority : Fin 8) (s : State) : Result :=
  whenUp s (fun s => resumePriorities link (pauseSet link priority s) s)

/-- The flow-control frame of some quanta that a link sends, counted as sent. -/
def sendPause (quanta : Half) (s : State) (n : Nat) : State :=
  let flow := (s.port (n / 4)).flow
  if (s.link n).stage ≠ .up ∨ flow = 0 then s
  else
    ((s.emit (.flowControl n (flow == 2) (if flow = 2 then [4, 5, 6] else []) quanta)).bump (kLink n 0x74)).bump
      (kLink n (0x24 + 4 * sizeBin 64))

/-- What a port does at an occupancy of its receive buffer: XOFF from the upper threshold on, again while it stays above the
lower one, and quanta 0 once it falls to that (R349). -/
def bufferEffect (q occupancy : Nat) (s : State) : State :=
  let s := s.modPort q (fun p => { p with occupancy := min occupancy bufferBytes })
  let p := s.port q
  let on := if p.xoffSent then decide (1024 * p.xon.toNat < p.occupancy) else decide (1024 * p.xoff.toNat ≤ p.occupancy)
  if p.flow = 0 ∨ (on || p.xoffSent) = false then s
  else (portLinks q).foldl (sendPause (if on then 0xFFFF else 0)) (s.modPort q (fun p => { p with xoffSent := on }))

/-- XOFF_REPEAT: half the pause time has passed, or the buffer of a port has come to an occupancy at which it acts. -/
def execXoffRepeat (port : PortNo) (s : State) (occupancy : Nat := 0) : Result := whenUp s (bufferEffect port occupancy)

/-- A pause without a break for MAC_PAUSE_WD µs: the link enters storm for the priority. -/
def stormEffect (n p : Nat) (s : State) : State :=
  let q := s.port (n / 4)
  let ps := pauseSet n p s
  let l := s.link n
  if q.wdEn = false ∨ l.paused.contains p = false then s
  else
    let gone := l.held.filter (fun f => ps.contains (classPriority f.cls))
    let s := s.modLink n (fun l =>
      { l with storm := (l.storm ++ ps).eraseDups, paused := l.paused.filter (fun x => !ps.contains x),
               held := l.held.filter (fun f => !ps.contains (classPriority f.cls)) })
    let s := s.bump (kLink n 0x98) gone.length
    fabricDown n (postEvent deviceOwner 0x6003 2 n (if q.flow = 1 then 0xFF else p) s)

/-- PAUSE_STORM. -/
def execPauseStorm (link : LinkNo) (priority : Fin 8) (s : State) : Result := whenUp s (stormEffect link priority)

/-- STORM_END: 10 ms without a pause of the priority. -/
def execStormEnd (link : LinkNo) (priority : Fin 8) (s : State) : Result :=
  whenUp s (fun s =>
    let ps := pauseSet link priority s
    s.modLink link (fun l => { l with storm := l.storm.filter (fun x => !ps.contains x) }))

/-! ## Received frames that are dropped (Table 12-4) -/

/-- FRAME_DROP. -/
def execFrameDrop (link : LinkNo) (frame : EthFrame) (s : State) : Result := whenUp s (dropEffect link frame)

/-! ## Neighbour discovery (R346, R357) -/

/-- A MAC address as it stands on the wire. -/
def macBytes (n : Nat) : Bytes := (toLE (macAddress n) 6).reverse

/-- The LLDPDU of a link: Chassis ID, Port ID, TTL of 120 s, End (R357). -/
def lldpdu (n : Nat) : Bytes :=
  [0x02, 0x07, 0x04] ++ macBytes 0 ++ [0x04, 0x07, 0x03] ++ macBytes n ++ [0x06, 0x02, 0x00, 0x78, 0x00, 0x00]

/-- LLDP_SEND. -/
def execLldpSend (link : LinkNo) (s : State) : Result :=
  whenUp s (fun s =>
    let l := s.link link
    if l.lldpTx && l.stage == .up then
      (s.emit (.lldpdu link (lldpdu link))).bump (kLink link (0x24 + 4 * sizeBin 64))
    else s)

/-- LLDPDU_RECEIVED: up to 1,536 bytes are kept. -/
def execLldpduReceived (link : LinkNo) (bytes : Bytes) (s : State) : Result :=
  whenUp s (fun s =>
    let s := s.modLink link (fun l => { l with lldp := (bytes ++ l.lldp.drop bytes.length).take 1536, lldpLen := min 1536 bytes.length })
    countRx link (bytes.length + 18) (s.bump (kLink link 0x4C)))

/-- LLDP_TTL_EXPIRY. -/
def execLldpTtlExpiry (link : LinkNo) (s : State) : Result :=
  whenUp s (fun s => s.modLink link (fun l => { l with lldpLen := 0 }))

/-! ## Port registers (R343, R349, R361) -/

/-- Whether the optical engines have been calibrated since reset: their Boot step has ended (R483, R493). -/
def portsTrained (s : State) : Bool := s.dev.state != .boot || decide (8 < s.dev.bootStep)

/-- ENABLE of a port set to v: 0 takes every link down, 1 starts the bring-up of each (R343, R344). -/
def setEnable (q : Nat) (v : Bool) (s : State) : State :=
  let old := (s.port q).enable
  let s := s.modPort q (fun p =>
    { p with enable := v, occupancy := if v then p.occupancy else 0, xoffSent := v && p.xoffSent })
  if old && !v then (portLinks q).foldl (fun s n => linkFalls n 5 s) s
  else if !old && v then (portLinks q).foldl (fun s n => restLink n false s) s
  else s

/-- A write of MAC_PORT_CTL (Table 12-9). -/
def portCtlWrite (q : Nat) (v : Word) (s : State) : State :=
  let n := v.toNat
  let s := markUnbound (bits n 24 8 != 0 || bits n 12 8 != 0 || bits n 6 3 != 0 || bits n 2 2 != 0) s
  let s := s.modPort q (fun p =>
    if p.enable then { p with wdEn := bit n 5 }
    else { p with wdEn := bit n 5, breakout := bit n 4, macsec := bit n 9,
                  flow := if bits n 10 2 = 3 then p.flow else bits n 10 2 })
  setEnable q (bit n 0) s

/-- PORT_ENABLE: a write of MAC_PORT_CTL. -/
def execPortEnable (port : PortNo) (value : Word) (s : State) : Result :=
  whenBound s (fun s => if cxlUp s && portsTrained s then portCtlWrite port value s else s)

/-- PORT_DISABLE: a write of MAC_PORT_CTL. -/
def execPortDisable (port : PortNo) (value : Word) (s : State) : Result :=
  whenBound s (fun s => if cxlUp s && portsTrained s then portCtlWrite port value s else s)

/-- A write of a port's control block at an offset (R361). -/
def portBlockWrite (q off : Nat) (v : Word) (s : State) : State :=
  let n := v.toNat
  match off with
  | 0x00 => portCtlWrite q v s
  | 0x04 =>
    if bits n 16 16 ≤ bits n 0 16 then s
    else s.modPort q (fun p => { p with xoff := BitVec.ofNat 16 (bits n 16 16), xon := BitVec.ofNat 16 (bits n 0 16) })
  | 0x08 =>
    let s := markUnbound (bits n 16 16 != 0) s
    s.modPort q (fun p => { p with pauseWd := BitVec.ofNat 16 (bits n 0 16) })
  | 0x0C => s.modPort q (fun p => { p with fecSym := BitVec.ofNat 16 (bits n 16 16), fecUnc := BitVec.ofNat 16 (bits n 0 16) })
  | _ => s

/-- A write of MAC_LINK_CFG (Table 12-10). -/
def linkCfgWrite (k : Nat) (v : Word) (s : State) : State :=
  let n := v.toNat
  let s := markUnbound (bits n 16 16 != 0 || bit n 12) s
  s.modLink k (fun l =>
    { l with lldpTx := bit n 15, tag := bit n 14, strict := bit n 13,
             vid := if bits n 0 12 = 0xFFF then l.vid else BitVec.ofNat 12 (bits n 0 12) })

/-! ## Secure channels (R351 to R354) -/

/-- The links of a port that no longer have a channel to send through go down for the fabric (R352). -/
def checkSecured (q : Nat) (s : State) : State :=
  (portLinks q).foldl (fun s n => if (neighbourOf n s).up && !linkCarries n s then fabricDown n s else s) s

/-- A channel removed: VALID and every SA_VALID bit clear, keys and salts zero (R353). -/
def removedChannel (c : Secy) : Secy :=
  { c with valid := false, saValid := [false, false, false, false],
           sas := (List.range 4).map (fun k => { saOf c k with key := List.replicate 8 0, salt := [0, 0, 0] }) }

/-- SA_VALID of a word 0. -/
def saBits (n : Nat) : List Bool := (List.range 4).map (fun k => bit n (4 + k))

/-- Word 0 of a channel that is in use: only VALID, TX_AN and SA_VALID take the write. A write that would uninstall the SA of
the present TX_AN is ignored, and TX_AN takes only an installed one (R353). -/
def usedChannelWrite (c : Secy) (n : Nat) : Secy :=
  let sv := saBits n
  if bit n 31 = false then removedChannel c
  else if c.saValid.getD c.txAn false && !sv.getD c.txAn false then c
  else
    { c with saValid := sv, txAn := if sv.getD (bits n 26 2) false then bits n 26 2 else c.txAn }

/-- Word 0 of a channel that is not in use; the cipher suite changes only while the port is disabled (R343). -/
def freeChannelWrite (enabled : Bool) (c : Secy) (n : Nat) : Secy :=
  { c with valid := bit n 31, tx := bit n 30, link := bits n 28 2, txAn := bits n 26 2,
           xpn := if enabled then c.xpn else bit n 25, window := BitVec.ofNat 8 (bits n 8 8), saValid := saBits n }

/-- Word k of a secure association: KEY0 to KEY7, PN, SSCI and SALT (Table 12-7). -/
def saWrite (k : Nat) (v : Word) (x : Sa) : Sa :=
  if k < 8 then { x with key := x.key.set k v }
  else if k = 8 then { x with pn := BitVec.ofNat 64 (x.pn.toNat / 2 ^ 32 * 2 ^ 32 + v.toNat), spent := false }
  else if k = 9 then { x with pn := BitVec.ofNat 64 (v.toNat * 2 ^ 32 + x.pn.toNat % 2 ^ 32), spent := false }
  else if k = 10 then { x with ssci := v }
  else { x with salt := x.salt.set (k - 11) v }

/-- A write of word w of channel i of port q. -/
def secWrite (q i w : Nat) (v : Word) (s : State) : State :=
  let c := channelOf q i s
  let n := v.toNat
  if w = 0 then
    let s := markUnbound (bits n 16 9 != 0 || bits n 0 4 != 0) s
    checkSecured q (setChannel q i
      (if c.valid then usedChannelWrite c n else freeChannelWrite (s.port q).enable c n) s)
  else if w ≤ 2 then
    if c.valid then s
    else
      let lo := c.sci.toNat % 2 ^ 32
      let hi := c.sci.toNat / 2 ^ 32
      setChannel q i { c with sci := BitVec.ofNat 64 (if w = 1 then hi * 2 ^ 32 + n else n * 2 ^ 32 + lo) } s
  else if w < 8 then markUnbound (n != 0) s
  else
    let a := (w - 8) / 14
    if c.valid && c.saValid.getD a false then s
    else setChannel q i (setSa c a (saWrite ((w - 8) % 14) v (saOf c a))) s

/-- SECURE_CHANNEL_REMOVE: a write of word 0 of a channel. -/
def execSecureChannelRemove (port : PortNo) (channel : Fin 16) (value : Word) (s : State) : Result :=
  whenBound s (fun s => if cxlUp s && portsTrained s then secWrite port channel 0 value s else s)

/-! ## The wake pattern (R360) -/

/-- A write of MAC_WAKE_TX in Ready or Running, for a port that is disabled, while no pattern is being sent. A lane 0 that is
retired stays dark (R358). -/
def wakeWrite (v : Word) (s : State) : State :=
  let n := v.toNat
  let s := markUnbound (bits n 20 11 != 0) s
  let q := bits n 16 4
  let c : Half := BitVec.ofNat 16 (bits n 0 16)
  if s.dev.state ≠ .up ∨ s.regs.wakeBusy = true ∨ (s.port q).enable = true then s
  else
    let s := { s with regs := { s.regs with wakePort := BitVec.ofNat 4 q, wakeCode := c, wakeBusy := c != 0 } }
    if c = 0 || (s.port q).retired.contains 0 then s else s.emit (.wake q c)

/-- WAKE_PATTERN_SEND. -/
def execWakePatternSend (value : Word) (s : State) : Result :=
  whenBound s (fun s => if cxlUp s then wakeWrite value s else s)

/-- WAKE_PATTERN_END: the lane goes dark. -/
def execWakePatternEnd (s : State) : Result :=
  whenUp s (fun s => { s with regs := { s.regs with wakeBusy := false } })

end Sys2Proof.Machine
end

