-- ==== Sys2Proof/Machine/HostAttach.lean ====
section
/-!
DEFINITION. The attachment to the processor die (14_host_attach.md, R392 to R410): training and width of the UCIe modules,
snoops, and host accesses to the HDM range.
-/
namespace Sys2Proof.Machine

/-- Counter HST_REPLAY (Table 14-7). -/
def kReplay : Nat := 0x0B0010
/-- Counter HST_RETRAIN. -/
def kRetrain : Nat := 0x0B0014

/-- The state with the host-attach section changed. -/
def modHost (s : State) (f : HostLink → HostLink) : State := { s with host := f s.host }

/-- The half-modules of a module (R392). -/
def moduleHalves (m : Nat) : List Nat := [2 * m, 2 * m + 1]

/-- Width of a module: 32 lanes for each trained half (R396). -/
def moduleWidth (m : Nat) (s : State) : Nat := 32 * ((moduleHalves m).filter (fun h => s.host.halves.contains h)).length

/-- Event LINK_WIDTH, when the width of a module is not what it was (R397). -/
def widthEvent (m old : Nat) (s : State) : State :=
  let new := moduleWidth m s
  if new = old then s else postEvent deviceOwner 0xB001 1 m (new + 256 * old) s

/-- Retired half-modules of the record that still run go dark at once (R398, Table 17-5). -/
def settleHalves (s : State) : State :=
  s.flt.retired.foldl (fun s e =>
    let h := e.res.index
    if e.res.type ≠ 5 ∨ s.host.halvesRetired.contains h = true then s
    else
      let old := moduleWidth (h / 2) s
      widthEvent (h / 2) old (modHost s (fun x =>
        { x with halvesRetired := x.halvesRetired ++ [h], halves := x.halves.filter (· != h) }))) s

/-- Every retirement of the record that takes effect at once has it (Table 17-5). -/
def settleRetired (s : State) : State := settleHalves (settleOptics s)

/-- The half-modules of a module that training tries: those not retired (R398). -/
def triedHalves (m : Nat) (s : State) : List Nat :=
  (moduleHalves m).filter (fun h => !(s.flt.retired.map Retired.res).contains { type := 5, index := h })

/-- The lane tests of a module: the halves that passed are trained, each failed one is an uncorrected event, and retired
ones are not tried (R396, R398, R464). -/
def laneTests (m : Nat) (pass0 pass1 : Bool) (s : State) : State :=
  let tried := triedHalves m s
  let ok := fun h => if h % 2 = 0 then pass0 else pass1
  let s := modHost s (fun x =>
    { x with halves := x.halves.filter (fun h => h / 2 != m) ++ tried.filter ok })
  (tried.filter (fun h => !ok h)).foldl (fun s h => uncorrected { type := 5, index := h } 0 deviceOwner s) s

/-- The training of a module ends: its width changes from `old` to what its lane tests leave, and what waited for a module
goes (R396, R397, R400). -/
def trainModule (m old : Nat) (pass0 pass1 : Bool) (s : State) : State :=
  settleRetired (widthEvent m old (flushHost (laneTests m pass0 pass1 s)))

/-- UCIE_TRAINING_END: a module trains in Boot (R396, R483). -/
def execUcieTrainingEnd (module : ModuleNo) (half0 half1 : Bool) (s : State) : Result :=
  whenBound s (fun s =>
    if s.dev.state = .boot ∧ moduleWidth module s = 0 then trainModule module 0 half0 half1 s else s)

/-- The corrected events of a retrain: one for each half-module whose lanes caused it (R464). -/
def retrainEvents (m : Nat) (lanes0 lanes1 : Bool) (s : State) : State :=
  let s := if lanes0 then corrected { type := 5, index := 2 * m } s else s
  if lanes1 then corrected { type := 5, index := 2 * m + 1 } s else s

/-- Whether a module may retrain: it is trained already, it does not retrain now, and its halves are not both retired
(R397, R398). -/
def mayRetrain (m : Nat) (s : State) : Bool :=
  linkTrained s && (tget? s.host.retraining m).isNone && !(triedHalves m s).isEmpty

/-- A module whose replays in 1 ms exceed RETRY_LIM, or whose sideband reports an error, retrains, one that is down too; its
flits move to the others (R397). The replays are counted whether or not it does. -/
def retrainEffect (m replays : Nat) (linkError lanes0 lanes1 : Bool) (s : State) : State :=
  let s := s.bump kReplay replays
  let lim := s.regs.hstRetryLim.toNat
  let w := moduleWidth m s
  if mayRetrain m s = false ∨ (linkError = false ∧ (lim = 0 ∨ replays ≤ lim)) then s
  else
    let s := modHost s (fun x =>
      { x with halves := x.halves.filter (fun h => h / 2 != m), retraining := tset x.retraining m w })
    settleRetired (retrainEvents m lanes0 lanes1 (s.bump kRetrain))

/-- UCIE_RETRAIN. -/
def execUcieRetrain (module : ModuleNo) (replays : Nat) (linkError lanes0 lanes1 : Bool) (s : State) : Result :=
  whenBound s (retrainEffect module replays linkError lanes0 lanes1)

/-- A retrain ends within 8 µs at the width that the lane tests leave. -/
def retrainEndEffect (m : Nat) (pass0 pass1 : Bool) (s : State) : State :=
  match tget? s.host.retraining m with
  | none => s
  | some old =>
    let s := modHost s (fun x => { x with retraining := tdel x.retraining m })
    trainModule m old pass0 pass1 s

/-- UCIE_RETRAIN_END. -/
def execUcieRetrainEnd (module : ModuleNo) (half0 half1 : Bool) (s : State) : Result :=
  whenBound s (retrainEndEffect module half0 half1)

/-- HOST_SNOOP: the device cache holds the line Shared or Invalid and gives it up unmodified, in every device state in which
CXL.cache is up (R402, Table 14-5). -/
def execHostSnoop (line : Nat) (s : State) : Result :=
  whenBound s (fun s => if cxlUp s then s.emit (.snoopAnswer line) else s)

/-! ## The HDM range (R403 to R405, R465, R471) -/

/-- Whether Memory_Active is set and the HBM runs (R483, R484). -/
def memoryActive (s : State) : Bool :=
  cxlUp s && (s.isUp || (s.isOn && decide (10 < s.dev.bootStep)))

/-- A host write of a line: the host's own copy needs no snoop. -/
def hostLineWrite (a : Nat) (bs : Bytes) (s : State) : State :=
  let lines := s.host.hostLines
  let s := hbmWrite a bs (modHost s (fun x => { x with hostLines := [] }))
  modHost s (fun x => { x with hostLines := lines })

/-- A CXL.mem access at host address addr: HBM device address a lies at HDM base + a; the host may hold a line that it
has read. -/
def hdmEffect (addr : Nat) (write : Option Bytes) (s : State) : State :=
  match s.host.hdm with
  | none => s
  | some base =>
    if memoryActive s = false ∨ addr < base ∨ base + 2 ^ 40 ≤ addr then s
    else
      let a := addr - base
      match write with
      | none =>
        let s' := modHost s (fun x => { x with hostLines := (x.hostLines ++ [a / 64]).eraseDups })
        s'.emit (.hdmData (hbmRead a 64 s) (hbmPoisoned a 64 s))
      | some bs => if hbmUsable s < a + 64 then s else hostLineWrite a bs s

/-- HDM_ACCESS. -/
def execHdmAccess (addr : Nat) (write : Option Bytes) (s : State) : Result :=
  if Instr.wellFormed (.hdmAccess addr write) then whenBound s (hdmEffect addr write)
  else .refused (.illFormed "HDM_ACCESS")

/-- HDM_DECODER_COMMIT (R405). -/
def execHdmDecoderCommit (base : Option Nat) (s : State) : Result :=
  whenBound s (fun s => if cxlUp s then modHost s (fun x => { x with hdm := base }) else s)

/-! ## The teller's decisions after a restart -/

/-- TELLER_RESTART_DONE: the teller runs again and decides from the counts that the hardware kept (R434, R470). -/
def execTellerRestartDone (s : State) : Result :=
  whenUp s (fun s =>
    if s.fw.tellerRestarting then
      settleRetired (tellerDecides (modFw s (fun f => { f with tellerRestarting := false })))
    else s)

end Sys2Proof.Machine
end

