-- ==== Sys2Proof/Machine/Sequences.lean ====
section
/-!
DEFINITION. Sequence slots at landings, and the ends of their copies and zero-fills (10_sparsity_and_sequences.md, R299 to
R308). The setting commands stand in Machine/Settings.lean.
-/
namespace Sys2Proof.Machine

/-- A slot of a partition replaced. -/
def setSeq (p n : Nat) (x : SeqSlot) (s : State) : State := s.modPart p (fun q => { q with seqs := tset q.seqs n x })

/-! ## Pages (R301) -/

/-- Pages of 65,536 bytes that hold f bytes. -/
def pagesFor (f : Nat) : Nat := (f + 65535) / 65536

/-- Pages that the streams of a slot hold. -/
def heldPages (x : SeqSlot) : List Nat := (x.streams.map Stream.pages).flatten

/-- The unheld pages of the pool, rising. -/
def freePages (q : Partition) : List Nat :=
  let held := (q.seqs.map (fun e => heldPages e.2)).flatten
  (List.range (q.record.kvSize / 65536)).filter (fun p => !held.contains p)

/-- Pages that a stream holds after step 4 of a landing (R301). -/
def streamPages (t : Stream) : Nat := pagesFor t.fill + 1

/-- renew (R305): the pages that a slot's streams ask for, less those that they hold beyond their fill points. -/
def renewOf (x : SeqSlot) : Int := (x.streams.map (fun t => (streamPages t : Int) - t.pages.length)).sum

/-- Extents that a park of the slot needs (R306). -/
def parkExtents (x : SeqSlot) : Nat := (x.streams.map (fun t => pagesFor t.fill)).sum

/-- A page of the pool made zero, with its zero-fill running (R301, R307). -/
def zeroPage (p pg : Nat) (s : State) : State :=
  let a := poolAddr (s.part p) pg
  let s := snoopLines a 65536 s
  let s := { s with hbm := s.hbm.zero a 65536, hbmPoison := clearMarks s.hbmPoison 64 a 65536 }
  s.modPart p (fun q => { q with zeroing := if q.zeroing.contains pg then q.zeroing else q.zeroing ++ [pg] })

/-- Stream j of slot n brought to hold ceil(f / 65,536) + 1 pages: the lowest free ones are granted, and pages beyond them
return to the pool (R301, R305). -/
def grantStream (p n j : Nat) (s : State) : State :=
  let q := s.part p
  let x := seqOf q n
  let t := streamOf x j
  let more := (freePages q).take (streamPages t - t.pages.length)
  let s := more.foldl (fun s pg => zeroPage p pg s) s
  setSeq p n { x with streams := setAt x.streams j { t with pages := t.pages.take (streamPages t) ++ more } } s

/-- Every stream of a slot granted its pages, ascending. -/
def grantSlot (p n : Nat) (s : State) : State :=
  (List.range (seqOf (s.part p) n).streams.length).foldl (fun s j => grantStream p n j s) s

/-! ## Parking and unparking (R306, R307) -/

/-- Page i of stream j lies at this offset of the parked bytes. -/
def parkOffset (j i : Nat) : Nat := 0x40000000 * j + 65536 * i

/-- The written pages of a slot: stream, index, page. -/
def writtenPages (x : SeqSlot) : List (Nat × Nat × Nat) :=
  (x.streams.zipIdx.map (fun (t, j) => ((t.pages.take (pagesFor t.fill)).zipIdx.map (fun (pg, i) => (j, i, pg))))).flatten

/-- The bytes of those pages as parked bytes. -/
def parkBytes (q : Partition) (x : SeqSlot) (m : Memory) : Memory :=
  ((writtenPages x).map (fun w => (m.slice (poolAddr q w.2.2) 65536).map (fun c => (parkOffset w.1 w.2.1 + c.1, c.2)))).flatten

/-- Their poison marks. -/
def parkMarks (q : Partition) (x : SeqSlot) (marks : List Nat) : List Nat :=
  ((writtenPages x).map (fun w =>
    let b := poolAddr q w.2.2
    (marks.filter (fun l => b ≤ l * 64 && l * 64 < b + 65536)).map (fun l => (parkOffset w.1 w.2.1 + (l * 64 - b)) / 64))).flatten

/-- Vault extents in use under the stash vault limit: V of R241 with the parked sequences (R306). -/
def vaultInUse (q : Partition) : Nat := extentsIn .vaulted q.stash + q.returning.2 + parkedExtents q

/-- A slot without its pages. -/
def dropPages (x : SeqSlot) : SeqSlot := { x with streams := x.streams.map (fun t => { t with pages := [] }) }

/-- park(s, cause) with cause 1 reserve or 2 host: the state, and the extents taken when they fit (R306). -/
def parkSlot (p n cause : Nat) (s : State) : State × Option Nat :=
  let q := s.part p
  let x := seqOf q n
  let e := parkExtents x
  if vaultInUse q + e ≤ q.vaultLimit / 65536 then
    let y : SeqSlot :=
      { dropPages x with state := .parked, extents := e, parked := parkBytes q x s.hbm,
                         parkedPoison := parkMarks q x s.hbmPoison, copying := (writtenPages x).map (fun w => w.2.2) }
    (postEvent p 0xA001 0 n (e + 2 ^ 32 * cause) ((setSeq p n y s).bump (kUsh 5)), some e)
  else if cause = 2 then (setSeq p n { x with state := .running } s, none)
  else
    let s := setSeq p n SeqSlot.atReset s
    (postEvent p 0xA002 1 n (heldPages x).length (s.bump (kUsh 6)), none)

/-- The parked bytes of a slot written into its pages, which its unpark copy fills, after the snoops of lines that the host
holds (R307, R403). -/
def unparkBytes (p n : Nat) (s : State) : State :=
  let q := s.part p
  let x := seqOf q n
  let s := (writtenPages x).foldl (fun s w =>
    let o := parkOffset w.1 w.2.1
    let a := poolAddr q w.2.2
    let bad := (x.parkedPoison.filter (fun l => o ≤ l * 64 && l * 64 < o + 65536)).map (fun l => (a + (l * 64 - o)) / 64)
    let s := snoopLines a 65536 s
    { s with hbm := s.hbm.paste a 65536 (x.parked.slice o 65536), hbmPoison := s.hbmPoison ++ bad }) s
  setSeq p n { x with copying := (writtenPages x).map (fun w => w.2.2) } s

/-! ## The sequence landing (R305) -/

/-- The slot of a sequence setting. -/
def seqSlotOf : SettingKind → Option Nat
  | .seqJoin n _ _ _ => some n
  | .seqLeave n => some n
  | .seqPark n => some n
  | .seqUnpark n => some n
  | .seqPrio n _ => some n
  | _ => none

/-- A completion of a setting. -/
def doneOf (x : Setting) (status detail lo hi : Nat) : Done :=
  { ring := x.ring, tag := x.tag, status := status, detail := detail, result := halves lo hi, aux := 0 }

/-- Pending priorities applied, in acceptance order. -/
def stepPrios (p : Nat) (due : List Setting) (s : State) : State × List Done :=
  due.foldl (fun a x =>
    match x.kind with
    | .seqPrio n v => (setSeq p n { seqOf (a.1.part p) n with prio := v } a.1, a.2 ++ [doneOf x 0x00 0 v 0])
    | _ => a) (s, [])

/-- Settings of one kind, by ascending slot. -/
def bySlot (pick : SettingKind → Bool) (due : List Setting) : List (Nat × Setting) :=
  sortBy (fun a b => a.1 ≤ b.1) (due.filterMap (fun x => if pick x.kind then (seqSlotOf x.kind).map (·, x) else none))

/-- Departures: Leaving slots return what they hold. -/
def stepLeaves (p : Nat) (due : List Setting) (s : State) : State × List Done :=
  (bySlot (fun k => match k with | .seqLeave _ => true | _ => false) due).foldl (fun a x =>
    let y := seqOf (a.1.part p) x.1
    let n := (heldPages y).length + y.extents
    (setSeq p x.1 SeqSlot.atReset a.1, a.2 ++ [doneOf x.2 0x00 0 n 0])) (s, [])

/-- Parks asked for by the host. -/
def stepParks (p : Nat) (due : List Setting) (s : State) : State × List Done :=
  (bySlot (fun k => match k with | .seqPark _ => true | _ => false) due).foldl (fun a x =>
    match parkSlot p x.1 2 a.1 with
    | (s, some e) => (s, a.2 ++ [doneOf x.2 0x00 0 e 0])
    | (s, none) => (s.bump (kUsh 4), a.2 ++ [doneOf x.2 0x13 3 0 0])) (s, [])

/-- Running slots of a partition. -/
def runningSeqs (q : Partition) : List (Nat × SeqSlot) := q.seqs.filter (fun e => e.2.state == .running)

/-- The slot that makes room next: the lowest priority, ties to the highest join order number. -/
def victim (l : List (Nat × SeqSlot)) : Option (Nat × SeqSlot) :=
  match l with
  | [] => none
  | x :: xs => some (xs.foldl (fun b y =>
      if y.2.prio < b.2.prio ∨ (y.2.prio = b.2.prio ∧ b.2.join < y.2.join) then y else b) x)

/-- Parks that free pages for the renewals, with pmax + 1 (0 for none); `fuel` bounds them. -/
def stepReserve (p : Nat) : Nat → Nat → State → State × Nat
  | 0, pmax, s => (s, pmax)
  | fuel + 1, pmax, s =>
    let q := s.part p
    let run := runningSeqs q
    let need := (run.map (fun e => renewOf e.2)).sum
    if need ≤ ((freePages q).length : Int) then (s, pmax)
    else
      match victim run with
      | none => (s, pmax)
      | some v => stepReserve p fuel (max pmax (v.2.prio + 1)) (parkSlot p v.1 1 s).1

/-- Renewals granted, ascending slot then stream. -/
def stepRenew (p : Nat) (s : State) : State :=
  (runningSeqs (s.part p)).foldl (fun s e => grantSlot p e.1 s) s

/-- Joins and unparks in the order of R305: priority descending, unparks first, then acceptance order. -/
def askers (p : Nat) (due : List Setting) (s : State) : List (Nat × Setting × Bool) :=
  let l := due.filterMap (fun x =>
    match x.kind with
    | .seqJoin n _ _ _ => some (n, x, false)
    | .seqUnpark n => some (n, x, true)
    | _ => none)
  let key := fun (a : (Nat × Setting × Bool) × Nat) =>
    (255 - (seqOf (s.part p) a.1.1).prio, if a.1.2.2 then 0 else 1, a.2)
  let before := fun (a b : (Nat × Setting × Bool) × Nat) =>
    let x := key a
    let y := key b
    x.1 < y.1 || (x.1 == y.1 && (x.2.1 < y.2.1 || (x.2.1 == y.2.1 && x.2.2 < y.2.2)))
  (sortBy before l.zipIdx).map Prod.fst

/-- Pages that a join or unpark asks for. -/
def pagesOf (x : SeqSlot) (unpark : Bool) : Nat :=
  if unpark then (x.streams.map streamPages).sum else x.streams.length * (pagesFor x.i0 + 1)

/-- Pages of a join: each stream holds those for i0 and one more. -/
def grantJoin (p n : Nat) (s : State) : State :=
  let x := seqOf (s.part p) n
  let want := pagesFor x.i0 + 1
  (List.range x.streams.length).foldl (fun s j =>
    let q := s.part p
    let y := seqOf q n
    let more := (freePages q).take want
    let s := more.foldl (fun s pg => zeroPage p pg s) s
    setSeq p n { y with streams := setAt y.streams j { streamOf y j with pages := more } } s) s

/-- One join or unpark decided. -/
def stepJoin (p pmax : Nat) (a : State × List Done) (q : Nat × Setting × Bool) : State × List Done :=
  let x := seqOf (a.1.part p) q.1
  let k := pagesOf x q.2.2
  let refuse := fun (d : Nat) =>
    let y := if q.2.2 then { x with state := .parked } else SeqSlot.atReset
    ((setSeq p q.1 y a.1).bump (kUsh 4), a.2 ++ [doneOf q.2.1 0x13 d 0 0])
  if x.prio < pmax then refuse 2
  else if (freePages (a.1.part p)).length < k then refuse 1
  else
    let join := (a.1.part p).joins
    let s := (a.1.modPart p (fun r => { r with joins := r.joins + 1 })).bump (kUsh 3)
    let s := setSeq p q.1 { x with state := .running, join := join } s
    let s := if q.2.2 then unparkBytes p q.1 (grantSlot p q.1 s) else grantJoin p q.1 s
    (s, a.2 ++ [doneOf q.2.1 0x00 0 k join])

/-- Fill points of the landing, which the next flight's writes are held against (R302, R308). -/
def landFills (p : Nat) (s : State) : State :=
  s.modPart p (fun q => { q with seqs := tmap q.seqs (fun _ x =>
    { x with streams := x.streams.map (fun t => { t with landed := t.fill }) }) })

/-- Step 4 of Table 2-9 for a partition with its due settings. -/
def seqStep4 (p : Nat) (due : List Setting) (s : State) : State × List Done :=
  let a := stepPrios p due s
  let b := stepLeaves p due a.1
  let c := stepParks p due b.1
  let r := stepReserve p 2048 0 c.1
  let s := stepRenew p r.1
  let d := (askers p due s).foldl (stepJoin p r.2) (s, [])
  (landFills p d.1, a.2 ++ b.2 ++ c.2 ++ d.2)

/-- A broken landing: fill points return, and the bytes of held pages at or above them are zeroed (R308). -/
def seqBroken (p : Nat) (s : State) : State :=
  (s.part p).seqs.foldl (fun s e =>
    (List.range e.2.streams.length).foldl (fun s j =>
      let q := s.part p
      let x := seqOf q e.1
      let t := streamOf x j
      let s := t.pages.zipIdx.foldl (fun s (pg, i) =>
        let from_ := t.landed - 65536 * i
        if from_ < 65536 then
          let a := poolAddr q pg + from_
          let n := 65536 - from_
          let s := snoopLines a n s
          let s := { s with hbm := s.hbm.zero a n, hbmPoison := clearMarks s.hbmPoison 64 a n }
          s.modPart p (fun q => { q with zeroing := if q.zeroing.contains pg then q.zeroing else q.zeroing ++ [pg] })
        else s) s
      setSeq p e.1 { x with streams := setAt x.streams j { t with fill := t.landed } } s) s) s

/-! ## Ends of copies and zero-fills (R307) -/

/-- A slot's park or unpark copy ends; after an unpark copy the parked extents return to the pool. -/
def parkEndEffect (n : Nat) (s : State) : State :=
  let p := slotHolder n s
  if 8 ≤ p then s
  else
    let x := seqOf (s.part p) n
    if x.copying.isEmpty then s
    else if (heldPages x).isEmpty then setSeq p n { x with copying := [] } s
    else setSeq p n { x with copying := [], extents := 0, parked := [], parkedPoison := [] } s

/-- PARK_COPY_END of a slot. -/
def execParkCopyEnd (slot : SeqNo) (s : State) : Result := whenUp s (parkEndEffect slot)

/-- A page's zero-fill ends, unless a park copy has yet to read the page. -/
def zeroEndEffect (p pg : Nat) (s : State) : State :=
  let q := s.part p
  if q.seqs.any (fun e => e.2.copying.contains pg && !(heldPages e.2).contains pg) then s
  else s.setPart p { q with zeroing := q.zeroing.filter (· != pg) }

/-- ZERO_FILL_END of a page of a partition's pool. -/
def execZeroFillEnd (part : PartNo) (page : Nat) (s : State) : Result := whenUp s (zeroEndEffect part page)

end Sys2Proof.Machine
end

