-- ==== Sys2Proof/Machine/Settings.lean ====
section
/-!
DEFINITION. Settings held pending (02_treads_and_landings.md, R33 to R37, R58, R59) and the descriptors that carry them;
each one's fields are those of its home chapter. What a landing does with them stands in Machine/Landing.lean.
-/
namespace Sys2Proof.Machine

/-! ## Same settings and same landings (R59) -/

/-- What setting a write writes: two writes with equal keys write the same setting. -/
def settingKey : SettingKind → Nat × Nat
  | .mintSet k _ => (0, k)
  | .freezeSet n _ _ _ _ => (1, n)
  | .genSet k _ _ => (2, k)
  | .stashSet _ _ _ => (3, 0)
  | .watchSet k _ _ => (4, k)
  | .turnSet p _ _ _ => (5, p)
  | .preempt p => (6, p)
  | .evict n => (7, n)
  | .seqJoin n _ _ _ => (8, n)
  | .seqLeave n => (9, n)
  | .seqPark n => (10, n)
  | .seqUnpark n => (11, n)
  | .seqPrio n _ => (12, n)
  | .cap _ => (13, 0)
  | .vf _ _ _ _ => (14, 0)
  | .period _ => (15, 0)
  | .slipBound _ => (16, 0)
  | .leader _ => (17, 0)
  | .fwActivate _ _ => (18, 0)

/-- The flight that a partition's next landing would begin (R58). -/
def upcomingFlight (q : Partition) : Word :=
  match q.flight with
  | some f => flightAfter f.plan.flight
  | none => nextFlight q

/-- Whether a waiting partition's flight begins at the coming riser, as far as this device can tell (R35). -/
def beginsNext (q : Partition) (s : State) : Bool :=
  q.flight.isNone && (match readyPlan q s with | some g => g.members == 1 | none => false)

/-- Risers to the landing that ends a partition's flight, when nothing slips; 1 when no flight is in progress. -/
def risersLeft (q : Partition) (s : State) : Nat :=
  match q.flight with
  | none => 1
  | some f => if s.time.kind = .normal then max 1 (f.plan.length - f.pos) else f.plan.length - f.pos + 1

/-- Partitions whose flights a device landing waits for (R57). -/
def landingParts (s : State) : List Nat :=
  (tkeys s.parts).filter (fun p => let q := s.part p; q.state == .running || q.state == .draining)

/-- The tread count of the next landing of a scope. -/
def nextLanding (scope : Nat) (s : State) : Nat :=
  let n := if scope < 8 then risersLeft (s.part scope) s
    else (landingParts s).foldl (fun m p => max m (risersLeft (s.part p) s)) 1
  s.time.tread.toNat + n

/-- The landing at which a write with this target would take effect, as it stands now (R58, R59): the next riser of a
waiting partition, the landing that begins a flight, or the first landing at or after a riser. -/
def landingOf (owner scope : Nat) (target : Word) (s : State) : Nat × Nat :=
  if owner < 8 then
    let q := s.part owner
    let up := upcomingFlight q
    let waits := q.flight.isNone && !beginsNext q s
    if target = 0 then (if waits then (0, 0) else (1, up.toNat))
    else if waits ∧ target = up then (2, up.toNat)
    else (1, target.toNat)
  else
    let first := nextLanding scope s
    (3, if target ≠ 0 ∧ newer target (BitVec.ofNat 32 first) = true then target.toNat else first % 2 ^ 32)

/-- Whether the landing that a target names has passed: BAD_STATE with the partition's or the stairwell's state code. -/
def targetPassed (owner : Nat) (target : Word) (s : State) : Option Reject :=
  if target = 0 then none
  else if owner < 8 then
    let q := s.part owner
    if flightEarlier target (upcomingFlight q) then some (badState q.state.code) else none
  else if newer target (BitVec.ofNat 32 s.time.tread.toNat) then none
  else some (badState s.stw.state.code)

/-- Whether a pending write is the same setting for the same landing as a new one of ring rn. -/
def sameLanding (rn scope : Nat) (target : Word) (kind : SettingKind) (s : State) (x : Setting) : Bool :=
  x.scope == scope && settingKey x.kind == settingKey kind &&
    ((settingKey kind).1 == 18 ||
      landingOf (s.ring x.ring).owner scope x.target s == landingOf (s.ring rn).owner scope target s)

/-- A replaced write is dropped; its descriptor completes with ABORTED once none of its settings is left (R59). -/
def replaceSetting (s : State) (x : Setting) : State :=
  let l := s.settings.filter (fun y => y != x)
  let s := { s with settings := l }
  if l.any (fun y => y.ring == x.ring && y.tag == x.tag) then s else finish x.ring x.tag 0x3F 0 0 0 s

/-- The head descriptor f of ring rn held pending with its settings, each replacing an equal one of the same ring for the
same landing; one of another ring refuses it, with a detail that the manual does not state (R58, R59; log 8). -/
def pendSettings (rn : Nat) (f : Fetched) (kinds : List (Nat × SettingKind)) (s : State) : State :=
  let target := BitVec.ofNat 32 (u32 f.bytes 8)
  match targetPassed (s.ring rn).owner target s with
  | some r => rejectHead rn f r s
  | none =>
    let old := s.settings.filter (fun x => kinds.any (fun k => sameLanding rn k.1 target k.2 s x))
    if old.any (fun x => x.ring != rn) then rejectHead rn f (badState (s.fresh.1.toNat % 256)) s.fresh.2
    else
      let s := old.foldl replaceSetting (popHead rn s)
      { s with settings := s.settings ++ kinds.map (fun k =>
          { ring := rn, tag := f.tag, scope := k.1, target := target, kind := k.2, deferred := false }) }

/-- The head setting of ring rn with opcode `op`, given to `k`. -/
def withSetting (op rn : Nat) (s : State) (k : Fetched → Nat → State → State) : State :=
  match headOf op rn s with
  | none => s
  | some f => k f (ringPart rn s) s

/-! ## FLIGHT_PLAN (R33 to R37) -/

/-- Whether a plan is legal (R34). -/
def planLegal (q : Partition) (flight : Word) (replay : Bool) : Bool :=
  (q.state == .running || q.state == .saved) && !q.plans.any (fun g => g.flight == flight) &&
    (match q.flight with
    | some f => !replay && flight == flightAfter f.plan.flight
    | none => if q.replayDue then replay && flight == q.lastFlight
      else !replay && flight == flightAfter q.lastFlight)

/-- FLIGHT_PLAN is held pending until its flight begins. -/
def flightPlanEffect (rn : Nat) (s : State) : State :=
  withSetting 0x80 rn s (fun f p s =>
    let b := f.bytes
    let q := s.part p
    let n := BitVec.ofNat 32 (u32 b 16)
    let replay := bit (byteAt b 22) 0
    if planLegal q n replay = false then rejectHead rn f (badState q.state.code) s
    else
      let g : Plan :=
        { ring := rn, tag := f.tag, flight := n, length := u16 b 20, set := BitVec.ofNat 16 (u16 b 24),
          members := BitVec.ofNat 16 (u16 b 26), replay := replay }
      (popHead rn s).setPart p { q with plans := q.plans ++ [g] })

/-- A FLIGHT_PLAN descriptor. -/
def execFlightPlan (ring : RingNo) (s : State) : Result := whenUp s (flightPlanEffect ring)

/-! ## Device and stairwell settings -/

/-- The settings of an STW_SET (R89). -/
def stwSetKinds (b : Bytes) : List (Nat × SettingKind) :=
  (if u16 b 16 = 0 then [] else [(9, .period (u16 b 16))]) ++
    (if byteAt b 18 = 0 then [] else [(9, .slipBound (byteAt b 18))]) ++
    (if u16 b 20 = 0xFFFF then [] else [(9, .leader (BitVec.ofNat 16 (u16 b 20)))])

/-- STW_SET: not in Forming (Table 2-5); one that sets nothing completes at once. -/
def stwSetEffect (rn : Nat) (s : State) : State :=
  withSetting 0x81 rn s (fun f _ s =>
    if s.stw.state = .forming then rejectHead rn f (badState s.stw.state.code) s
    else
      match stwSetKinds f.bytes with
      | [] => finish rn f.tag 0x00 0 0 0 (popHead rn s)
      | l => pendSettings rn f l s)

/-- A STW_SET descriptor. -/
def execStwSet (ring : RingNo) (s : State) : Result := whenUp s (stwSetEffect ring)

/-- The settings of a PWR_SET (R415). -/
def pwrSetKinds (b : Bytes) : List (Nat × SettingKind) :=
  (if bit (byteAt b 16) 0 then [(8, .cap (u16 b 20))] else []) ++
    (if bit (byteAt b 16) 1 then [(8, .vf (bit (byteAt b 17) 0) (bit (byteAt b 17) 1) (byteAt b 18) (byteAt b 19))]
    else [])

/-- A PWR_SET descriptor. -/
def execPwrSet (ring : RingNo) (s : State) : Result :=
  whenUp s (fun s => withSetting 0x82 ring s (fun f _ s => pendSettings ring f (pwrSetKinds f.bytes) s))

/-- Whether a slot may be activated from ring rn (Table 16-5, R444). -/
def activates (n rn : Nat) (s : State) : Bool :=
  match (slotOf n s).state with
  | .valid => true
  | .pending => s.settings.any (fun x => x.ring == rn && (settingKey x.kind).1 == 18)
  | _ => false

/-- FW_ACTIVATE: its slot becomes Pending. -/
def fwActivateEffect (rn : Nat) (s : State) : State :=
  withSetting 0x83 rn s (fun f _ s =>
    let n := byteAt f.bytes 16
    let cold := bit (byteAt f.bytes 17) 0
    if activates n rn s = false then rejectHead rn f (badState (slotOf n s).state.code) s
    else if cold = false ∧ handoverFits n s = false then rejectHead rn f (badState 2) s
    else if s.fw.tellerDown then finish rn f.tag 0x3F 0x10 0 0 (popHead rn s)
    else
      match targetPassed (s.ring rn).owner (BitVec.ofNat 32 (u32 f.bytes 8)) s with
      | some r => rejectHead rn f r s
      | none => moveSlot n .pending (pendSettings rn f [(8, .fwActivate n cold)] s))

/-- A FW_ACTIVATE descriptor. -/
def execFwActivate (ring : RingNo) (s : State) : Result := whenUp s (fwActivateEffect ring)

/-! ## Partition settings -/

/-- The hyper-parameter set of a MINT_SET body (Table 9-7). -/
def hyperOf (b : Bytes) : HyperSet :=
  let w (o : Nat) : Word := BitVec.ofNat 32 (u32 b o)
  { relative := bit (byteAt b 17) 0, noclip := bit (byteAt b 17) 1, slot := byteAt b 18, lr := w 20, rhomax := w 24,
    c := w 28, eps1 := w 32, eps2 := w 36, d := w 40, lam := w 44, b1 := w 48 }

/-- A MINT_SET descriptor (R263). -/
def execMintSet (ring : RingNo) (s : State) : Result :=
  whenUp s (fun s => withSetting 0x84 ring s (fun f p s =>
    pendSettings ring f [(p, .mintSet (byteAt f.bytes 16) (hyperOf f.bytes))] s))

/-- FREEZE_SET: the mask is read now and held with the setting (R272). -/
def freezeSetEffect (rn : Nat) (s : State) : State :=
  withSetting 0x85 rn s (fun f p s =>
    let b := f.bytes
    let fl := byteAt b 18
    let rows := bit fl 1
    match layerOf (s.part p) (u16 b 16) with
    | none => rejectHead rn f (badState 0) s
    | some l =>
      let n := (l.n + 7) / 8
      if rows ∧ hbmAllowed (s.part p) (u64 b 24) n = false then rejectHead rn f (notOwner 24) s
      else if rows ∧ hbmPoisoned (u64 b 24) n s = true then
        finish rn f.tag 0x30 2 0 0 ((popHead rn s).bump kPoison)
      else
        let mask := if rows then setBits (leNat (hbmRead (u64 b 24) n s)) l.n else []
        pendSettings rn f [(p, .freezeSet (u16 b 16) (bit fl 0) rows (bit fl 2) mask)] s)

/-- A FREEZE_SET descriptor. -/
def execFreezeSet (ring : RingNo) (s : State) : Result := whenUp s (freezeSetEffect ring)

/-- The generator slot of a GEN_SET body (Table 7-9). -/
def genOf (b : Bytes) : GenSlot :=
  { seed := BitVec.ofNat 64 (u64 b 24), stream := BitVec.ofNat 64 (u64 b 32), epoch := BitVec.ofNat 32 (u32 b 20),
    auto := bit (byteAt b 17) 0 }

/-- A GEN_SET descriptor (R226). -/
def execGenSet (ring : RingNo) (s : State) : Result :=
  whenUp s (fun s => withSetting 0x86 ring s (fun f p s =>
    pendSettings ring f [(p, .genSet (byteAt f.bytes 16) (genOf f.bytes) (bit (byteAt f.bytes 17) 1))] s))

/-- A STASH_SET descriptor (R246). -/
def execStashSet (ring : RingNo) (s : State) : Result :=
  whenUp s (fun s => withSetting 0x88 ring s (fun f p s =>
    pendSettings ring f [(p, .stashSet (u64 f.bytes 16) (u64 f.bytes 24) (byteAt f.bytes 32))] s))

/-- A WATCH_SET descriptor (R236). -/
def execWatchSet (ring : RingNo) (s : State) : Result :=
  whenUp s (fun s => withSetting 0x89 ring s (fun f p s =>
    pendSettings ring f
      [(p, .watchSet (byteAt f.bytes 16) (bit (byteAt f.bytes 17) 0) (BitVec.ofNat 64 (u64 f.bytes 24)))] s))

/-- EVICT: an Undefined layer gives BAD_STATE, 0x00 (R294). -/
def evictEffect (rn : Nat) (s : State) : State :=
  withSetting 0x55 rn s (fun f p s =>
    let n := u16 f.bytes 16
    if (layerOf (s.part p) n).isNone then rejectHead rn f (badState 0) s else pendSettings rn f [(p, .evict n)] s)

/-- An EVICT descriptor. -/
def execEvict (ring : RingNo) (s : State) : Result := whenUp s (evictEffect ring)

/-! ## Sequence settings (R299, R303, R304) -/

/-- The state that a sequence setting gives its slot, or none where Table 10-10 has BAD_STATE. -/
def seqMove (op : Nat) (st : SeqState) : Option SeqState :=
  match op, st with
  | 0x58, .free => some .joining
  | 0x59, .running => some .leaving
  | 0x59, .parked => some .leaving
  | 0x5A, .running => some .parking
  | 0x5B, .parked => some .unparking
  | 0x5C, .free => none
  | 0x5C, .leaving => none
  | 0x5C, x => some x
  | _, _ => none

/-- A slot as a SEQ_JOIN leaves it until it is granted. -/
def joiningSlot (b : Bytes) : SeqSlot :=
  { SeqSlot.atReset with
    state := .joining, prio := byteAt b 18, i0 := u32 b 24,
    streams := List.replicate (u16 b 20) { fill := 0, landed := 0, pages := [] } }

/-- A sequence setting accepted: its slot moves as Table 10-10 gives. -/
def seqEffect (op rn : Nat) (kind : Bytes → SettingKind) (s : State) : State :=
  withSetting op rn s (fun f p s =>
    let n := u16 f.bytes 16
    let x := seqOf (s.part p) n
    match seqMove op x.state with
    | none => rejectHead rn f (badState x.state.code) s
    | some st =>
      match targetPassed (s.ring rn).owner (BitVec.ofNat 32 (u32 f.bytes 8)) s with
      | some r => rejectHead rn f r s
      | none =>
        let s := pendSettings rn f [(p, kind f.bytes)] s
        if s.settings.any (fun y => y.ring == rn && y.tag == f.tag) then
          setSeq p n (if op = 0x58 then joiningSlot f.bytes else { x with state := st }) s
        else s)

/-- A SEQ_JOIN descriptor. -/
def execSeqJoin (ring : RingNo) (s : State) : Result :=
  whenUp s (seqEffect 0x58 ring (fun b => .seqJoin (u16 b 16) (byteAt b 18) (u16 b 20) (u32 b 24)))
/-- A SEQ_LEAVE descriptor. -/
def execSeqLeave (ring : RingNo) (s : State) : Result :=
  whenUp s (seqEffect 0x59 ring (fun b => .seqLeave (u16 b 16)))
/-- A SEQ_PARK descriptor. -/
def execSeqPark (ring : RingNo) (s : State) : Result :=
  whenUp s (seqEffect 0x5A ring (fun b => .seqPark (u16 b 16)))
/-- A SEQ_UNPARK descriptor. -/
def execSeqUnpark (ring : RingNo) (s : State) : Result :=
  whenUp s (seqEffect 0x5B ring (fun b => .seqUnpark (u16 b 16)))
/-- A SEQ_PRIO descriptor. -/
def execSeqPrio (ring : RingNo) (s : State) : Result :=
  whenUp s (seqEffect 0x5C ring (fun b => .seqPrio (u16 b 16) (byteAt b 18)))

/-! ## Settings of partitions on device-domain rings (R63, R372, R378) -/

/-- Whether a partition is between states, so that Table 13-6 does not apply (R372, R384). -/
def inSpan (q : Partition) : Bool := q.startPend || q.saveBusy || q.restoreBusy || q.scrub

/-- A partition command that is illegal in the state of partition p: BAD_STATE with the state code. -/
def partStateReject (legal : PartState → Bool) (q : Partition) : Option Reject :=
  if inSpan q || !legal q.state then some (badState q.state.code) else none

/-- The resource whose shares would sum to more than 256 (R370), the lowest. -/
def shareOver (p select : Nat) (shares : List Nat) (s : State) : Option Nat :=
  (setBits select 4).find? (fun r =>
    256 < shares.getD r 0 +
      (((tkeys s.parts).filter (fun x => x != p && (s.part x).state != .free)).map
        (fun x => (s.part x).shares.getD r 0)).sum)

/-- The four shares of a TURN_SET body. -/
def turnShares (b : Bytes) : List Nat := [byteAt b 18, byteAt b 19, byteAt b 20, byteAt b 21]

/-- TURN_SET (Table 13-4): the sum check is made at the landing (R370, R378). -/
def turnSetEffect (rn : Nat) (s : State) : State :=
  withSetting 0x97 rn s (fun f _ s =>
    let b := f.bytes
    let p := byteAt b 16
    let q := s.part p
    if q.scrub ∨ ¬ (q.state = .configured ∨ q.state = .running ∨ q.state = .draining) then
      rejectHead rn f (badState q.state.code) s
    else pendSettings rn f [(p, .turnSet p (byteAt b 17) (turnShares b) (byteAt b 22))] s)

/-- A TURN_SET descriptor. -/
def execTurnSet (ring : RingNo) (s : State) : Result := whenUp s (turnSetEffect ring)

/-- PART_PREEMPT (R63). -/
def partPreemptEffect (rn : Nat) (s : State) : State :=
  withSetting 0x93 rn s (fun f _ s =>
    let p := byteAt f.bytes 16
    match partStateReject (fun st => st == .running) (s.part p) with
    | some r => rejectHead rn f r s
    | none => pendSettings rn f [(p, .preempt p)] s)

/-- A PART_PREEMPT descriptor. -/
def execPartPreempt (ring : RingNo) (s : State) : Result := whenUp s (partPreemptEffect ring)

end Sys2Proof.Machine
end

