-- ==== Sys2Proof/Machine/Partitions.lean ====
section
/-!
DEFINITION. Partition commands, saves, restores, scrubs and their faults (13_partitions_and_isolation.md, R364 to R391;
11_fabric_and_collectives.md, R328). What a riser does with an accepted command stands in Machine/Riser.lean.
-/
namespace Sys2Proof.Machine

/-! ## States and events (R371, R391) -/

/-- An event of the PARTITION class, to the device domain and to the partition. -/
def partEvent (p number severity payload : Nat) (s : State) : State :=
  let code := 0x3000 + number
  postEvent p code severity p payload (postEvent deviceOwner code severity p payload s)

/-- Partition p in another state, with event PART_STATE. -/
def moveState (p : Nat) (st : PartState) (s : State) : State :=
  let old := (s.part p).state
  partEvent p 1 0 (st.code + 256 * old.code) (s.modPart p (fun q => { q with state := st }))

/-- A partition command remembered until its final completion. -/
def rememberCmd (p op rn : Nat) (tag : Word) (s : State) : State :=
  s.modPart p (fun q => { q with cmds := q.cmds ++ [{ opcode := op, ring := rn, tag := tag }] })

/-- The remembered commands of an opcode complete. -/
def endCmds (p op status detail result : Nat) (s : State) : State :=
  let l := (s.part p).cmds.filter (fun c => c.opcode == op)
  let s := s.modPart p (fun q => { q with cmds := q.cmds.filter (fun c => c.opcode != op) })
  l.foldl (fun s c => finish c.ring c.tag status detail result 0 s) s

/-- The partition command at the head of ring rn with opcode `op`: it names partition p and is legal in the states
given (R372). -/
def withPartCmd (op rn : Nat) (legal : PartState → Bool) (s : State) (k : Fetched → Nat → State → State) : State :=
  match headOf op rn s with
  | none => s
  | some f =>
    let p := byteAt f.bytes 16
    match partStateReject legal (s.part p) with
    | some r => rejectHead rn f r s
    | none => k f p s

/-! ## PART_CONFIG (R366 to R370, R373) -/

/-- The configuration record of Table 13-1. -/
def recordOf (b : Bytes) : PartRecord :=
  { wings := BitVec.ofNat 16 (u16 b 0), hbmBase := u16 b 4, hbmSize := u16 b 6, vaultBase := u32 b 8,
    vaultSize := u32 b 12, ringFirst := u16 b 16, ringCount := u16 b 18, tallyFirst := u16 b 20, tallyCount := u16 b 22,
    vectorFirst := u16 b 24, vectorCount := u16 b 26, slotFirst := u16 b 28, slotCount := u16 b 30, context := u64 b 32,
    save := u64 b 40, ckpt := u64 b 48, stashBase := u64 b 56, stashSize := u64 b 64, kvBase := u64 b 72,
    kvSize := u64 b 80, hostBase := u64 b 96, hostSize := u64 b 104, raw := b }

/-- The areas of a record in record order: offset of the base field, base and size (Table 13-2). -/
def recordAreas (r : PartRecord) : List (Nat × Nat × Nat) :=
  ([32, 40, 48].zip (privateAreas r)) ++ [(56, r.stashBase, r.stashSize), (72, r.kvBase, r.kvSize)]

/-- The base fields of areas that do not lie in the HBM share or that overlap an earlier one (R367). -/
def areaFaults (r : PartRecord) : List Nat :=
  let l := recordAreas r
  let bad := l.zipIdx.filter (fun (a, i) =>
    !within (r.hbmBase * 0x40000000) (r.hbmSize * 0x40000000) a.2.1 a.2.2 ||
      (l.take i).any (fun c => overlaps a.2.1 a.2.2 c.2.1 c.2.2))
  bad.map (fun a => a.1.1)

/-- The offsets of the illegal fields of a record (Table 13-1, R369, R471). -/
def recordFaults (b : Bytes) (s : State) : List Nat :=
  let r := recordOf b
  let ok := fun (c : Bool) (o : Nat) => if c then [] else [o]
  let range := fun (first count top o : Nat) => ok (first + count ≤ top) (if first < top then o + 2 else o)
  ok (r.wings != 0) 0 ++ ok (r.hbmBase < 1024) 4 ++
    ok (1 ≤ r.hbmSize && (r.hbmBase + r.hbmSize) * 0x40000000 ≤ hbmUsable s) 6 ++
    ok ((r.vaultSize == 0 || 64 ≤ r.vaultSize) && r.vaultBase + r.vaultSize ≤ vaultUsable s) 12 ++
    ok (3 ≤ r.ringFirst) 16 ++ range r.ringFirst r.ringCount 8192 16 ++ range r.tallyFirst r.tallyCount 8192 20 ++
    range r.vectorFirst r.vectorCount 2048 24 ++ range r.slotFirst r.slotCount 2048 28 ++
    ok (r.context % 65536 == 0) 32 ++ ok (r.save % 65536 == 0) 40 ++ ok (r.ckpt % 65536 == 0) 48 ++
    ok (r.stashBase % 65536 == 0) 56 ++ ok (r.stashSize % 65536 == 0) 64 ++ ok (r.kvBase % 65536 == 0) 72 ++
    ok (r.kvSize % 65536 == 0) 80 ++ areaFaults r ++ ok (byteAt b 88 != 0) 88 ++ ok (byteAt b 91 != 0) 91 ++
    ok (r.hostBase % 4096 == 0 && !(r.hostSize != 0 && touchesHdm r.hostBase r.hostSize s)) 96 ++
    ok (r.hostSize % 4096 == 0) 104

/-- Whether two ranges of numbers share one. -/
def rangesMeet (a n b m : Nat) : Bool := overlaps a n b m && n != 0 && m != 0

/-- Whether two partitions' resources overlap; a saved partition holds no wings (R370, R385). -/
def sharesMeet (r : PartRecord) (q : Partition) : Bool :=
  let t := q.record
  (q.wingsHeld && r.wings &&& t.wings != 0) || rangesMeet r.hbmBase r.hbmSize t.hbmBase t.hbmSize ||
    rangesMeet r.vaultBase r.vaultSize t.vaultBase t.vaultSize || rangesMeet r.ringFirst r.ringCount t.ringFirst t.ringCount ||
    rangesMeet r.tallyFirst r.tallyCount t.tallyFirst t.tallyCount ||
    rangesMeet r.vectorFirst r.vectorCount t.vectorFirst t.vectorCount ||
    rangesMeet r.slotFirst r.slotCount t.slotFirst t.slotCount

/-- Why a configuration record is refused: an illegal field, another partition's resources, a share (R366, R370). -/
def configReject (p : Nat) (b : Bytes) (s : State) : Option Reject :=
  let r := recordOf b
  match (recordFaults b s).foldl (fun m o => some (match m with | none => o | some x => min x o)) none with
  | some o => some (badValue (64 + o))
  | none =>
    match (tkeys s.parts).find? (fun x => x != p && (s.part x).state != .free && sharesMeet r (s.part x)) with
    | some x => some (badState (s.part x).state.code)
    | none => (shareOver p 15 (sub b 88 4 |>.map BitVec.toNat) s).map (fun i => { status := 0x13, detail := i, result := 0 })

/-- A partition as PART_CONFIG makes it (R225, R236, R246, R373). -/
def configured (b : Bytes) : Partition :=
  let r := recordOf b
  { Partition.atReset with
    record := r, wingsHeld := true, shares := (sub b 88 4).map BitVec.toNat,
    strict := (List.range 4).map (bit (byteAt b 92)), hbmLimit := r.stashSize, vaultLimit := 0, fallback := 1 }

/-- The tallies of a share at value 0 and closed. -/
def clearTallies (r : PartRecord) (s : State) : State :=
  { s with tallies := s.tallies.filter (fun e => !inShare r.tallyFirst r.tallyCount e.1) }

/-- The rings of a partition's share that are not Disabled, rising. -/
def shareRings (q : Partition) (s : State) : List Nat :=
  (tkeys s.rings).filter (fun n => inShare q.record.ringFirst q.record.ringCount n && (s.ring n).live?)

/-- The accepted descriptors of a ring that are not merely fetched complete with a status and detail. -/
def endLive (status detail : Nat) (s : State) (n : Nat) : State :=
  let r := s.ring n
  let l := r.live.filter (fun x => !r.fetched.any (fun f => f.tag == x.tag))
  l.foldl (fun s x => finish n x.tag status detail 0 0 s) s

/-- The rings of a new partition's share that the device domain had enabled are Disabled: their descriptors are aborted as by
RING_DISABLE (R81, R373). -/
def disableShare (p : Nat) (s : State) : State :=
  let l := shareRings (s.part p) s
  let s := l.foldl (fun s n => disableRing n none s) s
  closeRings s.rings.length (l.foldl (endLive 0x3F 7) s)

/-- PART_CONFIG, with the record in host memory; its read waits while no module is up (R400). -/
def partConfigEffect (rn : Nat) (b : Bytes) (s : State) : State :=
  match headOf 0x90 rn s with
  | none => s
  | some f =>
    let p := byteAt f.bytes 16
    let early := partStateReject (fun st => st == .free) (s.part p)
    if early.isNone ∧ s.host.halves.isEmpty = true then s
    else
      match early.or (configReject p b s) with
      | some r => rejectHead rn f r s
      | none =>
        let s := clearTallies (recordOf b) ((popHead rn s).setPart p (configured b))
        let s := s.setOwnerBacklog p Backlog.atReset
        disableShare p (finish rn f.tag 0x00 0 0 0 (moveState p .configured s))

/-- A PART_CONFIG descriptor. -/
def execPartConfig (ring : RingNo) (record : Bytes) (s : State) : Result :=
  whenUpWf (Instr.wellFormed (.partConfig ring record)) "PART_CONFIG" s (partConfigEffect ring record)

/-! ## PART_START, PART_STOP, PART_EVICT, PART_RESUME (R64, R375, R376, R386, R387) -/

/-- PART_START: it takes effect at the next riser. -/
def partStartEffect (rn : Nat) (s : State) : State :=
  withPartCmd 0x91 rn (fun st => st == .configured) s (fun f p s =>
    let s := (popHead rn s).modPart p (fun q => { q with startPend := true, takesAt := BitVec.ofNat 48 (comingRiser s) })
    rememberCmd p 0x91 rn f.tag s)

/-- A PART_START descriptor. -/
def execPartStart (ring : RingNo) (s : State) : Result := whenUp s (partStartEffect ring)

/-- PART_STOP: the partition drains, and its pending plans end. -/
def partStopEffect (rn : Nat) (s : State) : State :=
  withPartCmd 0x92 rn (fun st => st == .running) s (fun f p s =>
    let plans := (s.part p).plans
    let s := interim rn f.tag 0 0 0 (rememberCmd p 0x92 rn f.tag (popHead rn s))
    let s := moveState p .draining (s.modPart p (fun q => { q with plans := [] }))
    plans.foldl (fun s g => finish g.ring g.tag 0x3F 6 0 0 s) s)

/-- A PART_STOP descriptor. -/
def execPartStop (ring : RingNo) (s : State) : Result := whenUp s (partStopEffect ring)

/-- A hold announced by this device for a riser (R64). -/
def announceHold (riser : Nat) (s : State) : State :=
  let r := BitVec.ofNat 48 riser
  let s := { s with stw := { s.stw with holdsFor := addHold s.stw.holdsFor r } }
  sendBeacon (newBeacon 3 0 riser [] s) s
where
  /-- A riser listed once. -/
  addHold (l : List (BitVec 48)) (r : BitVec 48) : List (BitVec 48) := if l.contains r then l else l ++ [r]

/-- PART_EVICT: it takes effect at the next riser whose slip deadline has not passed, and the hold is announced. -/
def partEvictEffect (rn : Nat) (s : State) : State :=
  withPartCmd 0x94 rn (fun st => st == .running) s (fun f p s =>
    let waits := (s.part p).cmds.any (fun c => c.opcode == 0x94)
    let r := if waits then (s.part p).takesAt.toNat else nextOpenRiser s
    let s := (popHead rn s).modPart p (fun q => { q with takesAt := BitVec.ofNat 48 r })
    announceHold r (rememberCmd p 0x94 rn f.tag s))

/-- A PART_EVICT descriptor. -/
def execPartEvict (ring : RingNo) (s : State) : Result := whenUp s (partEvictEffect ring)

/-- Another partition that holds a wing of partition p. -/
def wingTaken (p : Nat) (s : State) : Option Nat :=
  (tkeys s.parts).find? (fun x => x != p && (s.part x).wingsHeld && (s.part x).record.wings &&& (s.part p).record.wings != 0)

/-- PART_RESUME: the wings are taken again, and the restore begins at the next riser whose slip deadline has not passed. -/
def partResumeEffect (rn : Nat) (s : State) : State :=
  withPartCmd 0x95 rn (fun st => st == .saved) s (fun f p s =>
    match wingTaken p s with
    | some x => rejectHead rn f (badState (s.part x).state.code) s
    | none =>
      let r := nextOpenRiser s
      let s := (popHead rn s).modPart p (fun q =>
        { q with startPend := true, takesAt := BitVec.ofNat 48 r, wingsHeld := true })
      let s := rememberCmd p 0x95 rn f.tag s
      if (s.part p).evicted then announceHold r s else s)

/-- A PART_RESUME descriptor. -/
def execPartResume (ring : RingNo) (s : State) : Result := whenUp s (partResumeEffect ring)

/-! ## Work that ends with its partition -/

/-- Rings that a partition owns, rising. -/
def ringsOf (p : Nat) (s : State) : List Nat := (tkeys s.rings).filter (fun n => (s.ring n).owner == p && (s.ring n).live?)

/-- Everything in progress of partition p is dropped, the engines' work and its requests among it; its settings that
came from device-domain rings complete with the status and detail. -/
def dropWorkOf (p status detail : Nat) (s : State) : State :=
  let far := s.settings.filter (fun x => x.scope == p && (s.ring x.ring).owner != p)
  let s := far.foldl (fun s x => finish x.ring x.tag status detail 0 0 s) s
  let q := s.part p
  let s := { s with programs := s.programs.filter (fun g => g.part != p), work := s.work.filter (fun w => w.part != p),
                    settings := s.settings.filter (fun x => x.scope != p) }
  let s := modFab s (fun g => { g with requests := g.requests.filter (fun r => r.part != p) })
  s.setPart p { q with
    flight := none, plans := [], poison := none,
    layers := tmap q.layers (fun _ l => if l.job.isSome then { l with state := .idle, job := none, bodies := [] } else l) }

/-- Commands of a partition that end in an error complete with it. -/
def endAllCmds (p status detail : Nat) (s : State) : State :=
  [0x91, 0x92, 0x94, 0x95, 0x96].foldl (fun s op => endCmds p op status detail 0 s) s

/-- Partition p becomes Faulted, for a cause of Table 13-11: its flight set is poisoned and its descriptors in progress
complete with POISONED (R377, R469). -/
def faultPartition (p cause : Nat) (s : State) : State :=
  let s := setPoison p 2 s
  let s := partEvent p 3 2 cause (moveState p .faulted s)
  let s := s.modPart p (fun q =>
    { q with saveBusy := false, restoreBusy := false, saveAsked := none, fenceDue := false, startPend := false, scrub := false })
  let s := endAllCmds p 0x30 2 s
  (ringsOf p s).foldl (endLive 0x30 2) (dropWorkOf p 0x30 2 s)

/-- A read of the context area of partition p met an uncorrected error: it is Faulted (R377, R469). -/
def contextFault (s : State) (p : PartNo) : State :=
  match (s.part p).state with
  | .free => s
  | .faulted => s
  | _ => faultPartition p 4 s

/-! ## PART_RELEASE (R384) -/

/-- PART_RELEASE: the rings of the share are disabled, what was in progress is aborted, and the scrub begins. -/
def partReleaseEffect (rn : Nat) (s : State) : State :=
  withPartCmd 0x96 rn (fun st => st == .configured || st == .saved || st == .faulted) s (fun f p s =>
    let q := s.part p
    let l := shareRings q s
    let s := rememberCmd p 0x96 rn f.tag (popHead rn s)
    let s := s.modPart p (fun q => { q with scrub := true })
    let s := l.foldl (fun s n => disableRing n none s) s
    let s := l.foldl (endLive 0x3F 7) (dropWorkOf p 0x3F 7 s)
    let s := closeRings s.rings.length s
    (upFrom q.record.vectorFirst q.record.vectorCount).foldl (fun s v =>
      match tget? s.vectors v with | none => s | some x => s.setVector v { x with masked := true }) s)

/-- A PART_RELEASE descriptor. -/
def execPartRelease (ring : RingNo) (s : State) : Result := whenUp s (partReleaseEffect ring)

/-- The on-die state of a partition's wings zeroed. -/
def zeroWings (q : Partition) (s : State) : State :=
  let own := fun (a k : Nat) => ownsCore q (a / k)
  { s with cores := s.cores.filter (fun e => !ownsCore q e.1), halls := s.halls.filter (fun e => !ownsHall q e.1),
           pads := s.pads.filter (fun c => !own c.1 262144), bufs := s.bufs.filter (fun c => !ownsHall q (c.1 / 49152)),
           padPoison := s.padPoison.filter (fun l => !own l 8192) }

/-- Bytes that a scrub counts: those of the HBM and vault shares (R384, Table 13-5; assumption log 22). -/
def scrubBytes (q : Partition) : Nat := q.record.hbmSize * 0x40000000 + q.record.vaultSize * 65536

/-- The shares of a partition zeroed. -/
def zeroShares (q : Partition) (s : State) : State :=
  let h := hbmShare q
  let va := q.record.vaultBase * 65536
  let vn := q.record.vaultSize * 65536
  let s := snoopLines h.1 h.2 s
  let s := { s with hbm := s.hbm.zero h.1 h.2, hbmPoison := clearMarks s.hbmPoison 64 h.1 h.2,
                    vault := s.vault.zero va vn, vaultPoison := clearMarks s.vaultPoison 64 va vn,
                    flt := { s.flt with counted := s.flt.counted.filter (fun c =>
                      !(if c.1 = 0 then within h.1 h.2 (c.2 * 64) 64 else within va vn (c.2 * 64) 64)) } }
  clearTallies q.record s

/-- The last byte of a released partition is zeroed: it is Free and SCRUB_DONE posts; an uncorrected error in the scrub
makes it Faulted (R377, R384). -/
def scrubDoneEffect (p : Nat) (ok : Bool) (s : State) : State :=
  let q := s.part p
  if q.scrub = false ∨ (shareRings q s).isEmpty = false then s
  else if ok = false then faultPartition p 3 s
  else
    let n := scrubBytes q
    let s := zeroShares q (if q.wingsHeld then zeroWings q s else s)
    let s := partEvent p 4 0 ((n + 0x3FFFFFFF) / 0x40000000) (moveState p .free s)
    let s := endCmds p 0x96 0x00 0 n s
    (s.setPart p Partition.atReset).setOwnerBacklog p Backlog.atReset

/-- SCRUB_DONE. -/
def execScrubDone (part : PartNo) (readOk : Bool) (s : State) : Result := whenUp s (scrubDoneEffect part readOk)

/-! ## Saves (R385, R386, R388) -/

/-- Whether core c has nothing to run, or the program that it runs stands before a WAIT that is not met (Table 13-8); programs
behind that one stop with it. No page of it is being filled. -/
def coreStopped (c : Nat) (s : State) : Bool :=
  (match (livePrograms s).find? (fun g => g.coreList.contains c) with
    | none => true
    | some g => !programHeld g s && ((coreWaiting g c).isEmpty || coreTallyWaits g c s)) &&
    (s.core c).pages.all (fun e => !e.2.filling)

/-- Whether hall h has nothing in flight, and no vector record or THIN that could run now. -/
def hallStopped (h : Nat) (s : State) : Bool :=
  (s.hall h).dma.isEmpty && (s.hall h).ftq.all (fun f => !f.begun && !fillReady h f s) &&
    (match nextHallOp (hallRecords h s) [] with
    | none => true
    | some (_, _, r, fills) => (hallReads r ++ hallWrites r).any (fun b => fills.contains b))

/-- Whether every admitted piece of a partition's work has ended or stands at a wait point, and its transfers and park and unpark
copies have ended (R386, R388). An UPDATE or STRIKE goes on beside the save (R271). -/
def workStopped (p : Nat) (s : State) : Bool :=
  (s.programs.filter (fun g => g.part == p)).all (fun g => g.coreList.all (fun c => coreStopped c s)) &&
    (s.work.filter (fun w => w.part == p)).all (fun w =>
      decide (w.opcode / 16 ≠ 2) && (w.hall < 256 || w.ready.isNone)) &&
    (hallsOf (s.part p)).all (fun h => hallStopped h s) && (s.part p).seqs.all (fun y => y.2.copying.isEmpty)

/-- SAVE_START: an eviction's save begins once the work has ended or stopped, and with it the drain of its requests. -/
def saveStartEffect (p : Nat) (s : State) : State :=
  let q := s.part p
  if q.saveAsked = some true ∧ q.saveBusy = false ∧ (q.state = .running ∨ q.state = .draining) ∧ workStopped p s = true then
    s.setPart p { q with saveBusy := true, fenceDue := true }
  else s

/-- SAVE_START of a partition. -/
def execSaveStart (part : PartNo) (s : State) : Result := whenUp s (saveStartEffect part)

/-- The on-die state of the wings kept in the save area (Table 13-7). -/
def keepWings (q : Partition) (s : State) : Partition :=
  { q with savedCores := s.cores.filter (fun e => ownsCore q e.1), savedHalls := s.halls.filter (fun e => ownsHall q e.1),
           savedPads := s.pads.filter (fun c => ownsCore q (c.1 / 262144)),
           savedBufs := s.bufs.filter (fun c => ownsHall q (c.1 / 49152)),
           savedPadPoison := s.padPoison.filter (fun l => ownsCore q (l / 8192)) }

/-! ### The save image (Table 13-7) -/

/-- Bytes of the save image of one wing. -/
def wingImageBytes : Nat := 91095040

/-- A saved core: the entries and headers of its pages that are not Free, and its feeder entries and slots where it holds any, whose
layout the manual leaves open (assumption log 113). `b` is the first byte of its wing's image. -/
def saveCore (p : Nat) (flight : Word) (b : Nat) (m : Memory) (e : Nat × Core) : Memory :=
  let k := e.1 % 256
  let c := e.2
  let used := c.pages.filter (fun x => x.2.image.state != .free)
  let m := used.foldl (fun m x =>
    let i := x.2.image
    (m.write (b + 67108864 + 65536 * k + 8192 * x.1) (entryBytes i.entries)).write
      (b + 83886080 + 64 * (8 * k + x.1)) (imageHeader i.type p i.flags flight i.state.code)) m
  let m := if c.feeder.isEmpty then m else m.fill (b + 84803584 + 16384 * k) (Config.savedCore e.1) 16384
  if c.front.isNone && c.back.isNone then m
  else m.fill (b + 88997888 + 4096 * k) (fun o => Config.savedCore e.1 (16384 + o)) 4096

/-- What a saved hall has under way, in a layout that the manual leaves open; nothing where it has none. -/
def saveHall (b : Nat) (m : Memory) (e : Nat × Hall) : Memory :=
  if e.2.ftq.isEmpty && e.2.dma.isEmpty then m
  else m.fill (b + 90046464 + 65536 * (e.1 % 16)) (Config.savedHall e.1) 65536

/-- The image of wing w, the i-th of partition p, in HBM. -/
def saveWing (p : Nat) (s : State) (m : Memory) (x : Nat × Nat) : Memory :=
  let q := s.part p
  let w := x.1
  let b := q.record.save + wingImageBytes * x.2
  let flight := match q.flight with | some f => f.plan.flight | none => q.lastFlight
  let m := (m.zero b wingImageBytes).paste b 67108864 (s.pads.slice (padBase (256 * w)) 67108864)
  let m := m.paste (b + 84017152) 786432 (s.bufs.slice (bufBase (16 * w) 0) 786432)
  let m := (s.cores.filter (fun e => e.1 / 256 == w)).foldl (saveCore p flight b) m
  (s.halls.filter (fun e => wingOfHall e.1 == w)).foldl (saveHall b) m

/-- The HBM lines of the image that carry the poison of saved scratchpad lines (R462). -/
def savedMarks (q : Partition) (s : State) : List Nat :=
  ((wingsOf q).zipIdx.flatMap (fun x =>
    (s.padPoison.filter (fun l => l / 8192 / 256 == x.1)).map (fun l =>
      (q.record.save + wingImageBytes * x.2 + (32 * l - padBase (256 * x.1))) / 64))).eraseDups

/-- The save area of partition p written: its wings in ascending order (R385). -/
def writeSave (p : Nat) (s : State) : State :=
  let q := s.part p
  let n := wingImageBytes * (wingsOf q).length
  let s := snoopLines q.record.save n s
  { s with hbm := (wingsOf q).zipIdx.foldl (saveWing p s) s.hbm,
           hbmPoison := clearMarks s.hbmPoison 64 q.record.save n ++ savedMarks q s }

/-- A save ends: the wings are zeroed and released, and the partition is Saved; or it is Faulted. -/
def partSavedEffect (p : Nat) (ok : Bool) (s : State) : State :=
  let q := s.part p
  if q.saveBusy = false then s
  else if ok = false then faultPartition p 1 s
  else
    let evicted := q.saveAsked == some true && q.flight.isSome
    let s := writeSave p s
    let s := zeroWings q (s.setPart p { keepWings q s with
      saveBusy := false, saveAsked := none, evicted := evicted, wingsHeld := false })
    let s := partEvent p 2 0 (q.holds % 2 ^ 32 + 2 ^ 32 * (q.fenced % 65536)) (moveState p .saved s)
    endCmds p 0x94 0x00 0 (halves q.holds q.fenced) s

/-- PART_SAVED. -/
def execPartSaved (part : PartNo) (readOk : Bool) (s : State) : Result := whenUp s (partSavedEffect part readOk)

/-- REQUEST_FENCE: 64 µs after the start of an eviction's save, the requests that still wait are fenced, also where the save has
ended before (R388). -/
def requestFenceEffect (p : Nat) (s : State) : State :=
  if (s.part p).fenceDue then fenceRequests p (s.modPart p (fun q => { q with fenceDue := false })) else s

/-- REQUEST_FENCE of a partition. -/
def execRequestFence (part : PartNo) (s : State) : Result := whenUp s (requestFenceEffect part)

/-! ## Restores (R387, R389, R469) -/

/-- A table with the entries of another put in. -/
def mergeTable {α : Type} (t u : Table α) : Table α := u.foldl (fun t e => tset t e.1 e.2) t

/-- A memory with the cells of another written into it. -/
def restoreCells (m : Memory) (cells : Memory) : Memory := cells.foldl (fun m (c : Host.Cell) => m.set c.1 c.2) m

/-- The saved on-die state put back into the wings. -/
def returnWings (p : Nat) (s : State) : State :=
  let q := s.part p
  let s := { s with cores := mergeTable s.cores q.savedCores, halls := mergeTable s.halls q.savedHalls,
                    pads := restoreCells s.pads q.savedPads,
                    bufs := restoreCells s.bufs q.savedBufs,
                    padPoison := s.padPoison ++ q.savedPadPoison }
  s.setPart p { q with savedCores := [], savedHalls := [], savedPads := [], savedBufs := [], savedPadPoison := [] }

/-- RESTORE_END: the partition goes on where it stopped, its fenced requests first. -/
def restoreEndEffect (p : Nat) (ok : Bool) (s : State) : State :=
  let q := s.part p
  if q.restoreBusy = false then s
  else if ok = false then faultPartition p 2 s
  else
    let s := (returnWings p s).modPart p (fun q => { q with restoreBusy := false, evicted := false })
    clearsRun (endCmds p 0x95 0x00 0 (halves q.holds 0) (reissueAll p s))

/-- RESTORE_END of a partition. -/
def execRestoreEnd (part : PartNo) (readOk : Bool) (s : State) : Result := whenUp s (restoreEndEffect part readOk)

/-- The partition that holds a core. -/
def coreHolder (c : Nat) (s : State) : Option Nat :=
  (tkeys s.parts).find? (fun p => let q := s.part p; q.state != .free && q.wingsHeld && ownsCore q c)

/-- CHECKPOINT_RELOAD_END: the core's ledger stands at its landing state, or the partition is Faulted and the ledgers of
the cores still being reloaded are undefined (R195, R469). -/
def reloadEndEffect (c : Nat) (ok : Bool) (s : State) : State :=
  if (s.core c).reloading = false then s
  else if ok then s.modCore c (fun x => { x with reloading := false })
  else
    match coreHolder c s with
    | none => s
    | some p =>
      let s := (partCores (s.part p)).foldl (fun s k =>
        match tget? s.cores k with
        | none => s
        | some x => if x.reloading then s.setCore k { x with reloading := false, undefined_ := true } else s) s
      faultPartition p 5 s

/-- CHECKPOINT_RELOAD_END of a core. -/
def execCheckpointReloadEnd (core : CoreNo) (readOk : Bool) (s : State) : Result :=
  whenUp s (reloadEndEffect core readOk)

/-! ## MAP_SET (R328, R329, R335) -/

/-- A group entry of Table 11-7. -/
def groupFrom (b : Bytes) : Group :=
  { rank := byteAt b 1, staging := u64 b 8, stagingBytes := u64 b 16,
    members := (List.range (byteAt b 0)).map (fun i => (BitVec.ofNat 16 (u16 b (64 + 4 * i)), byteAt b (66 + 4 * i))),
    digest := BitVec.ofNat 32 (u32 (shake256 (sub b 64 256) 4) 0) }

/-- A queue entry of Table 11-9; a sender starts with as many credits as the queue is deep (R335). -/
def queueFrom (b : Bytes) : Queue :=
  { receive := byteAt b 0 == 1, depth := byteAt b 1, peer := BitVec.ofNat 16 (u16 b 2), peerPart := byteAt b 4,
    entryBytes := u32 b 8, buffer := u64 b 16, report := u64 b 24, credits := if byteAt b 0 = 0 then byteAt b 1 else 0,
    begun := 0, arrived := 0, complete := [], since := 0, stall := 0 }

/-- Why a group entry of partition p is refused; details are offsets in the entry (R328). -/
def groupReject (p : Nat) (b : Bytes) (s : State) : Option Reject :=
  let K := byteAt b 0
  let r := byteAt b 1
  let q := s.part p
  firstOf
    [need (1 ≤ K && K ≤ 64) 0, need (r < K) 1, need (u64 b 8 % 64 == 0) 8, need (u64 b 16 % 64 == 0) 16,
     owned (u64 b 16 == 0 || hbmAllowed q (u64 b 8) (u64 b 16)) 8,
     need (BitVec.ofNat 16 (u16 b (64 + 4 * r)) == fabAddr s && byteAt b (66 + 4 * r) == p) (64 + 4 * r)]

/-- Why a queue entry of partition p is refused (R335, Table 11-9). -/
def queueReject (p : Nat) (b : Bytes) (s : State) : Option Reject :=
  let q := s.part p
  let n := u32 b 8
  firstOf
    [need (byteAt b 0 < 2) 0, need (1 ≤ byteAt b 1 && byteAt b 1 ≤ 64) 1, need (byteAt b 4 < 8) 4,
     need (n % 64 == 0 && 64 ≤ n && n ≤ 16777216) 8,
     owned (byteAt b 0 == 0 || hbmAllowed q (u64 b 16) (byteAt b 1 * n)) 16, need (u64 b 24 % 32 == 0) 24,
     owned (hbmAllowed q (u64 b 24) 32) 24]

/-- MAP_SET: the map is copied into partition state. -/
def mapSetEffect (rn : Nat) (s : State) : State :=
  withPartCmd 0x98 rn (fun st => st == .configured) s (fun f p s =>
    let a := u64 f.bytes 24
    let n := u16 f.bytes 32
    let m := u16 f.bytes 34
    if hbmPoisoned a (320 * n + 64 * m) s then finish rn f.tag 0x30 2 0 0 ((popHead rn s).bump kPoison)
    else
      let gs := (List.range n).map (fun i => hbmRead (a + 320 * i) 320 s)
      let qs := (List.range m).map (fun i => hbmRead (a + 320 * n + 64 * i) 64 s)
      match firstOf (gs.map (fun b => groupReject p b s) ++ qs.map (fun b => queueReject p b s)) with
      | some r => rejectHead rn f r s
      | none =>
        let s := (popHead rn s).modPart p (fun q =>
          { q with groups := gs.map groupFrom, queues := qs.map queueFrom, early := [] })
        finish rn f.tag 0x00 0 0 0 s)

/-- A MAP_SET descriptor. -/
def execMapSet (ring : RingNo) (s : State) : Result := whenUp s (mapSetEffect ring)

end Sys2Proof.Machine
end

