-- ==== Sys2Proof/Machine/PowerReset.lean ====
section
/-!
DEFINITION. Device states, resets, Boot, shutdown, trips and the porter (18_start_up.md, R478 to R489; R359, R424).
-/
namespace Sys2Proof.Machine

/-- The state with the device section changed. -/
def modDev (s : State) (f : Dev → Dev) : State := { s with dev := f s.dev }

/-! ## What survives (R359, R447, R482, R487, R494) -/

/-- A slot after power has gone or a reset has come: a load that was under way leaves no image, and a pending activation is
lost unless the boot record already names the slot (R446, R447). -/
def settledSlot (n : Nat) (s : State) : FwSlot :=
  let x := slotOf n s
  { x with state := match x.state with
      | .loading => .invalid
      | .pending => if s.fw.bootSlot = n then .pending else .valid
      | .active => .valid
      | st => st }

/-- The firmware section after a reset: flash and eMRAM keep what they hold. -/
def keptFw (s : State) : Firmware :=
  { State.reset.fw with
    slot0 := settledSlot 0 s, slot1 := settledSlot 1 s, bootSlot := s.fw.bootSlot, svnFloor := s.fw.svnFloor,
    revoked := s.fw.revoked, handoverBlock := s.fw.handoverBlock, leafA := s.fw.leafA, leafB := s.fw.leafB,
    traversalOk := s.fw.traversalOk, keyLowPosted := s.fw.keyLowPosted, keyOutPosted := s.fw.keyOutPosted,
    log := s.fw.log }

/-- The fault section after a reset: the retirement record, and the persistent counters with their operating time
(R470, R473). -/
def keptFlt (s : State) : Flt :=
  { State.reset.flt with retired := s.flt.retired, ue := s.flt.ue, operating := operatingNow s }

/-- Counter PORTER_MISS (R359). -/
def kPorterMiss : Nat := indirectKey 7 4

/-- The machine as a reset leaves it: every register at its reset value, all partitions Free, no connection, no trained
module; the stored contents, PWR_TRIP, the porter and the queue stay (R482, R494). -/
def resetState (s : State) : State :=
  { State.reset with
    dev := { State.reset.dev with tripCause := s.dev.tripCause, bootEpoch := s.dev.bootEpoch, unbound := s.dev.unbound }
    porter := { code := s.porter.code, searches := [] }
    cnt := if s.counter kPorterMiss = 0 then [] else [(kPorterMiss, s.counter kPorterMiss)]
    fw := keptFw s, flt := keptFlt s, out := s.out, free := s.free, pending := s.pending }

/-- A cold or warm reset: Boot begins at its first step. HBM, vault and SRAM hold their bytes until Boot zeroes them, and the rails
their voltages. -/
def bootReset (s : State) : State :=
  { resetState s with
    pwr := { State.reset.pwr with volts := s.pwr.volts }
    hbm := s.hbm, vault := s.vault, pads := s.pads, bufs := s.bufs, hbmPoison := s.hbmPoison,
    vaultPoison := s.vaultPoison, padPoison := s.padPoison }

/-- A warm reset: a teller that the watchdog left down stays down until a cold reset (R434). -/
def warmEffect (s : State) : State := modFw (bootReset s) (fun f => { f with tellerDown := s.fw.tellerDown })

/-- A cold reset binds the labelled statements again (R495). -/
def coldEffect (s : State) : State := modDev (bootReset s) (fun d => { d with unbound := false })

/-- Whether a reset acts: in Boot, Ready, Running and Fault, but not in Fault with cause 0x1 (Table 18-2, R482). -/
def resetActs (s : State) : Bool :=
  match s.dev.state with
  | .boot => true
  | .up => true
  | .fault => s.dev.faultCode != 1
  | _ => false

/-- The fault log without at most the entries of its last 1 s, the number of which the manual leaves open (R487). -/
def loseTail (s : State) : State :=
  let treads := 1000000 / s.time.period
  let recent := (s.fw.log.filter (fun (e : Evt) => decide (s.time.tread.toNat < e.tread.toNat + treads))).length
  let (x, s) := s.fresh
  modFw s (fun f => { f with log := f.log.take (f.log.length - x.toNat % (recent + 1)) })

/-! ## Power (R478 to R481, R487) -/

/-- VAUX has been within range for 2 ms. -/
def execVauxUp (s : State) : Result :=
  whenBound s (fun s =>
    if s.dev.state = .off then modDev s (fun d => { d with state := .standby, vaux := true, fromOff := true }) else s)

/-- MAIN_EN goes high 2 ms after VAUX first reached its range from Off. -/
def execMainEnAssert (s : State) : Result :=
  whenBound s (fun s =>
    if s.dev.state = .standby ∧ s.dev.fromOff = true then modDev s (fun d => { d with mainEn := true }) else s)

/-- RESET_N released with the main rails in range: Boot, with a power-on reset after Off. -/
def releaseEffect (s : State) : State :=
  if s.dev.state = .standby ∧ s.dev.mainEn = true then resetState s else s

/-- RESET_N_RELEASE. -/
def execResetNRelease (s : State) : Result := whenBound s releaseEffect

/-- RESET_N_PULSE: a cold reset, or in Standby a wake (R481, R488). -/
def pulseEffect (s : State) : State :=
  if s.dev.state = .standby then modDev s (fun d => { d with mainEn := true })
  else if resetActs s then coldEffect s
  else s

/-- RESET_N_PULSE; it ends the condition of R495. -/
def execResetNPulse (s : State) : Result := .next (pulseEffect s)

/-- Off: everything volatile is lost, PWR_TRIP and the porter's values among it (R494). -/
def offEffect (s : State) : State :=
  if s.dev.state = .off then s
  else
    let s := if s.dev.state = .standby then s else loseTail s
    { resetState s with
      dev := { State.reset.dev with
        state := .off, bootStep := 0, resetN := false, mainEn := false, vaux := false, rails := false,
        bootEpoch := s.dev.bootEpoch }
      porter := State.reset.porter
      cnt := [] }

/-- VAUX_REMOVED; a part without power is in no test control. -/
def execVauxRemoved (s : State) : Result := .next (offEffect s)

/-- FORCED_SHUTDOWN: a main rail is gone, and with it at most the last 1 s of the fault log; in Standby nothing changes.
The device state is left as Table 18-2 has it, and nothing runs until a reset finds the rails in range. -/
def forcedEffect (s : State) : State :=
  match s.dev.state with
  | .off => s
  | .standby => s
  | _ => modDev (loseTail s) (fun d => { d with rails := false })

/-- FORCED_SHUTDOWN. -/
def execForcedShutdown (s : State) : Result := whenBound s forcedEffect

/-! ## Resets by register (R482) -/

/-- DEV_CTL.REQ = 1. -/
def warmRequest (s : State) : State := if cxlUp s && resetActs s then warmEffect s else s

/-- DEV_CTL.REQ = 2. -/
def coldRequest (s : State) : State := if cxlUp s && resetActs s then coldEffect s else s

/-- WARM_RESET. -/
def execWarmReset (s : State) : Result := whenBound s warmRequest

/-- COLD_RESET; it ends the condition of R495. -/
def execColdReset (s : State) : Result := .next (coldRequest s)

/-! ## Boot (R483 to R485) -/

/-- Boot ends in Fault (Table 18-6). -/
def bootFault (code : Nat) (s : State) : State := modDev s (fun d => { d with state := .fault, faultCode := code })

/-- The key unit derives its seeds and compares the traversal state with the leaf counter (R451, R453, R454). -/
def keyStep (s : State) : State :=
  modFw s (fun f => { f with keyed := true, traversalOk := f.traversalOk && f.leafA.2 && f.leafB.2 && f.leafA.1 == f.leafB.1 })

/-- The reason code that the boot ROM finds for slot n; an image that FW_LOAD wrote is checked as R439 says. -/
def bootReason (n found : Nat) (s : State) : Nat :=
  let x := slotOf n s
  if x.image.isEmpty then found else imageReason x.image (found != 6) s

/-- The teller starts from slot n: it is Active, and the other slot is not (R447). -/
def runSlot (n : Nat) (s : State) : State :=
  let o := 1 - n
  let s := if (slotOf o s).state = .pending then moveSlot o .valid s else s
  modFw (moveSlot n .active s) (fun f => { f with active := some n })

/-- The boot ROM's choice of a slot: the one that the boot record names, else the other, whose start posts FW_REVERTED at
Ready; none is Fault 0x4. A teller that does not report ready is Fault 0x6. -/
def slotStep (found : BootFindings) (s : State) : State :=
  let reason := fun (n : Nat) => bootReason n (if n = 0 then found.slot0Reason else found.slot1Reason) s
  let n := if s.fw.bootSlot = 0 then 0 else 1
  let o := 1 - n
  if reason n = 0 then
    if found.tellerReady then runSlot n s else bootFault 6 s
  else
    let s := modDev (moveSlot n .invalid s) (fun d => { d with reverted := some (n, reason n) })
    if reason o = 0 then
      if found.tellerReady then runSlot o s else bootFault 6 s
    else bootFault 4 (modFw (moveSlot o .invalid s) (fun f => { f with noImage := true }))

/-- The teller counts the boot epoch up and applies the retirement record; what retired earlier posts nothing again
(R314, R473). -/
def recordStep (s : State) : State :=
  let l := s.flt.retired.map Retired.res
  let s := modDev s (fun d => { d with bootEpoch := d.bootEpoch + 1 })
  let s := modFlt s (fun f => { f with applied := l, pendRet := [] })
  let s := modHost s (fun x => { x with halvesRetired := ((l.filter (fun r => r.type == 5)).map Resource.index).eraseDups })
  (l.filter (fun r => r.type == 3)).foldl (fun s r =>
    s.modPort (r.index / 4) (fun p =>
      if p.retired.contains (r.index % 4) then p else { p with retired := p.retired ++ [r.index % 4] })) s

/-- Galleries at the voltage of state 12, stores zeroed, marks cleared. A regulator that refuses keeps its rail's voltage (R510). -/
def galleryStep (found : BootFindings) (s : State) : State :=
  { (changeVolts 12 found.avs0 found.avs1 s).1 with pads := [], bufs := [], padPoison := [], cores := [], halls := [] }

/-- Every port with ENABLE 0, lasers off. -/
def portStep (s : State) : State :=
  { s with
    ports := tmap s.ports (fun _ (p : Port) => { p with enable := false })
    links := tmap s.links (fun _ (l : Link) => { l with stage := .dark }) }

/-- Units of a memory that fail training: left out for this Boot, with one uncorrected event each (R485). -/
def trainMemory (type : Nat) (failed : List Nat) (s : State) : State :=
  let gone := (s.flt.retired.map Retired.res).filter (fun r => r.type == type) |>.map Resource.index
  let bad := (failed.filter (fun n => !gone.contains n)).eraseDups
  let s := modFlt s (fun f => { f with outOfService := f.outOfService ++ bad.map (fun n => { type := type, index := n }) })
  bad.foldl (fun s n => uncorrected { type := type, index := n } 0 deviceOwner s) s

/-- Whether every unit of some stack that was trained failed: n units a stack. -/
def stackLost (type n : Nat) (s : State) : Bool :=
  let outs := (s.flt.outOfService.filter (fun r => r.type == type)).map Resource.index
  let gone := ((s.flt.retired.map Retired.res).filter (fun r => r.type == type)).map Resource.index
  (List.range 8).any (fun k =>
    let units := upFrom (n * k) n
    units.all (fun u => outs.contains u || gone.contains u) && units.any (fun u => outs.contains u))

/-- Ready: FW_REVERTED posts if a slot was refused (R447). -/
def readyStep (s : State) : State :=
  let s' := modDev s (fun d => { d with state := .up, reverted := none })
  match s.dev.reverted with
  | none => s'
  | some (n, reason) => postEvent deviceOwner 0x8003 2 n reason s'

/-- What a Boot step leaves (Table 18-5); in Fault when it fails. -/
def bootAction (step : Nat) (found : BootFindings) (s : State) : State :=
  match step with
  | 2 => if found.pufOk then keyStep s else bootFault 3 (modFw s (fun f => { f with pufFail := true }))
  | 3 => if found.recordOk then s else bootFault 2 (modFw s (fun f => { f with cfgBad := true }))
  | 5 => slotStep found s
  | 6 => recordStep s
  | 7 => galleryStep found s
  | 8 => portStep s
  | 9 =>
    let s := trainMemory 1 found.hbmFailed s
    if stackLost 1 32 s then bootFault 5 s else s
  | 10 => { s with hbm := [], hbmPoison := [] }
  | 11 =>
    let s := trainMemory 2 found.vaultFailed s
    if stackLost 2 8 s then bootFault 5 s else s
  | 12 => { s with vault := [], vaultPoison := [] }
  | 13 => readyStep s
  | _ => s

/-- A Boot step ends and the next begins. -/
def bootStepEffect (found : BootFindings) (s : State) : State :=
  if s.dev.state ≠ .boot ∨ s.dev.rails = false then s
  else
    let k := s.dev.bootStep
    let s := bootAction k found (modDev s (fun d => { d with bootMs := BitVec.ofNat 16 (min 0xFFFF found.ms) }))
    if s.dev.state = .boot then modDev s (fun d => { d with bootStep := k + 1 }) else s

/-- BOOT_STEP_END. -/
def execBootStepEnd (found : BootFindings) (s : State) : Result :=
  if Instr.wellFormed (.bootStepEnd found) then whenBound s (bootStepEffect found)
  else .refused (.illFormed "BOOT_STEP_END")

/-! ## Shutdown (R486) -/

/-- Whether an orderly shutdown is accepted: Ready, every partition Free, the stairwell Alone. -/
def shutdownLegal (s : State) : Bool :=
  s.isUp && s.parts.all (fun e => e.2.state == .free) && s.stw.state == .alone

/-- DEV_CTL.REQ = 3. -/
def shutdownRequest (s : State) : State :=
  if cxlUp s = false ∨ s.dev.shutdown.isSome = true then s
  else if shutdownLegal s = false then modDev s (fun d => { d with refused := true })
  else
    let s := modDev s (fun d => { d with shutdown := some 1, refused := false })
    let s := disableRing 2 none (disableRing 1 none (disableRing 0 none s))
    modFab s (fun f => { f with enable := false, conns := f.conns.map Conn.restart })

/-- ORDERLY_SHUTDOWN. -/
def execOrderlyShutdown (s : State) : Result := whenBound s shutdownRequest

/-- Standby after an orderly shutdown: MAIN_EN is low, and only the porter runs. -/
def standbyState (s : State) : State :=
  { resetState s with
    dev := { State.reset.dev with
      state := .standby, bootStep := 0, resetN := false, mainEn := false, rails := false,
      tripCause := s.dev.tripCause, bootEpoch := s.dev.bootEpoch } }

/-- A step of Table 18-7 after its first row. -/
def shutdownStepEffect (s : State) : State :=
  if s.isUp = false then s
  else
    match s.dev.shutdown with
    | none => s
    | some k =>
      let s := modDev s (fun d => { d with shutdown := some (k + 1) })
      match k with
      | 1 => (List.range 16).foldl (fun s q => setEnable q false s) s
      | 3 => modHost s (fun h => { h with halves := [], retraining := [] })
      | 4 => standbyState s
      | _ => s

/-- SHUTDOWN_STEP_END. -/
def execShutdownStepEnd (s : State) : Result := whenBound s shutdownStepEffect

/-! ## Trips (R424, R512) -/

/-- Code of a trip cause in PWR_TRIP (R429). -/
def tripCode : TripCause → Nat
  | .gallery0Temp => 1
  | .gallery1Temp => 2
  | .mintTemp => 3
  | .hbmTemp => 4
  | .vaultTemp => 5
  | .gallery0Volt => 6
  | .gallery1Volt => 7

/-- Every laser goes off, with no event. -/
def lasersOff (s : State) : State :=
  let s := modFab s (fun f => { f with neighbours := tmap f.neighbours (fun _ (x : Neighbour) => { x with up := false, hellos := 0 }) })
  { s with links := tmap s.links (fun _ (l : Link) =>
      { l with stage := .dark, held := [], localFault := false, remoteFault := false }) }

/-- A module trip: clocks and memory traffic stop, the lasers go off, THERMTRIP_N asserts, the cause is latched and the
device is in Fault; nothing is posted. -/
def tripEffect (c : TripCause) (s : State) : State :=
  if s.isOn = false then s
  else
    modDev (lasersOff s) (fun d =>
      { d with state := .fault, faultCode := 1, thermTrip := true, tripCause := BitVec.ofNat 8 (tripCode c) })

/-- MODULE_TRIP. -/
def execModuleTrip (cause : TripCause) (s : State) : Result := whenBound s (tripEffect cause)

/-! ## The porter (R359) -/

/-- The search of a port that has seen no light. -/
def Search.atReset : Search := { lit := false, got := 0, bits := [] }

/-- Whether an interval of us microseconds is one of ms milliseconds within 10 %. -/
def nearMs (us ms : Nat) : Bool := 900 * ms ≤ us && us ≤ 1100 * ms

/-- Whole milliseconds nearest to an interval. -/
def nearest (us : Nat) : Nat := (us + 500) / 1000

/-- What an ended interval does to a search: a longer search, a break (none), or the 16 bits of a complete pattern. The
last dark half period and the dark bits after it are one interval, and so are the light bits at the end and the final
2 ms of light. -/
def searchStep (x : Search) (light : Bool) (us : Nat) : Option Search × Option (List Bool) :=
  let ms := nearest us
  if nearMs us ms = false then (none, none)
  else if x.got < 7 then
    if ms = 2 ∧ light = (x.got % 2 == 0) then (some { x with got := x.got + 1 }, none) else (none, none)
  else if x.got = 7 then
    if light = false ∧ 2 ≤ ms ∧ ms ≤ 18 then
      (some { x with got := 8, bits := List.replicate (ms - 2) false }, none)
    else (none, none)
  else
    let n := x.bits.length + ms
    if light then
      if n = 18 then (none, some (x.bits ++ List.replicate (ms - 2) true))
      else if n < 16 then (some { x with bits := x.bits ++ List.replicate ms true }, none)
      else (none, none)
    else if n ≤ 16 then (some { x with bits := x.bits ++ List.replicate ms false }, none)
    else (none, none)

/-- The number that 16 bits spell, least significant first. -/
def codeOf (l : List Bool) : Nat := maskOf ((List.range 16).filter (fun i => l.getD i false))

/-- A complete pattern: the right code, unless it is 0, starts the power-up sequence; another is counted as a miss. -/
def porterMatch (l : List Bool) (s : State) : State :=
  if codeOf l ≠ s.porter.code.toNat then s.bump kPorterMiss
  else if s.porter.code = 0 then s
  else modDev s (fun d => { d with mainEn := true })

/-- Lane 0 of a port changes to `lit` after us microseconds of the other reading. -/
def porterEffect (q : Nat) (lit : Bool) (us : Nat) (s : State) : State :=
  let x := tget Search.atReset s.porter.searches q
  if s.dev.state ≠ .standby ∨ x.lit = lit then s
  else
    let put := fun (y : Search) (s : State) => { s with porter := { s.porter with searches := tset s.porter.searches q y } }
    if x.got = 0 ∧ x.lit = false then put { x with lit := lit } s
    else
      match searchStep x x.lit us with
      | (some y, _) => put { y with lit := lit } s
      | (none, some l) => porterMatch l (put { Search.atReset with lit := lit } s)
      | (none, none) =>
        let s' := put { Search.atReset with lit := lit } s
        if x.got = 0 then s' else s'.bump kPorterMiss

/-- PORTER_LIGHT_CHANGE. -/
def execPorterLightChange (port : PortNo) (lit : Bool) (us : Nat) (s : State) : Result :=
  whenBound s (porterEffect port lit us)

end Sys2Proof.Machine
end

