-- ==== Sys2Proof/Machine/Flags.lean ====
section
/-!
DEFINITION. Level status and status registers: what each read-only register reports, computed from the state (R10, R11,
and the tables named at each definition). A level status follows its cause at once (R496).
-/
namespace Sys2Proof.Machine

/-- A value placed at bit lo of a register. -/
def atBit (lo v : Nat) : Nat := v * 2 ^ lo

/-- A flag placed at a bit. -/
def flag (i : Nat) (b : Bool) : Nat := atBit i (b2n b)

/-! ## Counters (R10, R11) -/

/-- Whether a counter is at 0x8000_0000 or more (R11). -/
def halfFull (key : Nat) (s : State) : Bool := 0x80000000 ≤ (s.counter key).toNat

/-- Whether some counter of a list is (CNT_HALF). -/
def anyHalf (keys : List Nat) (s : State) : Bool := keys.any (fun k => halfFull k s)

/-- A harvest: a counter at or above 0x8000_0000 loses that much; a lower one is unchanged (Table 0-4). -/
def harvestKey (key : Nat) (s : State) : State :=
  if halfFull key s then { s with cnt := tset s.cnt key (s.counter key - 0x80000000) } else s

/-- Keys of n counters in consecutive words. -/
def words (first n : Nat) : List Nat := (List.range n).map (fun i => first + 4 * i)

/-- The tread counters (Table 2-3). -/
def trdCounters : List Nat := words 0x020010 5
/-- The ring counters (Table 3-17). -/
def rngCounters : List Nat := words 0x030024 2
/-- The array counters of both galleries (Table 5-12). -/
def arrCounters : List Nat := words 0x040010 5 ++ words 0x040030 5
/-- The ledger counters (Table 6-8). -/
def ldgCounters : List Nat := words 0x050010 5 ++ words 0x050030 5
/-- The vector counters (Table 7-10). -/
def vecCounters : List Nat := words 0x060010 5 ++ words 0x060030 5
/-- The training-pass counters (Table 8-17). -/
def trnCounters : List Nat := words 0x070010 8
/-- The usher and sequence counters (Table 10-14). -/
def seqCounters : List Nat := words 0x080010 7
/-- The fabric counters (Table 11-11). -/
def fabCounters : List Nat := words 0x090010 9
/-- The host attach counters (Table 14-7). -/
def hstCounters : List Nat := words 0x0B0010 4
/-- The power counters (Table 15-13). -/
def pwrCounters : List Nat := words 0x0C0020 7
/-- The fault counters (Table 17-10). -/
def fltCounters : List Nat := words 0x0D0010 5

/-- Every counter of the direct window (Table 19-2). -/
def directCounters : List Nat :=
  trdCounters ++ rngCounters ++ arrCounters ++ ldgCounters ++ vecCounters ++ trnCounters ++ seqCounters ++ fabCounters ++
    hstCounters ++ pwrCounters ++ fltCounters

/-- The mint counters (Table 9-18), indirect. -/
def mntCounters : List Nat := words (indirectKey 0 0x10) 8
/-- The firmware counters (Table 16-14), indirect. -/
def fwCounters : List Nat := words (indirectKey 0 0x120) 3
/-- The counters of a link (Table 12-5), indirect. -/
def linkCounters (n : Nat) : List Nat := words (kLink n 0) 46

/-! ## Device, treads and partitions -/

/-- Code of the device state (Table 18-1). -/
def devCode (s : State) : Nat :=
  match s.dev.state with
  | .off => 0
  | .standby => 1
  | .boot => 2
  | .up =>
    if s.parts.any (fun e => e.2.state == .running || e.2.state == .draining || e.2.state == .saved) then 4 else 3
  | .fault => 5

/-- DEV_STATUS (Table 18-9). -/
def devStatus (s : State) : Nat :=
  let d := s.dev
  atBit 29 (devCode s) + atBit 26 d.faultCode + flag 25 d.shutdown.isSome + flag 24 d.refused + atBit 16 d.bootStep +
    d.bootMs.toNat

/-- TRD_STATUS (Table 2-11). -/
def trdStatus (s : State) : Nat :=
  let w := s.stw
  atBit 26 w.haltCause + atBit 24 w.state.code + atBit 17 w.run +
    flag 16 (w.slips.any (fun x => x.1 == s.time.tread + 1)) + flag 15 (s.time.kind == .hold) +
    flag 14 (s.time.kind == .settle) + flag 13 (s.settings.any (fun x => x.scope == 8)) +
    flag 12 (s.settings.any (fun x => x.scope == 9)) + flag 3 (anyHalf trdCounters s) +
    flag 2 (decide (20 < w.offset.natAbs)) + flag 1 (isLeader s) +
    flag 0 (decide (w.offset.natAbs ≤ 40))

/-- PRT_STATUS_n (Table 13-10). -/
def prtStatus (p : Nat) (s : State) : Nat :=
  let q := s.part p
  atBit 29 q.state.code + flag 28 q.scrub + flag 27 q.wingsHeld + flag 26 q.saveBusy + flag 25 q.restoreBusy +
    flag 24 q.evicted + atBit 20 (maskOf ((List.range 4).filter (fun i => q.strict.getD i false))) +
    flag 19 (strictMode s) + flag 18 q.startPend + q.record.wings.toNat

/-! ## Rings, fabric, host -/

/-- RNG_BOOT_CTL (Table 3-18). -/
def bootCtl (s : State) : Nat :=
  let g := s.regs
  flag 31 g.bootEnable + flag 30 g.bootErr + flag 29 (anyHalf rngCounters s) + atBit 27 (s.ring 0).state.code +
    atBit 16 g.bootVector.toNat + atBit 8 g.bootCtrlSize.toNat + atBit 4 g.bootCplSize.toNat + g.bootEvtSize.toNat

/-- FAB_CFG (Table 11-12). -/
def fabCfg (s : State) : Nat :=
  atBit 16 s.fab.etype.toNat + atBit 8 s.fab.rto.toNat + flag 3 (anyHalf fabCounters s) + flag 2 (addrOk s) +
    flag 0 s.fab.enable

/-- HST_STATUS (Table 14-5). -/
def hstStatus (s : State) : Nat :=
  let h := s.host
  atBit 16 (maskOf h.halves) + atBit 8 (maskOf h.halvesRetired) + flag 4 (anyHalf hstCounters s) +
    flag 3 ((List.range 4).any (fun m => decide (moduleWidth m s < 64))) +
    flag 2 (h.halves.isEmpty && !(h.accesses.isEmpty && s.hostWaits.isEmpty)) + flag 1 (cxlUp s) + flag 0 (!h.halves.isEmpty)

/-- HST_CTL (Table 14-6). -/
def hstCtl (s : State) : Nat := atBit 16 s.regs.hstTimeout.toNat + s.regs.hstRetryLim.toNat

/-! ## Power and faults -/

/-- Bits for galleries 0 and 1 of a list. -/
def galleryBits (l : List Nat) : Nat := b2n (l.contains 0) + 2 * b2n (l.contains 1)

/-- PWR_STATUS (Table 15-8). -/
def pwrStatus (s : State) : Nat :=
  let p := s.pwr
  atBit 28 p.vf + flag 27 p.fixed + flag 26 (decide (p.base < p.vf)) + flag 23 (emergency s) +
    atBit 21 (galleryBits p.tempStretch) + atBit 19 (galleryBits p.currentStretch) + atBit 17 (galleryBits p.droopStretch) +
    flag 16 p.mintThrottle + flag 15 (!p.hbmThrottle.isEmpty) + flag 14 (!p.vaultThrottle.isEmpty) +
    flag 13 (!p.opticsOff.isEmpty) + flag 12 p.capUnmet + flag 11 (anyHalf pwrCounters s)

/-- PWR_CAP (Table 15-9). -/
def pwrCap (s : State) : Nat :=
  s.pwr.cap +
    (match s.settings.findSome? (fun x => match x.kind with | .cap w => some w | _ => none) with
    | some w => flag 31 true + atBit 16 w
    | none => 0)

/-- The fields FIXED, BOOST, BASE and FLOOR at their places from bit 1 (Table 15-10). -/
def vfFields (fixed boost : Bool) (base floor : Nat) : Nat :=
  flag 10 fixed + flag 9 boost + atBit 5 base + atBit 1 floor

/-- PWR_VF (Table 15-10). -/
def pwrVf (s : State) : Nat :=
  let p := s.pwr
  vfFields p.fixed p.boost p.base p.floor +
    (match s.settings.findSome? (fun x => match x.kind with | .vf f b base floor => some (f, b, base, floor) | _ => none) with
    | some (f, b, base, floor) => flag 31 true + atBit 17 (vfFields f b base floor)
    | none => 0)

/-- PWR_EST (R419, R429): the calibrated estimate in W, and the measured rails. -/
def pwrEst (s : State) : Nat :=
  let e := s.pwr.last
  let g := fun i => s.pwr.gains.getD i 1000
  ((e.dyn0 + e.leak0) * g 0 + (e.dyn1 + e.leak1) * g 1) / 1000 + e.other + atBit 16 e.rails

/-- The current limit in force on gallery g: 200 A while the configuration record is bad, else the configured one, at
most 420 A (Table 15-4, R450). -/
def limitInForce (g : Nat) (s : State) : Nat := if s.fw.cfgBad then 200 else min 420 (currentLimit g)

/-- PWR_LIMIT (R429). -/
def pwrLimit (s : State) : Nat := atBit 16 (limitInForce 1 s) + limitInForce 0 s

/-- FLT_STATUS (Table 17-9). -/
def fltStatus (s : State) : Nat :=
  flag 31 (!s.flt.pendRet.isEmpty) + flag 30 (anyHalf fltCounters s) + atBit 16 (vaultCh s) + hbmPc s

/-- HBM_PCST_n or VLT_CHST_n of a unit whose training ends with a Boot step (Table 19-9, R493). -/
def unitStatus (r : Resource) (step : Nat) (s : State) : Nat :=
  if s.dev.bootStep ≤ step then 0
  else
    let gone := s.flt.applied.contains r
    let out_ := s.flt.outOfService.contains r
    flag 31 gone + flag 30 (s.flt.pendRet.contains r) + flag 29 out_ + flag 28 (!gone && !out_) +
      atBit 8 (min 255 (ue24h r s)) + min 255 (ce1s r s)

/-! ## Firmware -/

/-- Watchdog restarts in the last hour (R434). -/
def restartsNow (s : State) : Nat := (s.fw.restarts.filter (fun t => decide (operatingNow s < t + 3600000))).length

/-- Leaves that remain (R453, R459). -/
def leavesLeft (s : State) : Nat := leafCount - ((leafIndex s).getD leafCount)

/-- FW_STATUS (Table 16-11); the slots read 0 until the boot ROM has checked them (R493). -/
def fwStatus (s : State) : Nat :=
  let w := s.fw
  let slots := if s.dev.bootStep ≤ 5 ∧ s.dev.state = .boot then 0
    else atBit 29 w.slot0.state.code + atBit 26 w.slot1.state.code
  slots + flag 25 w.handover.isSome + flag 24 w.tellerDown + flag 23 w.cfgBad + flag 22 w.pufFail + flag 21 w.noImage +
    flag 20 (decide (leavesLeft s ≤ 65536)) + flag 19 (anyHalf fwCounters s) + atBit 8 (min 255 (restartsNow s))

/-! ## Ports and links -/

/-- MAC_PORT_CTL (Table 12-9). -/
def portCtl (q : Nat) (s : State) : Nat :=
  let p := s.port q
  atBit 20 (maskOf p.retired) + atBit 10 p.flow + flag 9 p.macsec + flag 5 p.wdEn + flag 4 p.breakout +
    flag 1 (p.enable && !p.breakout && !p.retired.isEmpty) + flag 0 p.enable

/-- MAC_LINK_CFG (Table 12-10). -/
def linkCfg (n : Nat) (s : State) : Nat :=
  let l := s.link n
  flag 15 l.lldpTx + flag 14 l.tag + flag 13 l.strict + l.vid.toNat

/-- SA_LOW: the association in use has come to the last quarter of its packet numbers (R354). -/
def saLow (n : Nat) (s : State) : Bool :=
  (s.port (n / 4)).macsec &&
    (match txChannel n s with
    | none => false
    | some i =>
      let c := channelOf (n / 4) i s
      let pn := (saOf c c.txAn).pn.toNat
      if c.xpn then 0xC000000000000000 ≤ pn else 0xC0000000 ≤ pn % 2 ^ 32)

/-- MAC_LINK_STAT (Table 12-11). -/
def linkStat (n : Nat) (s : State) : Nat :=
  let l := s.link n
  flag 7 (anyHalf (linkCounters n) s) + flag 6 (!l.storm.isEmpty) + flag 5 (saLow n s) + flag 4 l.fecDegrade +
    flag 3 l.remoteFault + flag 2 l.localFault + flag 1 (l.stage == .locked || l.stage == .up) + flag 0 (l.stage == .up)

/-- The power readings of a device lane, received then launched, 0.01 dBm (R502). -/
def lanePower (lane : Nat) (s : State) : Half × Half :=
  let dark : Half × Half := (0xF060, 0xF060)
  let n := if (s.port (lane / 4)).breakout then lane else lane / 4 * 4
  if engineOn lane s && portsTrained s then (s.link n).powers.getD (lane - n) dark else dark

end Sys2Proof.Machine
end

