-- ==== Sys2Proof/Machine/Registers.lean ====
section
/-!
DEFINITION. Register accesses: the direct window, the indirect spaces and the sideband (19_registers.md, R490 to R506;
R395, R404).
-/
namespace Sys2Proof.Machine

/-! ## Reads of the direct window (Table 19-2) -/

/-- Half h (0 low, 1 high) of a 64-bit field of the configuration record. -/
def recordWord (o : Nat) : Nat := leNat (configBytes o 4)

/-- CNT_HALF alone, the fields of a block status register (Table 19-6). -/
def blockStatus (keys : List Nat) (s : State) : Nat := flag 0 (anyHalf keys s)

/-- What the register at an address of the direct window reads, but for IA_DATA; 0 where none is assigned (R490). -/
def directRead (a : Nat) (s : State) : Nat :=
  if directCounters.contains a then (s.counter a).toNat
  else if 0x030000 ≤ a ∧ a ≤ 0x03001C ∧ a % 4 = 0 then (s.regs.bootBases.getD ((a - 0x030000) / 4) 0).toNat
  else if 0x0A0000 ≤ a ∧ a ≤ 0x0A001C ∧ a % 4 = 0 then prtStatus ((a - 0x0A0000) / 4) s
  else
    match a with
    | 0x000000 => moduleRevision
    | 0x000004 => recordWord 8
    | 0x000008 => recordWord 12
    | 0x000014 => devStatus s
    | 0x010000 => s.regs.iaSel.toNat
    | 0x010004 => s.regs.iaAddr.toNat
    | 0x01000C => flag 1 s.regs.iaErr
    | 0x020000 => trdStatus s
    | 0x030020 => bootCtl s
    | 0x040000 => blockStatus arrCounters s
    | 0x050000 => blockStatus ldgCounters s
    | 0x060000 => blockStatus vecCounters s
    | 0x070000 => blockStatus trnCounters s
    | 0x080000 => blockStatus seqCounters s
    | 0x090000 => fabCfg s
    | 0x090004 => (fabAddr s).toNat
    | 0x0B0000 => hstStatus s
    | 0x0B0004 => hstCtl s
    | 0x0C0000 => pwrStatus s
    | 0x0C0004 => pwrCap s
    | 0x0C0008 => pwrVf s
    | 0x0C000C => pwrEst s
    | 0x0C0010 => pwrLimit s
    | 0x0C0014 => s.dev.tripCause.toNat
    | 0x0D0000 => fltStatus s
    | _ => 0

/-! ## Reads of the indirect spaces (Table 19-5) -/

/-- Bytes of a space, 0 where the space is reserved. -/
def spaceSize (space : Nat) : Nat :=
  match space with
  | 0x0 => 0x1000
  | 0x1 => 0x800000
  | 0x2 => 0x20000000
  | 0x3 => 0x400
  | 0x4 => 0x100
  | 0x5 => 0x50004
  | 0x6 => 0x200
  | 0x7 => 0x8
  | 0x8 => 0x170
  | 0x9 => 0x100200
  | _ => 0

/-- ATT_CFG (Table 16-12). -/
def attCfg (s : State) : Nat := atBit 16 s.regs.attMinGap.toNat + s.regs.attWindow.toNat

/-- The MINT space (Table 19-8). -/
def mintRead (a : Nat) (s : State) : Nat :=
  if (mntCounters ++ fwCounters).contains (indirectKey 0 a) then (s.counter (indirectKey 0 a)).toNat
  else
    match a with
    | 0x000 => blockStatus mntCounters s
    | 0x100 => fwStatus s
    | 0x104 => imgVersion (activeImage s)
    | 0x108 => s.fw.svnFloor.toNat
    | 0x110 => attCfg s
    | 0x114 => leavesLeft s
    | _ => 0

/-- The retirement record in eMRAM (R473, Table 17-7). -/
def retirementBytes (s : State) : Bytes :=
  toLE 0x52545A32 4 ++ toLE s.flt.retired.length 4 ++ List.replicate 56 0 ++
    (s.flt.retired.map (fun e =>
      toLE e.res.type 1 ++ toLE e.cause 1 ++ toLE e.res.index 2 ++ toLE 0 4 ++ toLE e.time 8)).flatten

/-- A byte of eMRAM as host software reads it: four regions are readable, the rest reads 0 (R501). -/
def emramByte (a : Nat) (s : State) : Byte :=
  if a < 0x2000 then Config.configRecord a
  else if 0x10000 ≤ a ∧ a < 0x11000 then Config.bootRecord s.fw.bootSlot s.fw.svnFloor (maskOf s.fw.revoked) (a - 0x10000)
  else if 0x62000 ≤ a ∧ a < 0x162000 then (retirementBytes s).getD (a - 0x62000) 0
  else if 0x162000 ≤ a ∧ a < 0x172000 then
    Config.persistentCounters (s.flt.ue.map (fun e => (e.1.code, e.2))) (a - 0x162000)
  else 0

/-- A byte of flash as it stands (R435, R501). -/
def flashByte (a : Nat) (s : State) : Byte :=
  if 0x10000000 ≤ a then Config.faultLog s.fw.log.length (a - 0x10000000)
  else ((slotOf (a / 0x8000000) s).image)[a % 0x8000000]?.getD (Config.flash a)

/-- The word of four bytes. -/
def wordOf (f : Nat → Byte) (a : Nat) : Nat := leNat ((upFrom a 4).map f)

/-- Word w of a secure channel entry; keys and salts read 0 (Table 12-7). -/
def secRead (c : Secy) (w : Nat) : Nat :=
  if w = 0 then
    flag 31 c.valid + flag 30 c.tx + atBit 28 c.link + atBit 26 c.txAn + flag 25 c.xpn + atBit 8 c.window.toNat +
      atBit 4 (maskOf ((List.range 4).filter (fun i => c.saValid.getD i false)))
  else if w = 1 then c.sci.toNat % 2 ^ 32
  else if w = 2 then c.sci.toNat / 2 ^ 32
  else if w < 8 then 0
  else
    let x := saOf c ((w - 8) / 14)
    match (w - 8) % 14 with
    | 8 => x.pn.toNat % 2 ^ 32
    | 9 => x.pn.toNat / 2 ^ 32
    | 10 => x.ssci.toNat
    | _ => 0

/-- The kept LLDPDU of a link with its length before it (R357). -/
def lldpBytes (n : Nat) (s : State) : Bytes := toLE (s.link n).lldpLen 4 ++ (s.link n).lldp

/-- A register of a port's control block (R361). -/
def portBlockRead (q off : Nat) (s : State) : Nat :=
  let p := s.port q
  match off with
  | 0x00 => portCtl q s
  | 0x04 => atBit 16 p.xoff.toNat + p.xon.toNat
  | 0x08 => p.pauseWd.toNat
  | 0x0C => atBit 16 p.fecSym.toNat + p.fecUnc.toNat
  | _ => 0

/-- Whether MAC addresses are loaded (R346, R483). -/
def macLoaded (s : State) : Bool := s.dev.state != .boot || decide (6 < s.dev.bootStep)

/-- A register of a link's block (R362). -/
def linkBlockRead (n off : Nat) (s : State) : Nat :=
  if off ≤ 0xB4 then (s.counter (kLink n off)).toNat
  else
    match off with
    | 0x100 => linkCfg n s
    | 0x104 => linkStat n s
    | 0x108 => if macLoaded s then macAddress n % 2 ^ 32 else 0
    | 0x10C => if macLoaded s then macAddress n / 2 ^ 32 else 0
    | _ => 0

/-- MAC_WAKE_TX (Table 12-8). -/
def wakeTx (s : State) : Nat := flag 31 s.regs.wakeBusy + atBit 16 s.regs.wakePort.toNat + s.regs.wakeCode.toNat

/-- The PORT space. -/
def portRead (a : Nat) (s : State) : Nat :=
  if a < 0x1000 then portBlockRead (a / 0x100) (a % 0x100) s
  else if a < 0x10000 then 0
  else if a < 0x20000 then linkBlockRead ((a - 0x10000) / 0x400) (a % 0x400) s
  else if a < 0x30000 then secRead (channelOf ((a - 0x20000) / 0x1000) (a % 0x1000 / 0x100) s) (a % 0x100 / 4)
  else if a < 0x50000 then wordOf (fun i => (lldpBytes ((a - 0x30000) / 0x800) s).getD i 0) (a % 0x800)
  else wakeTx s

/-- The OPTICS space (R502). -/
def opticsRead (a : Nat) (s : State) : Nat :=
  if a < 0x100 then (lanePower (a / 4) s).1.toNat else (lanePower ((a - 0x100) / 4) s).2.toNat

/-- The FABRIC space: a route word as held, or a gateway word (R315, R503). -/
def fabricRead (a : Nat) (s : State) : Nat :=
  if a < 0x100000 then
    let r := tget Route.atReset s.fab.routes (a / 16)
    match a % 16 / 4 with
    | 0 => r.w0.toNat
    | 1 => r.w1.toNat
    | 2 => r.w2.toNat
    | _ => 0
  else
    let g := tget (0, 0) s.fab.gateways ((a - 0x100000) / 8)
    if a % 8 < 4 then g.1.toNat else g.2.toNat

/-- What the register at an address of an indirect space reads (R500). -/
def indirectRead (space a : Nat) (s : State) : Nat :=
  match space with
  | 0x0 => mintRead a s
  | 0x1 => wordOf (fun x => emramByte x s) a
  | 0x2 => wordOf (fun x => flashByte x s) a
  | 0x3 => unitStatus { type := 1, index := a / 4 } 9 s
  | 0x4 => unitStatus { type := 2, index := a / 4 } 11 s
  | 0x5 => portRead a s
  | 0x6 => opticsRead a s
  | 0x7 =>
    if a = 0 then flag 16 (halfFull kPorterMiss s) + s.porter.code.toNat else (s.counter kPorterMiss).toNat
  | 0x8 => (tget 0 s.pwr.temps (a / 4)).toNat
  | 0x9 => fabricRead a s
  | _ => 0

/-! ## Writes of the indirect spaces -/

/-- The state after a write of word v to a register whose RSV bits are `mask`; they all read 0 (R495). -/
def rsvCheck (mask : Nat) (v : Word) (s : State) : State := markUnbound (v &&& BitVec.ofNat 32 mask != 0) s

/-- The state with the register section changed. -/
def modRegs (s : State) (f : Regs → Regs) : State := { s with regs := f s.regs }

/-- A write in the MINT space. FW_KICK restarts the watchdog, whose expiry comes as a command (assumption log 7). -/
def mintWrite (a : Nat) (v : Word) (s : State) : State :=
  if (mntCounters ++ fwCounters).contains (indirectKey 0 a) then harvestKey (indirectKey 0 a) s
  else
    match a with
    | 0x000 => rsvCheck 0xFFFFFFFE v s
    | 0x100 => rsvCheck 0x000700FF v s
    | 0x110 => modRegs s (fun g => { g with attMinGap := BitVec.ofNat 16 (bits v.toNat 16 16),
                                            attWindow := BitVec.ofNat 16 (bits v.toNat 0 16) })
    | 0x114 => rsvCheck 0xFFE00000 v s
    | _ => s

/-- A write in the PORT space, once the optical engines are calibrated (R493). -/
def portWrite (a : Nat) (v : Word) (s : State) : State :=
  if portsTrained s = false then s
  else if a < 0x1000 then portBlockWrite (a / 0x100) (a % 0x100) v s
  else if a < 0x10000 then s
  else if a < 0x20000 then
    let n := (a - 0x10000) / 0x400
    let off := a % 0x400
    if off ≤ 0xB4 then harvestKey (kLink n off) s
    else if off = 0x100 then linkCfgWrite n v s
    else if off = 0x104 then rsvCheck 0xFFFFFF00 v s
    else s
  else if a < 0x30000 then secWrite ((a - 0x20000) / 0x1000) (a % 0x1000 / 0x100) (a % 0x100 / 4) v s
  else if a < 0x50000 then s
  else wakeWrite v s

/-- A write in the FABRIC space (R315, R503). -/
def fabricWrite (a : Nat) (v : Word) (s : State) : State :=
  if a < 0x100000 then routeWrite (a / 16) (a % 16 / 4) v s
  else
    let k := (a - 0x100000) / 8
    let g := tget (0, 0) s.fab.gateways k
    if a % 8 < 4 then modFab s (fun f => { f with gateways := tset f.gateways k (v, g.2) })
    else rsvCheck 0xFFFF0000 v (modFab s (fun f => { f with gateways := tset f.gateways k (g.1, v &&& 0xFFFF) }))

/-- A write to the register at an address of an indirect space, under its access code (R497). -/
def indirectWrite (space a : Nat) (v : Word) (s : State) : State :=
  match space with
  | 0x0 => mintWrite a v s
  | 0x3 => rsvCheck 0x0FFF0000 v s
  | 0x4 => rsvCheck 0x0FFF0000 v s
  | 0x5 => portWrite a v s
  | 0x6 => rsvCheck 0xFFFF0000 v s
  | 0x7 =>
    if a = 0 then rsvCheck 0xFFFE0000 v { s with porter := { s.porter with code := BitVec.ofNat 16 (bits v.toNat 0 16) } }
    else harvestKey kPorterMiss s
  | 0x8 => rsvCheck 0xFFFF0000 v s
  | 0x9 => fabricWrite a v s
  | _ => s

/-! ## The indirect port (R497 to R499) -/

/-- IA_SEL selects a space and sets IA_ADDR to 0. -/
def iaSelWriteEffect (v : Word) (s : State) : State :=
  rsvCheck 0xFFFFFFF0 v (modRegs s (fun g => { g with iaSel := v.setWidth 4, iaAddr := 0 }))

/-- Whether IA_ADDR lies in the selected space. -/
def iaLands (s : State) : Bool := s.regs.iaAddr.toNat < spaceSize s.regs.iaSel.toNat

/-- An access of IA_DATA has completed: ERR says whether it failed, and IA_ADDR has advanced (R497, R499). -/
def iaDone (ok : Bool) (s : State) : State := modRegs s (fun g => { g with iaErr := !ok, iaAddr := g.iaAddr + 4 })

/-- A read of IA_DATA. -/
def iaReadEffect (s : State) : State :=
  let v := if iaLands s then indirectRead s.regs.iaSel.toNat s.regs.iaAddr.toNat s else 0
  (iaDone (iaLands s) s).emit (.read (BitVec.ofNat 32 v))

/-- A write of IA_DATA. -/
def iaWriteEffect (v : Word) (s : State) : State :=
  let s' := iaDone (iaLands s) s
  if iaLands s then indirectWrite s.regs.iaSel.toNat s.regs.iaAddr.toNat v s' else s'

/-- IA_SEL_WRITE. -/
def execIaSelWrite (value : Word) (s : State) : Result :=
  whenBound s (fun s => if cxlUp s then iaSelWriteEffect value s else s)

/-- IA_DATA_WRITE. -/
def execIaDataWrite (value : Word) (s : State) : Result :=
  whenBound s (fun s => if cxlUp s then iaWriteEffect value s else s)

/-! ## Writes of the direct window (R10, R492) -/

/-- The RSV bits of the direct registers that no effect below tests. -/
def directRsv (a : Nat) : Nat :=
  if 0x0A0000 ≤ a ∧ a ≤ 0x0A001C ∧ a % 4 = 0 then 0x00030000
  else
    match a with
    | 0x000010 => 0xFFFFFFF8
    | 0x000014 => 0x00F00000
    | 0x010004 => 0x00000003
    | 0x01000C => 0xFFFFFFFC
    | 0x020000 => 0xC0000FF0
    | 0x040000 => 0xFFFFFFFE
    | 0x050000 => 0xFFFFFFFE
    | 0x060000 => 0xFFFFFFFE
    | 0x070000 => 0xFFFFFFFE
    | 0x080000 => 0xFFFFFFFE
    | 0x090004 => 0xFFFF0000
    | 0x0B0000 => 0xFF0000E0
    | 0x0B0004 => 0xFF000000
    | 0x0C0000 => 0x030007FF
    | 0x0C0004 => 0x7C00FC00
    | 0x0C0008 => 0x7003F801
    | 0x0C0010 => 0xFE00FE00
    | 0x0C0014 => 0xFFFFFF00
    | 0x0D0000 => 0x3F80FE00
    | _ => 0

/-- DEV_CTL.REQ (Table 18-8). -/
def devCtlWrite (v : Word) (s : State) : State :=
  match v.toNat % 8 with
  | 1 => warmRequest s
  | 2 => coldRequest s
  | 3 => shutdownRequest s
  | _ => s

/-- A base register of the boot rings ignores writes while ENABLE is 1 (R109). -/
def baseWrite (i : Nat) (v : Word) (s : State) : State :=
  if s.regs.bootEnable then s else modRegs s (fun g => { g with bootBases := g.bootBases.set i v })

/-- RNG_BOOT_CTL: ENABLE enables or disables rings 0 to 2; with ENABLE 0 before and after, the other fields take the write.
Before Ready the write is ignored (R109, R484). -/
def bootCtlWrite (v : Word) (s : State) : State :=
  if bootCtlTakes s = false then s
  else if bit v.toNat 31 then bootEnableEffect v s
  else if s.regs.bootEnable then bootDisableEffect v s
  else bootFields v (markUnbound (bootCtlRsv v) s)

/-- FAB_ADDR ignores writes while FAB_CFG.ENABLE is 1 (Table 11-13). -/
def fabAddrWrite (v : Word) (s : State) : State :=
  if s.fab.enable then s
  else modFab s (fun f => { f with domain := BitVec.ofNat 8 (bits v.toNat 8 8), device := BitVec.ofNat 8 (bits v.toNat 0 8) })

/-- HST_CTL (Table 14-6). -/
def hstCtlWrite (v : Word) (s : State) : State :=
  rsvCheck 0xFF000000 v (modRegs s (fun g =>
    { g with hstTimeout := BitVec.ofNat 8 (bits v.toNat 16 8), hstRetryLim := BitVec.ofNat 16 (bits v.toNat 0 16) }))

/-- The write of a word to an aligned address of the direct window, under the access codes of its register; an address that
no table assigns ignores it (R490). -/
def directWrite (a : Nat) (v : Word) (s : State) : State :=
  if directCounters.contains a then harvestKey a s
  else if 0x030000 ≤ a ∧ a ≤ 0x03001C ∧ a % 4 = 0 then baseWrite ((a - 0x030000) / 4) v s
  else
    let s := rsvCheck (directRsv a) v s
    match a with
    | 0x000010 => devCtlWrite v s
    | 0x010000 => iaSelWriteEffect v s
    | 0x010004 => modRegs s (fun g => { g with iaAddr := v &&& 0xFFFFFFFC })
    | 0x010008 => iaWriteEffect v s
    | 0x030020 => bootCtlWrite v s
    | 0x090000 => fabCfgWrite v s
    | 0x090004 => fabAddrWrite v s
    | 0x0B0004 => hstCtlWrite v s
    | _ => s

/-- A write to BAR0: only aligned 4-byte accesses of its 16 MiB are taken; any other is answered with Unsupported Request
and changes nothing (R404). -/
def bar0Write (a size : Nat) (v : Word) (s : State) : State :=
  if cxlUp s = false ∨ 0x1000000 ≤ a then s
  else if size = 4 ∧ a % 4 = 0 then directWrite a v s
  else s.emit .unsupported

/-- A write to BAR4, under the same rule (R404 states it of BAR0; assumption log 34). -/
def bar4Access (a size : Nat) (v : Word) (s : State) : State :=
  if cxlUp s = false ∨ 0x10000 ≤ a then s
  else if size = 4 ∧ a % 4 = 0 then bar4Write a v s
  else s.emit .unsupported

/-- A read of BAR0: an aligned word is answered, any other access with Unsupported Request, and one outside the window or
while CXL.io is down not at all (R404, R490, R493). -/
def bar0Read (a size : Nat) (s : State) : State :=
  if cxlUp s = false ∨ 0x1000000 ≤ a then s
  else if size = 4 ∧ a % 4 = 0 then
    if a = 0x010008 then iaReadEffect s else s.emit (.read (BitVec.ofNat 32 (directRead a s)))
  else s.emit .unsupported

/-- IA_DATA_READ: the read of BAR0 that has an effect. -/
def execIaDataRead (s : State) : Result := whenBound s (bar0Read 0x010008 4)

/-- REGISTER_WRITE, in the windows that CXL.io carries (Tables 14-3 and 14-4). -/
def execRegisterWrite (addr size : Nat) (value : Word) (s : State) (window : HostWindow := .bar0) : Result :=
  whenBound s (fun s => match window with
    | .bar0 => bar0Write addr size value s
    | .bar4 => bar4Access addr size value s
    | .msixControl => if cxlUp s then msixControlWrite value s else s)

/-- HARVEST: a write to an HV counter of the direct window, whatever its value (Table 0-4). -/
def execHarvest (addr : Nat) (_value : Word) (s : State) : Result :=
  whenBound s (fun s => if cxlUp s && directCounters.contains addr then harvestKey addr s else s)

/-! ## The sideband (R395) -/

/-- A UCIe register access: ID_MODREV, HST_STATUS and HST_CTL read, HST_CTL writes; anything else is answered with
Unsupported Request. -/
def sidebandEffect (addr : Nat) (write : Option Word) (s : State) : State :=
  if s.dev.state = .off ∨ s.dev.state = .standby then s
  else
    match write with
    | some v => if addr = 0x0B0004 then hstCtlWrite v s else s.emit .unsupported
    | none =>
      if addr = 0x000000 ∨ addr = 0x0B0000 ∨ addr = 0x0B0004 then s.emit (.read (BitVec.ofNat 32 (directRead addr s)))
      else s.emit .unsupported

/-- SIDEBAND_REGISTER_ACCESS. -/
def execSidebandRegisterAccess (addr : Nat) (write : Option Word) (s : State) : Result :=
  whenBound s (sidebandEffect addr write)

end Sys2Proof.Machine
end

