-- ==== Sys2Proof/Machine/Landing.lean ====
section
/-!
DEFINITION. The landing of a partition, of the device and of the stairwell: the steps of Table 2-9 and the broken landing
(02_treads_and_landings.md, R35 to R37, R57 to R62). The riser that calls them stands in Machine/Riser.lean.
-/
namespace Sys2Proof.Machine

/-! ## Which settings are due (R58) -/

/-- Whether a pending setting is due at this riser for its scope, where `begins` is the flight that a partition begins
here. -/
def settingDue (s : State) (begins : Option Word) (x : Setting) : Bool :=
  x.target == 0 ||
    (if (s.ring x.ring).owner < 8 then begins == some x.target
    else !newer x.target (BitVec.ofNat 32 s.time.tread.toNat))

/-- Whether a setting is a normal pre-emption. -/
def isPreempt (x : Setting) : Bool := match x.kind with | .preempt _ => true | _ => false

/-- Whether a normal pre-emption can begin its save now (Table 13-6). -/
def preemptible (q : Partition) : Bool := q.state == .running && !q.saveBusy && !q.restoreBusy

/-- The flight that begins at a landing of a scope: none where a pre-emption due at that landing applies, for then the
partition begins its save instead (R58, R63). -/
def beginsUnlessPreempted (scope : Nat) (begins : Option Word) (s : State) : Option Word :=
  if scope < 8 ∧ preemptible (s.part scope) = true ∧
      s.settings.any (fun x => x.scope == scope && isPreempt x && settingDue s begins x) = true then none
  else begins

/-- The due settings of a scope, in acceptance order. A target flight n is the landing that begins flight n; a pre-emption
with that target is due where flight n would begin. -/
def dueOf (scope : Nat) (begins : Option Word) (s : State) : List Setting :=
  let b := beginsUnlessPreempted scope begins s
  s.settings.filter (fun x => x.scope == scope && settingDue s (if isPreempt x then begins else b) x)

/-- The state without some pending settings. -/
def dropSettings (l : List Setting) (s : State) : State :=
  { s with settings := s.settings.filter (fun x => !l.contains x) }

/-! ## Strikes and shadows (steps 2 and 3) -/

/-- Extents whose return waited for this landing return (R243). -/
def returnExtents (p : Nat) (s : State) : State := s.modPart p (fun q => { q with returning := (0, 0) })

/-- Step 2: every staged layer commits. -/
def stepCommit (p : Nat) (s : State) : State := (tkeys (s.part p).layers).foldl (fun s n => commitLayer p n s) s

/-- Step 3: every layer's strike is swapped, then the due EVICT settings apply. -/
def stepSwap (p : Nat) (due : List Setting) (s : State) : State × List Done :=
  let a := (tkeys (s.part p).layers).foldl (fun a n =>
    let r := swapLayer p n a.1
    (r.1, a.2 ++ r.2)) (s, [])
  due.foldl (fun a x =>
    match x.kind with
    | .evict n =>
      let r := evictLayer p n a.1
      (r.1, a.2 ++ [doneOf x r.2.1 r.2.2.1 r.2.2.2 0])
    | _ => a) a

/-! ## Reports (R238, R335) -/

/-- The two fp32 fields of an exact sum, and whether the first overflowed. -/
def reportSum (d : Dy) : Word × Word × Bool :=
  let hi := toF32 (Dy.num d)
  let h := ofF32 hi
  if h.isFin then (hi, toF32 ((Dy.num d).sub h), false) else (hi, 0, true)

/-- The report record of watch k (Table 8-7). -/
def watchReport (k : Nat) (flight : Word) (w : Watch) : Bytes :=
  let a := reportSum w.s1
  let b := reportSum w.s2
  let nan : Word := 0x7FC00000
  let pick := fun (x : Word) => toLE (if w.nan then nan else x).toNat 4
  toLE k 1 ++ toLE (if w.nan then 1 else 2 * b2n (a.2.2 || b.2.2)) 1 ++ toLE 0 2 ++ toLE flight.toNat 4 ++
    toLE w.folds.toNat 4 ++ toLE w.finals.toNat 4 ++ pick a.1 ++ pick a.2.1 ++ pick b.1 ++ pick b.2.1

/-- A watch with its sums and counts at zero. -/
def Watch.cleared (w : Watch) : Watch :=
  { w with s1 := { m := 0, e := 0 }, s2 := { m := 0, e := 0 }, folds := 0, finals := 0, nan := false }

/-- Every enabled watch writes its report; then its sums are zero. -/
def watchReports (p : Nat) (flight : Word) (s : State) : State :=
  (s.part p).watches.foldl (fun s e =>
    if e.2.enabled then modWatch p e.1 Watch.cleared (hbmWrite e.2.report.toNat (watchReport e.1 flight e.2) s) else s) s

/-- The 16 bytes that a queue writes at a partition landing. -/
def queueReport (x : Queue) : Bytes :=
  toLE x.since 4 ++ toLE (if x.receive then x.complete.length else x.credits) 4 ++ toLE x.stall 8

/-- Every queue of the partition writes its report. -/
def queueReports (p : Nat) (s : State) : State :=
  let s := (s.part p).queues.foldl (fun s x => hbmWrite x.report (queueReport x) s) s
  s.modPart p (fun q => { q with queues := q.queues.map (fun x => { x with since := 0, stall := 0 }) })

/-! ## The remaining partition settings (step 5) -/

/-- Extents in use, HBM and vault, that a STASH_SET reports (R246). -/
def stashInUse (q : Partition) : Nat × Nat := (extentsIn .stashed q.stash + q.returning.1, vaultInUse q)

/-- STASH_SET at its landing (R246, R257). -/
def applyStash (p : Nat) (x : Setting) (hbm vault fb : Nat) (s : State) : State × List Done :=
  let q := s.part p
  let u := stashInUse q
  if q.record.vaultSize - 64 - heldExtents q < vault / 65536 then (s, [doneOf x 0x13 1 u.1 u.2])
  else (s.setPart p { q with hbmLimit := hbm, vaultLimit := vault, fallback := fb }, [doneOf x 0x00 0 u.1 u.2])

/-- FREEZE_SET at its landing (R272). -/
def applyFreeze (p : Nat) (x : Setting) (n : Nat) (frozen load clear : Bool) (mask : List Nat) (s : State) :
    State × List Done :=
  match layerOf (s.part p) n with
  | none => (s, [doneOf x 0x3F 0 0 0])
  | some l =>
    let m := if load then mask else if clear then [] else l.mask
    (setLayer p n { l with frozen := frozen, mask := m } s, [doneOf x 0x00 0 0 0])

/-- The values of a list with those of selected places replaced. -/
def selectBits {α : Type} (select : Nat) (new old : List α) : List α :=
  (old.zip new).zipIdx.map (fun (v, i) => if bit select i then v.2 else v.1)

/-- TURN_SET at its landing, with the sum check again (R378). -/
def applyTurn (p : Nat) (x : Setting) (select : Nat) (shares : List Nat) (strict : Nat) (s : State) : State × List Done :=
  match shareOver p select shares s with
  | some r => (s, [doneOf x 0x13 r 0 0])
  | none =>
    (s.modPart p (fun q =>
      { q with shares := selectBits select shares q.shares,
               strict := selectBits select ((List.range 4).map (bit strict)) q.strict }), [doneOf x 0x00 0 0 0])

/-- A generator slot that GEN_SET has not written. -/
def GenSlot.atReset : GenSlot := { seed := 0, stream := 0, epoch := 0, auto := false }

/-- One setting of step 5 applied. -/
def applySetting (p : Nat) (a : State × List Done) (x : Setting) : State × List Done :=
  let one := fun (r : State × List Done) => (r.1, a.2 ++ r.2)
  let done := [doneOf x 0x00 0 0 0]
  match x.kind with
  | .mintSet k h => one (a.1.modPart p (fun q => { q with hypers := tset q.hypers k h }), done)
  | .freezeSet n frozen load clear mask => one (applyFreeze p x n frozen load clear mask a.1)
  | .genSet k g keep =>
    one (a.1.modPart p (fun q =>
      let g := if keep then { g with epoch := (tget GenSlot.atReset q.gens k).epoch } else g
      { q with gens := tset q.gens k g }), done)
  | .stashSet hbm vault fb => one (applyStash p x hbm vault fb a.1)
  | .watchSet k on report => one (modWatch p k (fun w => { w with enabled := on, report := report }) a.1, done)
  | .turnSet _ select shares strict => one (applyTurn p x select shares strict a.1)
  | _ => a

/-- Whether a GEN_SET of slot k is among the settings. -/
def setsGen (k : Nat) (due : List Setting) : Bool :=
  due.any (fun x => match x.kind with | .genSet j _ _ => j == k | _ => false)

/-- Epochs of AUTO slots after a flight that ended with DONE (R226). -/
def stepEpochs (p : Nat) (due : List Setting) (s : State) : State :=
  s.modPart p (fun q => { q with gens := tmap q.gens (fun k g =>
    if g.auto && !setsGen k due then { g with epoch := g.epoch + 1 } else g) })

/-! ## Landing state (R62, R192, R195, R243, R247, R249) -/

/-- The pages of the partition's cores with a new landing state: no checkpoint mark, and whether each slot is Free. -/
def landPages (q : Partition) (s : State) : State :=
  (partCores q).foldl (fun s c =>
    match tget? s.cores c with
    | none => s
    | some _ => s.modCore c (fun x => { x with pages := tmap x.pages (fun _ y =>
        { y with ckpt := false, freeAtLanding := y.image.state == .free }) })) s

/-- The landing state that a later broken landing returns to. -/
def landState (p : Nat) (s : State) : State :=
  let s := if (s.part p).wingsHeld then landPages (s.part p) s else s
  s.modPart p (fun q =>
    let l := tmap q.stash (fun _ x => { x with fresh := false })
    { q with stash := l, landed := { stash := l, leases := q.leases } })

/-! ## Pre-emption (step 6, R63, R386) -/

/-- Normal pre-emption: the save begins. -/
def stepPreempt (p : Nat) (due : List Setting) (s : State) : State × List Done :=
  due.foldl (fun a x =>
    match x.kind with
    | .preempt _ =>
      let q := a.1.part p
      if preemptible q then
        (a.1.setPart p { q with saveBusy := true, evicted := false, saveAsked := none, holds := 0, fenced := 0 },
          a.2 ++ [doneOf x 0x00 0 0 0])
      else (a.1, a.2 ++ [doneOf x 0x11 q.state.code 0 0])
    | _ => a) (s, [])

/-- Steps 2 to 6 for partition p, where `ended` is the flight that ends here with DONE. A watch reports at every such landing
(R238); where no flight ends, its record names the last flight that ended (assumption log 69). -/
def landPartition (p : Nat) (ended begins : Option Word) (s : State) : State × List Done :=
  let due := dueOf p begins s
  let s := stepCommit p (returnExtents p (dropSettings due s))
  let a := stepSwap p due s
  let b := seqStep4 p due a.1
  let s := watchReports p (ended.getD (s.part p).lastFlight) b.1
  let c := due.foldl (applySetting p) (queueReports p s, [])
  let s := if ended.isSome then stepEpochs p due c.1 else c.1
  let d := stepPreempt p due (landState p s)
  (d.1, a.2 ++ b.2 ++ c.2 ++ d.2)

/-! ## Broken landings (R62, R195, R238, R247, R249, R271, R308) -/

/-- A page slot as its checkpoint image gives it; `lo` when it is the second page of a pair (R193). -/
def ckptPage (bs : Bytes) (lo : Bool) : PageImage :=
  let st : PageState := if lo then .lo else if byteAt bs 8 = 2 then .sealed else .held
  { imageOf (pageTypeOf (byteAt bs 1)) bs with state := st }

/-- The checkpointed pages of a core reloaded, the others Free when they were Free at the landing. -/
def reloadCore (q : Partition) (c : Nat) (s : State) : State :=
  let old := s.core c
  let image := fun (p : Nat) => hbmRead (ckptAddr q c p) 8256 s
  let kept := fun (p : Nat) => (tget Page.atReset old.pages p).ckpt
  let pairAt := fun (p : Nat) => kept p && byteAt (image p) 1 == 2
  let lo := fun (p : Nat) => (List.range p).foldl (fun (acc : Bool) i => pairAt i && !acc) false
  s.setCore c { old with
    reloading := old.reloading || old.pages.any (fun e => e.2.ckpt),
    pages := tmap old.pages (fun p y =>
      if y.ckpt then { y with image := ckptPage (image p) (lo p), ckpt := false, filling := false }
      else if y.freeAtLanding then { y with image := PageImage.free, filling := false }
      else y) }

/-- Every core of the partition reloaded. -/
def reloadCores (q : Partition) (s : State) : State :=
  (partCores q).foldl (fun s c => match tget? s.cores c with | none => s | some _ => reloadCore q c s) s

/-- Collective work of a partition completes with POISONED (R330). -/
def poisonClears (p : Nat) (s : State) : State :=
  (s.work.filter (fun w => w.part == p && decide (w.opcode / 16 = 3))).foldl (fun s w =>
    finish w.ring w.tag 0x30 3 0 0 ((s.dropWork w.id).bump kPoison)) s

/-- A broken landing of partition p: steps 2 to 8 are skipped and the landing state is that of the last completed landing. -/
def breakLanding (p : Nat) (s : State) : State × List Done :=
  let s := reloadCores (s.part p) s
  let s := s.modPart p (fun q =>
    { q with stash := q.landed.stash, leases := q.landed.leases, returning := (0, 0),
             watches := tmap q.watches (fun _ w => w.cleared) })
  discardMint p (poisonClears p (seqBroken p s))

/-! ## Flight completions and the next flights (R35, R37) -/

/-- The flight of partition p is over, and with it the exchange bodies that no job has used; `broken` is the poison detail of
a broken landing (R35, R266). -/
def clearFlight (p : Nat) (f : Flight) (broken : Option Nat) (s : State) : State :=
  staleBodies p (s.modPart p (fun q =>
    { q with flight := none, lastFlight := f.plan.flight, replayDue := broken.isSome, poison := none }))

/-- The final completion of a flight (R37). -/
def postFlight (f : Flight) (broken : Option Nat) (s : State) : State :=
  finish f.plan.ring f.plan.tag (if broken.isSome then 0x30 else 0x00) (broken.getD 0) s.time.tread.toNat
    (halves f.slips f.holds) s

/-- The flight-set entries reported for a riser: this device's own, and those of the other members (R35, R323). -/
structure Reports where
  own : List SetEntry
  others : List SetEntry
  deriving DecidableEq, Repr

/-- The entries that all members report for this riser: own ones as sent, else as they stand. -/
def reports (s : State) : Reports :=
  { own := match s.stw.sent with
      | some (r, l) => if r = s.time.tread then l else ownEntries s
      | none => ownEntries s
    others := ((s.stw.others.filter (fun m => m.riser == s.time.tread && m.addr != fabAddr s)).map Member.sets).flatten }

/-- What this riser does with a pending plan: nothing, BAD_VALUE with a detail, or the flight begins (R35). -/
inductive PlanFate where
  | stays
  | bad (detail : Nat)
  | begins
  deriving DecidableEq, Repr

/-- Whether an entry reports a plan for the same set and flight as plan g. -/
def sameFlight (g : Plan) (e : SetEntry) : Bool := e.set == g.set && e.pendingFlight == g.flight

/-- Whether two entries of a list differ in something. -/
def differ {α : Type} [BEq α] (f : SetEntry → α) : List SetEntry → Bool
  | [] => false
  | e :: l => l.any (fun x => f x != f e)

/-- The fate of plan g of partition p, given the entries reported before the riser: two reports for its set and flight that
differ, ready or not, give BAD_VALUE with the first field; else the flight begins once all members show the plan pending. -/
def planFate (p : Nat) (g : Plan) (entries : Reports) : PlanFate :=
  let l := (entries.own ++ entries.others).filter (sameFlight g)
  let mine := entries.own.any (fun e => e.part.toNat == p && e.planPending && sameFlight g e)
  if differ SetEntry.pendingLength l then .bad 20
  else if differ SetEntry.members l then .bad 26
  else if mine && g.members.toNat ≤ (l.filter SetEntry.planPending).length then .begins
  else .stays

/-- The plan that partition p could begin at this riser: no flight is in progress after it, and the partition is Running
and does not wait for a save or a restore (R35, R36, R387). -/
def openPlan (q : Partition) : Option Plan :=
  if q.state = .running ∧ q.flight.isNone = true ∧ q.saveBusy = false ∧ q.restoreBusy = false ∧ q.saveAsked.isNone = true then
    pendingPlan q
  else none

/-- Plan g of partition p begins its flight, in a tread of this kind; step 10 posts its DEFERRED (R35, R37). -/
def beginFlight (p : Nat) (g : Plan) (s : State) : State × List Done :=
  (s.modPart p (fun q =>
    { q with plans := q.plans.filter (· != g), replayDue := false,
             flight := some { plan := g, pos := 0, slips := b2n (s.time.kind == .slip), holds := b2n (s.time.kind == .hold) } }),
   [{ ring := g.ring, tag := g.tag, status := 0x08, detail := 0, result := halves g.flight.toNat 0, aux := s.time.tread.toNat,
      interim := true }])

/-- The pending plan of partition p taken up or refused at this riser: it may begin only when no flight is in progress; two
members' differing reports refuse it even before it is ready (R35). -/
def takePlan (entries : Reports) (a : State × List Done) (p : Nat) : State × List Done :=
  let s := a.1
  match pendingPlan (s.part p) with
  | none => a
  | some g =>
    match planFate p g entries with
    | .stays => a
    | .begins =>
      if openPlan (s.part p) = some g then
        let r := beginFlight p g s
        (r.1, a.2 ++ r.2)
      else a
    | .bad d =>
      (s.modPart p (fun q => { q with plans := q.plans.filter (· != g) }),
        a.2 ++ [{ ring := g.ring, tag := g.tag, status := 0x10, detail := d, result := 0, aux := 0 }])

/-! ## Device and stairwell landings (steps 7 and 8) -/

/-- A device setting of step 7 that waits for no more than the landing. -/
def applyDevice (a : State × List Done) (x : Setting) : State × List Done :=
  match x.kind with
  | .cap w => (modPwr a.1 (fun p => { p with cap := w }), a.2 ++ [doneOf x 0x00 0 0 0])
  | .vf fixed boost base floor =>
    (modPwr a.1 (fun p => { p with fixed := fixed, boost := boost, base := base, floor := floor }),
      a.2 ++ [doneOf x 0x00 0 0 0])
  | _ => a

/-- Whether a setting is a firmware activation, which step 7 treats apart. -/
def isActivation (x : Setting) : Bool := (settingKey x.kind).1 == 18

/-- Step 7 of Table 2-9. -/
def landDevice (found : RiserFindings) (s : State) : State × List Done :=
  let due := (dueOf 8 none s).filter (fun x => !isActivation x)
  let a := due.foldl applyDevice (dropSettings due s, [])
  let s := landPower found a.1
  let b := activations (settingDue s none) s
  (b.1, a.2 ++ b.2)

/-- Whether another member's beacon shows this riser to be a device landing of its own: each of its flights in progress
lands, which only a normal tread lets it do, or ends at the riser as poisoned (R46, R57, R62). -/
def memberLands (s : State) (a : Half) : Bool :=
  s.stw.others.any (fun m => m.addr == a && m.riser == s.time.tread &&
    m.sets.all (fun e => e.flight == 0 || e.poison || (e.lands && s.time.kind == .normal)))

/-- A stairwell setting of step 8. -/
def applyStairwell (a : State × List Done) (x : Setting) : State × List Done :=
  let done := a.2 ++ [doneOf x 0x00 0 0 0]
  match x.kind with
  | .period us => ({ a.1 with time := { a.1.time with period := us } }, done)
  | .slipBound n => ({ a.1 with stw := { a.1.stw with bound := n } }, done)
  | .leader m => ({ a.1 with stw := { a.1.stw with leader := m, badOffsets := 0 } }, done)
  | _ => a

/-- What the time leader's beacon named for this riser, on a follower (R51). -/
def applyLeaderPending (s : State) : State :=
  let l := s.stw.leaderPending
  { s with time := { s.time with period := l.1.getD s.time.period },
           stw := { s.stw with bound := l.2.1.getD s.stw.bound, leader := l.2.2.getD s.stw.leader,
                               leaderPending := (none, none, none) } }

/-- Step 8 of Table 2-9. -/
def landStairwell (s : State) : State × List Done :=
  let due := dueOf 9 none s
  due.foldl applyStairwell (applyLeaderPending (dropSettings due s), [])

/-- What a landing may change that a settle tread follows (R61). -/
def clocking (s : State) : Nat × Bool × Nat := (s.pwr.vf, s.pwr.fixed, s.time.period)

/-- Steps 7 and 8 where the device and the stairwell land, and the settle tread that a change of clock or period brings. -/
def landAll (device : Bool) (found : RiserFindings) (s : State) : State × List Done :=
  if device = false then (s, [])
  else
    let old := clocking s
    let a := landDevice found s
    let b := if (otherMembers s).all (memberLands s) then landStairwell a.1 else (a.1, [])
    let s := b.1
    let s := if clocking s = old then s else { s with time := { s.time with kind := .settle } }
    (s, a.2 ++ b.2)

/-! ## Setting completions (step 10) -/

/-- Completions in ring order, within each ring in the order in which its descriptors were accepted; one for each
descriptor. -/
def orderDones (s : State) (l : List Done) : List Done :=
  let once := l.foldl (fun acc d => if acc.any (fun e => e.ring == d.ring && e.tag == d.tag) then acc else acc ++ [d]) []
  let place := fun (d : Done) => (s.ring d.ring).live.findIdx (fun x => x.tag == d.tag)
  sortBy (fun a b => a.ring < b.ring || (a.ring == b.ring && place a < place b)) once

/-- Step 10 of Table 2-9: the completions of settings, plans, UPDATEs and STRIKEs posted, deferrals among them. -/
def postDones (l : List Done) (s : State) : State :=
  (orderDones s l).foldl (fun s d =>
    if d.interim then interim d.ring d.tag d.detail d.result d.aux s
    else finish d.ring d.tag d.status d.detail d.result d.aux s) s

end Sys2Proof.Machine
end

