-- ==== Sys2Proof/Machine/Riser.lean ====
section
/-!
DEFINITION. The riser and the budget monitor (02_treads_and_landings.md, R29, R35 to R48, R55 to R65;
13_partitions_and_isolation.md, R375, R376, R387).
-/
namespace Sys2Proof.Machine

/-! ## The kind of the tread that begins (R46 to R48, R55, R56, R64) -/

/-- The reference counter at the riser, and the next tread count. -/
def tickClock (s : State) : State :=
  let at_ := s.time.riserAt + cyclesPerUs * s.time.period
  { s with time := { s.time with ref := max s.time.ref at_, riserAt := at_, tread := s.time.tread + 1 } }

/-- Whether the tread that begins is held (R64). -/
def holdInForce (s : State) : Bool := s.stw.holdsFor.contains s.time.tread || s.parts.any (fun e => partHolds e.2)

/-- The member that announced a slip for the riser at hand (R44). -/
def slipFrom (s : State) : Option Half := (s.stw.slips.find? (fun x => x.1 == s.time.tread)).map (fun x => x.2.2)

/-- Whether a partition's sequence copies must end before riser r (R307). -/
def copiesDue (r : Nat) (q : Partition) (s : State) : Bool :=
  (q.state == .running || q.state == .draining) && (q.flight.isNone || landsAt r q s) &&
    q.seqs.any (fun y => !y.2.copying.isEmpty)

/-- Whether a partition's flight would land at the riser at hand with an UPDATE or STRIKE of it still Running (R270). -/
def mintDue (q : Partition) (s : State) : Bool :=
  landsAt s.time.tread.toNat q s && q.poison.isNone && q.layers.any (fun y =>
    y.2.state == .running && (y.2.job.map MintJob.flight) == (q.flight.map (fun (f : Flight) => f.plan.flight)))

/-- Whether admitted work of this device is unfinished at a riser (R48); work of a saved partition is not. LAYER_IO is
no work that is admitted into a tread. -/
def workUnfinished (s : State) : Bool :=
  s.parts.any (fun e => copiesDue s.time.tread.toNat e.2 s || mintDue e.2 s) ||
  !(livePrograms s).isEmpty || s.work.any (fun w => w.hall != 512 && partLive (s.part w.part)) ||
    s.halls.any (fun e => !e.2.dma.isEmpty)

/-- The slip run with a new value. -/
def setRun (n : Nat) (s : State) : State := { s with stw := { s.stw with run := n } }

/-- Every member leaves Halted at the resume riser (R56). -/
def leaveHalt (s : State) : State :=
  let owners := s.stw.haltOwners
  let alone := s.stw.members.isEmpty
  let from_ := if alone then fabAddr s else s.stw.leader
  let s := { s with stw := { s.stw with state := if alone then .alone else .aligned, run := 0, haltCause := 0,
                                        resumeAt := none, haltOwners := [] } }
  owners.foldl (fun s o => postEvent o 0x1002 0 from_.toNat (65536 * s.time.tread.toNat) s) s

/-- A halt taken at the riser at hand, told to the members (R48, R55). -/
def haltHere (cause : Nat) (addr : Half) (s : State) : State :=
  let r := s.time.tread.toNat
  sendBeacon (newBeacon 5 cause r [] s) (haltNow cause addr r s)

/-- What the tread that begins is, and the stairwell's state with it. -/
def riserKind (s : State) : State × TreadKind :=
  if s.stw.state = .halted then
    if s.stw.resumeAt = some s.time.tread then
      let s := leaveHalt s
      (s, if holdInForce s then .hold else .normal)
    else (s, .halted)
  else
    match s.stw.haltAt.filter (fun h => h.1.toNat ≤ s.time.tread.toNat) with
    | some h => (haltHere h.2.1 h.2.2 s, .halted)
    | none =>
      if holdInForce s then (s, .hold)
      else
        match slipFrom s with
        | some a => if s.stw.bound ≤ s.stw.run then (haltNow 1 a s.time.tread.toNat s, .halted) else (setRun (s.stw.run + 1) s, .slip)
        | none => if workUnfinished s then (haltHere 2 (fabAddr s) s, .halted) else (setRun 0 s, .normal)

/-- The tread that begins. -/
def setKind (k : TreadKind) (s : State) : State := { s with time := { s.time with kind := k } }

/-- The counters of Table 2-3 for the tread that begins, once its landing has made it a settle tread or not (R49, R61). -/
def countKind (s : State) : State :=
  match s.time.kind with
  | .slip => s.bump (kTrd 1)
  | .hold => s.bump (kTrd 2)
  | .settle => s.bump (kTrd 4)
  | _ => s

/-! ## Flights at the riser (R32, R36, R46, R62) -/

/-- The positions of flights whose partitions run, after a tread of this kind (R46, R55, R61, R64). -/
def advanceFlights (ended : TreadKind) (s : State) : State :=
  if ended ≠ .normal then s
  else { s with parts := tmap s.parts (fun _ q =>
    match q.state, q.flight with
    | .running, some f => { q with flight := some { f with pos := f.pos + 1 } }
    | .draining, some f => { q with flight := some { f with pos := f.pos + 1 } }
    | _, _ => q) }

/-- How a partition's flight ends at the riser at hand: not, with DONE, or at a broken landing with a detail. -/
inductive FlightEnd where
  | goesOn
  | lands
  | breaks (detail : Nat)
  deriving DecidableEq, Repr

/-- The end of partition q's flight in a tread of this kind. -/
def flightEnd (q : Partition) (k : TreadKind) (tread : Nat) : FlightEnd :=
  match q.flight with
  | none => .goesOn
  | some f =>
    if q.state = .running ∨ q.state = .draining then
      match q.poison with
      | some (d, r) => if r ≤ tread then .breaks d else .goesOn
      | none => if k = .normal ∧ f.plan.length ≤ f.pos then .lands else .goesOn
    else .goesOn

/-- Slip and hold treads counted by the flights that go on, and hold treads by the partitions that hold. -/
def countTreads (k : TreadKind) (s : State) : State :=
  { s with parts := tmap s.parts (fun _ q =>
      let q := if k = .hold ∧ partHolds q = true then { q with holds := q.holds + 1 } else q
      match q.state, q.flight with
      | .saved, _ => q
      | _, some f =>
        { q with flight := some { f with slips := f.slips + b2n (k == .slip), holds := f.holds + b2n (k == .hold) } }
      | _, none => q) }

/-! ## Accepted partition commands (R64, R375, R376, R387) -/

/-- PART_START, PART_RESUME and PART_EVICT of partition p at the riser at which they take effect. A PART_STOP that a save overtook
goes on after the resume (assumption log 112). -/
def takeCommands (s : State) (p : Nat) : State :=
  let q := s.part p
  if s.time.tread.toNat < q.takesAt.toNat then s
  else if q.startPend then
    if q.state = .configured then
      endCmds p 0x91 0x00 0 0 (moveState p .running (s.setPart p { q with startPend := false }))
    else if q.state = .saved then
      let s := moveState p .running
        (s.setPart p { q with startPend := false, restoreBusy := true, fenceDue := false, holds := 0 })
      if q.cmds.any (fun c => c.opcode == 0x92) then moveState p .draining s else s
    else s
  else if q.cmds.any (fun c => c.opcode == 0x94) && q.saveAsked.isNone then
    if (q.state = .running ∨ q.state = .draining) ∧ q.saveBusy = false then
      s.setPart p { q with saveAsked := some true, holds := 0, fenced := 0 }
    else endCmds p 0x94 0x11 q.state.code 0 s
  else s

/-- Whether a draining partition has ended all that PART_STOP waits for (R376). -/
def drained (p : Nat) (s : State) : Bool :=
  let q := s.part p
  q.state == .draining && !q.saveBusy && !q.restoreBusy && q.saveAsked.isNone && q.flight.isNone && s.programs.all (fun g => g.part != p) && s.work.all (fun w => w.part != p) &&
    q.layers.all (fun e => e.2.job.isNone) && q.seqs.all (fun e => e.2.copying.isEmpty)

/-- A draining partition that has ended its work is Configured, and its fetched descriptors end (R376). -/
def stepStop (s : State) (p : Nat) : State :=
  if drained p s = false then s
  else
    let s := moveState p .configured s
    let s := (ringsOf p s).foldl (fun s n => (abortFetched n 6 s).1) s
    endCmds p 0x92 0x00 0 0 s

/-! ## What a flight's landing ends (R39, R105) -/

/-- Whether a fetched descriptor's target flight is n, or one before it; a target of 0 is the flight that was in progress
(R39). -/
def targets (n : Word) (f : Fetched) : Bool :=
  let t := BitVec.ofNat 32 (u32 f.bytes 8)
  t == 0 || t == n || flightEarlier t n

/-- Whether a fetched descriptor that is admitted into treads had its target flight land with flight n. -/
def targetLanded (n : Word) (f : Fetched) : Bool :=
  let c := byteAt f.bytes 0 / 16
  targets n f && (1 ≤ c && c ≤ 4 || (c == 5 && byteAt f.bytes 0 < 0x55))

/-- The descriptors of a ring that were not admitted in their target flight complete with BAD_STATE (R39). -/
def failLate (n : Word) (code : Nat) (s : State) (rn : Nat) : State :=
  let r := s.ring rn
  let l := r.fetched.filter (targetLanded n)
  let s := s.setRing rn { r with fetched := r.fetched.filter (fun f => !targetLanded n f) }
  l.foldl (fun s f => finish rn f.tag 0x11 code 0 0 s) s

/-- The target flight of the TALLY at the head of a ring has landed, so that its WAITs without a limit expire (R105). -/
def expireHead (n : Word) (s : State) (rn : Nat) : State :=
  s.modRing rn (fun r =>
    match r.fetched with
    | f :: rest =>
      if byteAt f.bytes 0 = 1 ∧ targets n f = true then { r with fetched := { f with landed := true } :: rest }
      else r
    | [] => r)

/-- CLEARs whose tag is still unmatched when their target flight lands complete with BAD_STATE (R337). -/
def failUnmatched (p : Nat) (n : Word) (code : Nat) (s : State) : State :=
  let l := s.work.filter (fun w =>
    w.part == p && isCollective w.opcode && w.flight != 0 && (w.flight == n || flightEarlier w.flight n) &&
      w.readys.isEmpty && w.counts.length ≤ 1 && w.arrived.isEmpty)
  l.foldl (fun s w => finish w.ring w.tag 0x11 code 0 0 (s.dropWork w.id)) s

/-- What partition p's flight n leaves undone at its landing. -/
def landingEnds (p : Nat) (n : Word) (s : State) : State :=
  let code := (s.part p).state.code
  let l := ringsOf p s
  failUnmatched p n code (l.foldl (expireHead n) (l.foldl (failLate n code) s))

/-! ## A tread begins (R40, R270, R389) -/

/-- Whether the head of a ring is a TALLY that waits. -/
def headWaits (r : Ring) (s : State) : Bool :=
  match r.fetched with
  | f :: _ => byteAt f.bytes 0 == 1 && decide (f.done < 3) && tallyRecordWaits (tallyRec f) s
  | [] => false

/-- One more tread waited by the WAITs of running partitions and of the device domain (R105, R389). -/
def countWaits (s : State) : State :=
  let runs := fun (o : Nat) => o == deviceOwner || (s.part o).state == .running
  let rings := tmap s.rings (fun _ r =>
    if runs r.owner && headWaits r s then
      match r.fetched with
      | f :: rest => { r with fetched := { f with waited := f.waited + 1 } :: rest }
      | [] => r
    else r)
  let programs := s.programs.map (fun g =>
    if runs g.part then
      (g.coreList.filter (fun c => coreTallyWaits g c s)).foldl (fun g c => { g with waited := tmod 0 g.waited c (· + 1) }) g
    else g)
  { s with rings := rings, programs := programs }

/-- What begins anew with a tread: the descriptors that may be admitted, declared costs, late marks, stalls, the galleries stretched in it, and the
announcements for risers that have passed. -/
def newTread (s : State) : State :=
  let p := s.pwr
  let layer := fun (l : Layer) => { l with job := l.job.map (fun j => { j with late := false }) }
  { s with rings := tmap s.rings (fun n r => { r with due := dueNow n r s }),
           cores := tmap s.cores (fun _ c => { c with cost := 0 }), halls := tmap s.halls (fun _ h => { h with cost := 0 }),
           programs := s.programs.map (fun g => { g with stalled := false }),
           parts := tmap s.parts (fun _ q =>
             { q with layers := tmap q.layers (fun _ l => layer l), seqs := tmap q.seqs (fun _ x => { x with late := false }) }),
           pwr := { p with touched := (p.tempStretch ++ p.currentStretch ++ p.droopStretch).eraseDups },
           stw := { s.stw with slips := s.stw.slips.filter (fun x => s.time.tread.toNat < x.1.toNat),
                               holdsFor := s.stw.holdsFor.filter (fun r => s.time.tread.toNat < r.toNat),
                               seen := s.stw.seen.filter (fun x => s.time.tread.toNat ≤ x.2.1.toNat + 16) } }

/-! ## RISER -/

/-- A partition landing at this riser: a Configured partition always; a Running or Draining one when it has no flight
after the riser (R36, R57, R374). -/
def landsHere (q : Partition) : Bool :=
  match q.state with
  | .configured => true
  | .running => q.flight.isNone
  | .draining => q.flight.isNone
  | _ => false

/-- The flight that partition p begins at this riser, unless it is pre-empted here; none while the stairwell is Halted. -/
def beginsHere (p : Nat) (entries : Reports) (s : State) : Option Word :=
  match openPlan (s.part p) with
  | none => none
  | some g => if s.time.kind ≠ .halted ∧ planFate p g entries = .begins then some g.flight else none

/-- Steps 1 to 6 of Table 2-9 for one partition, given how its flight ended. -/
def landOne (entries : Reports) (a : State × List Done) (e : Nat × Option Flight × FlightEnd) : State × List Done :=
  let p := e.1
  let r := match e.2.2 with
    | .breaks _ => breakLanding p a.1
    | .lands => landPartition p (e.2.1.map (fun (f : Flight) => f.plan.flight)) (beginsHere p entries a.1) a.1
    | .goesOn =>
      if landsHere (a.1.part p) then landPartition p none (beginsHere p entries a.1) a.1 else (a.1, [])
  (r.1, a.2 ++ r.2)

/-- The flight of a partition cleared when it ends here. -/
def clearEnded (s : State) (e : Nat × Option Flight × FlightEnd) : State :=
  match e.2.1, e.2.2 with
  | some f, .lands => clearFlight e.1 f none s
  | some f, .breaks d => clearFlight e.1 f (some d) s
  | _, _ => s

/-- Step 9 for one partition: the flight completion, and what its landing leaves undone. -/
def postEnded (s : State) (e : Nat × Option Flight × FlightEnd) : State :=
  match e.2.1, e.2.2 with
  | some f, .lands => landingEnds e.1 f.plan.flight (postFlight f none s)
  | some f, .breaks d => postFlight f (some d) (s.bump kPoison)
  | _, _ => s

/-- Whether this riser is a device landing (R57). -/
def deviceLands (s : State) : Bool :=
  s.parts.all (fun e => match e.2.state with
    | .running => e.2.flight.isNone
    | .draining => e.2.flight.isNone
    | _ => true)

/-- RISER: the tread count advances, the kind of the new tread is settled, flights end, land and begin, and the steps of
Table 2-9 run. DESIGN CHOICE: at a riser of a Halted stairwell no flight begins and no plans are judged, which R35 and R55 do
not say (assumption log 62). -/
def riserEffect (found : RiserFindings) (s : State) : State :=
  let ended := s.time.kind
  let s := found.context.foldl contextFault (tickClock s)
  let entries := reports s
  let k := riserKind s
  let s := setKind k.2 k.1
  let parts := tkeys s.parts
  let s := parts.foldl takeCommands (advanceFlights ended s)
  let ends := parts.map (fun p => (p, (s.part p).flight, flightEnd (s.part p) k.2 s.time.tread.toNat))
  let s := countTreads k.2 (ends.foldl clearEnded s)
  let a := ends.foldl (landOne entries) (s, [])
  let b := landAll (deviceLands a.1) found a.1
  let s := ends.foldl postEnded (countKind b.1)
  let c := if k.2 = .halted then (s, []) else parts.foldl (takePlan entries) (s, [])
  let s := parts.foldl stepStop (postDones (a.2 ++ b.2 ++ c.2) c.1)
  mintRun (clearsRun (newTread (countWaits s)))

/-- RISER. -/
def execRiser (s : State) (found : RiserFindings := RiserFindings.none) : Result := whenUp s (riserEffect found)

/-! ## The budget monitor (R42 to R45, R270, R307) -/

/-- What an item's progress says: bytes left and rate, when it is listed. -/
def progressOf (l : List Progress) (m : Moving) : Option (Nat × Nat) :=
  (l.find? (fun x => x.item == m)).map (fun x => (x.left, x.rate))

/-- Remaining estimate of a program on a core; the cycle in which a WAIT that waits issued is charged (R42, R157). -/
def estimateOf (c : Nat) (s : State) (g : Program) : Nat := g.cost - (tget 0 g.charged c + b2n (coreTallyWaits g c s))

/-- Sum of the remaining estimates of the programs admitted to a core (R42). -/
def coreEstimate (c : Nat) (s : State) : Nat :=
  (((livePrograms s).filter (fun g => g.coreList.contains c)).map (estimateOf c s)).sum

/-- Whether a core is at risk at µs `us` of the tread (R43). -/
def coreAtRisk (us c : Nat) (s : State) : Bool :=
  let avail := (s.time.period - us) * effectiveMHz s (galleryOfCore c)
  let programs := (livePrograms s).filter (fun g => g.coreList.contains c)
  decide (avail < coreEstimate c s) ||
    (us + 2 == s.time.period && programs.any (fun g => estimateOf c s g == 0))

/-- The cores that run programs. -/
def busyCores (s : State) : List Nat := ((livePrograms s).flatMap Program.coreList).eraseDups

/-- Whether a gallery's usher is at risk, with the usher in the place of a core (R43, R284): the remaining estimates of its
descriptors exceed the time left, or at the slip deadline one of them is unfinished with an estimate of 0. -/
def usherAtRisk (us h : Nat) (s : State) : Bool :=
  let ws := s.work.filter (fun w => w.hall == h && partLive (s.part w.part))
  decide ((s.time.period - us) * effectiveMHz s (h - 256) < (ws.map Work.left).sum) ||
    (us + 2 == s.time.period && ws.any (fun w => w.left == 0))

/-- Whether a COPY, CLEAR or usher descriptor is at risk (R43, R284, R285): a COPY or CLEAR that is not listed does not move,
so that its estimate has no bound; an usher descriptor is also while it waits for its tally at the slip deadline. -/
def workAtRisk (us : Nat) (l : List Progress) (w : Work) (s : State) : Bool :=
  if 256 ≤ w.hall then usherAtRisk us w.hall s || (us + 2 == s.time.period && !w.started && !tailMet w.bytes s)
  else
    match progressOf l (.work w.id) with
    | none => true
    | some (left, rate) => rate * (s.time.period - us) < left

/-- Something at risk: its gallery, and whether it stalls on a pipeline queue (R45). -/
structure Risk where
  gallery : Option Nat
  queue : Bool
  deriving DecidableEq, Repr

/-- The cores and descriptors at risk. -/
def tickRisks (us : Nat) (l : List Progress) (s : State) : List Risk :=
  ((busyCores s).filter (fun c => coreAtRisk us c s)).map (fun c =>
      { gallery := some (galleryOfCore c),
        queue := (livePrograms s).any (fun g => g.coreList.contains c && g.stalled) }) ++
    ((s.work.filter (fun w => w.hall != 512 && partLive (s.part w.part) && workAtRisk us l w s)).map (fun w =>
      { gallery := some (if w.hall < 256 then galleryOfHall w.hall else w.hall - 256),
        queue := (w.opcode == 0x35 || w.opcode == 0x36) && w.since.isSome && w.slot.isNone }))

/-- Layers whose UPDATE or STRIKE is at risk, with the vault bytes left (R270). -/
def mintRisks (us : Nat) (l : List Progress) (s : State) : List (Nat × Nat × Nat) :=
  s.parts.flatMap (fun e => e.2.layers.filterMap (fun y =>
    match y.2.state, y.2.job with
    | .running, some j =>
      let ends := landsNext e.2 s && (e.2.flight.map (fun (f : Flight) => f.plan.flight)) == some j.flight
      let m := progressOf l (.mint (Fin.ofNat 8 e.1) y.1)
      let left := (m.map Prod.fst).getD 0
      let late := us + 2 == s.time.period || (match m with | some (n, r) => r * (s.time.period - us) < n | none => false)
      if ends && late then some (e.1, y.1, left) else none
    | _, _ => none))

/-- Sequence slots whose copy must end at the coming landing and is at risk, with the bytes left (R307). -/
def seqRisks (us : Nat) (l : List Progress) (s : State) : List (Nat × Nat × Nat) :=
  s.parts.flatMap (fun e => e.2.seqs.filterMap (fun y =>
    let m := progressOf l (.seq (Fin.ofNat 2048 y.1))
    let left := (m.map Prod.fst).getD 0
    let late := us + 2 == s.time.period || (match m with | some (n, r) => r * (s.time.period - us) < n | none => false)
    if copiesDue (comingRiser s) e.2 s && !y.2.copying.isEmpty && late then some (e.1, y.1, left) else none))

/-- MINT_LATE of a layer, once in a tread. -/
def mintLate (s : State) (r : Nat × Nat × Nat) : State :=
  match layerOf (s.part r.1) r.2.1 with
  | some l =>
    match l.job with
    | some j =>
      if j.late then s
      else postEvent r.1 0x9003 1 r.2.1 (r.2.2 / 65536) (setLayer r.1 r.2.1 { l with job := some { j with late := true } } s)
    | none => s
  | none => s

/-- SEQ_LATE of a slot, once in a tread. -/
def seqLate (s : State) (r : Nat × Nat × Nat) : State :=
  let x := seqOf (s.part r.1) r.2.1
  if x.late then s
  else postEvent r.1 0xA003 1 r.2.1 (r.2.2 / 65536) (setSeq r.1 r.2.1 { x with late := true } s)

/-- The cause of a slip from what is at risk: banister, then pipeline queue, then budget (R45). -/
def slipCause (l : List Risk) (s : State) : SlipCause :=
  if l.any (fun r => match r.gallery with | some g => s.pwr.touched.contains g | none => false) then .banister
  else if l.any Risk.queue then .queue
  else .budget

/-- Code of a slip cause in a beacon (Table 11-6). -/
def SlipCause.code : SlipCause → Nat
  | .budget => 1
  | .queue => 2
  | .banister => 3

/-- A slip that this device announces for the coming riser, once (R44, R49). -/
def announceSlip (c : SlipCause) (s : State) : State :=
  let r : BitVec 48 := BitVec.ofNat 48 (comingRiser s)
  let own := fabAddr s
  if s.stw.slips.any (fun x => x.1 == r && x.2.2 == own) then s
  else
    let s := { s with stw := { s.stw with slips := s.stw.slips ++ [(r, c, own)] } }
    (sendBeacon (newBeacon 2 c.code r.toNat [] s) s).bump (kTrd 0)

/-- At the slip deadline a hold that goes on is announced for the coming riser too (R64). -/
def announceHolds (us : Nat) (s : State) : State :=
  if us + 2 = s.time.period ∧ s.parts.any (fun e => partHolds e.2) = true ∧
      s.stw.holdsFor.contains (BitVec.ofNat 48 (comingRiser s)) = false then announceHold (comingRiser s) s
  else s

/-- The programs that have stalled on a pipeline queue in this tread (R45). -/
def noteStalls (l : List Progress) (s : State) : State :=
  { s with programs := s.programs.map (fun g => { g with stalled := g.stalled || l.any (fun x => x.item == .stall g.id) }) }

/-- BUDGET_EVALUATION at µs `us` of the tread. -/
def budgetEffect (us : Nat) (l : List Progress) (s : State) : State :=
  let s := noteStalls l { s with time := { s.time with ref := max s.time.ref (s.time.riserAt + cyclesPerUs * us) } }
  if s.time.period < us + 2 ∨ s.stw.state = .halted then s
  else
    let ticks := tickRisks us l s
    let mints := mintRisks us l s
    let seqs := seqRisks us l s
    let risks := ticks ++ (mints ++ seqs).map (fun _ => { gallery := none, queue := false })
    let s := announceHolds us (seqs.foldl seqLate (mints.foldl mintLate s))
    if risks.isEmpty then s else announceSlip (slipCause risks s) s

/-- BUDGET_EVALUATION. -/
def execBudgetEvaluation (us : Nat) (progress : List Progress) (s : State) : Result := whenUp s (budgetEffect us progress)

end Sys2Proof.Machine
end

