-- ==== Sys2Proof/Machine/Stairwell.lean ====
section
/-!
DEFINITION. Stairwell commands, formation, beacons and probes (02_treads_and_landings.md, R50 to R56, R522;
11_fabric_and_collectives.md, R323 to R325; 12_optical_ports.md, R355, R356).
-/
namespace Sys2Proof.Machine

/-- The state with the stairwell section changed. -/
def modStw (s : State) (f : Stw → Stw) : State := { s with stw := f s.stw }

/-- A stairwell command at the head of ring rn, legal in the states given (R53). -/
def withStwCmd (op rn : Nat) (legal : StwState → Bool) (s : State) (k : Fetched → State → State) : State :=
  match headOf op rn s with
  | none => s
  | some f => if legal s.stw.state then k f (popHead rn s) else rejectHead rn f (badState s.stw.state.code) s

/-! ## Forming (R54) -/

/-- Whether a member list is legal: no 0x0000 or 0xFFFF, no two equal, the own address among them. -/
def membersLegal (l : List Half) (s : State) : Bool :=
  l.all (fun a => a != 0 && a != 0xFFFF) && l.eraseDups.length == l.length && l.contains (fabAddr s)

/-- The lowest address of a list. -/
def lowest (l : List Half) : Half := l.foldl (fun m a => if a.toNat < m.toNat then a else m) 0xFFFF

/-- State code of the lowest-numbered Running or Draining partition: the first object that R54 does not allow (Table
3-11). -/
def firstLanding (s : State) : Nat := ((landingParts s).head?.map (fun p => (s.part p).state.code)).getD 0

/-- STW_FORM, with the entries of the member list in host memory. -/
def stwFormEffect (rn : Nat) (entries : List Half) (s : State) : State :=
  match headOf 0x70 rn s with
  | none => s
  | some f =>
    let b := f.bytes
    let n := byteAt b 24
    let l := entries.take n
    let leader := BitVec.ofNat 16 (u16 b 28)
    if s.stw.state ≠ .alone then rejectHead rn f (badState s.stw.state.code) s
    else if (landingParts s).isEmpty = false then rejectHead rn f (badState (firstLanding s)) s
    else if membersLegal l s = false then rejectHead rn f (badValue 16) s
    else if leader ≠ 0xFFFF ∧ l.contains leader = false then rejectHead rn f (badValue 28) s
    else
      modStw (popHead rn s) (fun w =>
        { w with state := .forming, stepped := false, others := [], badOffsets := 0,
                 forming := some { ring := rn, tag := f.tag, members := l, leader := if leader = 0xFFFF then lowest l else leader,
                                   period := u16 b 26, bound := byteAt b 25 } })

/-- A STW_FORM descriptor. -/
def execStwForm (ring : RingNo) (members : List Half) (s : State) : Result :=
  whenUpWf (Instr.wellFormed (.stwForm ring members)) "STW_FORM" s (stwFormEffect ring members)

/-- The tread count that this device adopts at formation: the leader's, from its last RISER beacon. -/
def adoptedTread (f : Forming) (s : State) : BitVec 48 :=
  if f.leader = fabAddr s then s.time.tread
  else
    match s.stw.others.find? (fun m => m.addr == f.leader) with
    | some m => m.riser - 1 + (s.time.tread - m.heardAt)
    | none => s.time.tread

/-- A member of which nothing has been heard since a tread count. -/
def Member.silentSince (a : Half) (t : BitVec 48) : Member :=
  { addr := a, heardAt := t, riser := 0, offset := 0, state := 0, sets := [] }

/-- FORMATION_COMPLETE: the stairwell is Aligned (R54). -/
def formationEffect (s : State) : State :=
  match s.stw.forming with
  | none => s
  | some f =>
    let t := adoptedTread f s
    let others := (f.members.filter (fun a => a != fabAddr s)).map (fun a =>
      match s.stw.others.find? (fun m => m.addr == a) with
      | some m => { m with heardAt := t }
      | none => Member.silentSince a t)
    let next := s.time.riserAt + cyclesPerUs * s.time.period
    let s := { s with time := { s.time with tread := t, period := f.period, riserAt := next - cyclesPerUs * f.period } }
    let s := modStw s (fun w =>
      { w with state := .aligned, members := f.members, leader := f.leader, bound := f.bound, run := 0, haltCause := 0,
               others := others, forming := none, slips := [], holdsFor := [], seen := [], sent := none, haltAt := none })
    finish f.ring f.tag 0x00 0 0 0 s

/-- FORMATION_COMPLETE. -/
def execFormationComplete (s : State) : Result := whenUp s formationEffect

/-- A formation that ends without a stairwell. -/
def formationEnds (detail : Nat) (s : State) : State :=
  match s.stw.forming with
  | none => s
  | some f =>
    finish f.ring f.tag 0x3F detail 0 0 (modStw s (fun w => { w with state := .alone, forming := none, others := [] }))

/-- FORMATION_TIMEOUT: 100 ms have passed; so many members failed. -/
def execFormationTimeout (failed : Fin 65) (s : State) : Result := whenUp s (formationEnds failed)

/-! ## STW_DISSOLVE and STW_HALT (R53, R55, R522) -/

/-- The device leaves its stairwell and is Alone with its present tread count. -/
def leaveStairwell (s : State) : State :=
  modStw s (fun w =>
    { w with state := .alone, members := [], leader := 0, others := [], resumeAt := none, haltAt := none, haltOwners := [],
             slips := [], holdsFor := [], leaderPending := (none, none, none), offset := 0, badOffsets := 0,
             probeT1 := none })

/-- A STW_DISSOLVE descriptor. -/
def execStwDissolve (ring : RingNo) (s : State) : Result :=
  whenUp s (fun s => withStwCmd 0x71 ring (fun st => st == .forming || st == .halted) s (fun f s =>
    let s := if s.stw.state = .forming then formationEnds 0 s else leaveStairwell s
    finish ring f.tag 0x00 0 0 0 s))

/-- A STW_HALT descriptor. -/
def execStwHalt (ring : RingNo) (s : State) : Result :=
  whenUp s (fun s => withStwCmd 0x72 ring (fun st => st == .alone || st == .aligned) s (fun f s =>
    finish ring f.tag 0x00 0 0 0 (raiseHalt 6 (fabAddr s) s)))

/-! ## STW_RESUME (R56) -/

/-- Treads since a member's last RISER beacon. -/
def silence (m : Member) (s : State) : Nat := (s.time.tread - m.heardAt).toNat

/-- Whether every other member's present beacon reports alignment within 40 ns. -/
def allAligned (s : State) : Bool :=
  (otherMembers s).all (fun a => s.stw.others.any (fun m =>
    m.addr == a && decide (silence m s ≤ 1) && decide (m.offset.natAbs ≤ 40)))

/-- The first riser at least 8 treads from now. -/
def resumeRiser (s : State) : BitVec 48 := s.time.tread + (if s.time.ref = s.time.riserAt then 8 else 9)

/-- The leader's decision on STW_RESUME: status and value, the resume riser or the state code. -/
def decideResume (s : State) : State × Nat × Nat :=
  if s.stw.state ≠ .halted then (s, 0x11, s.stw.state.code)
  else
    match s.stw.resumeAt with
    | some r => (s, 0x00, r.toNat)
    | none =>
      if isLeader s && allAligned s then
        let r := resumeRiser s
        let s := modStw s (fun w => { w with resumeAt := some r })
        (sendBeacon (newBeacon 6 0 r.toNat [] s) s, 0x00, r.toNat)
      else (s, 0x11, s.stw.state.code)

/-- STW_RESUME: decided here, or forwarded to the leader. -/
def stwResumeEffect (rn : Nat) (s : State) : State :=
  withStwCmd 0x73 rn (fun st => st == .halted) s (fun f s =>
    if isLeader s || s.stw.resumeAt.isSome then
      let r := decideResume s
      if r.2.1 = 0 then finish rn f.tag 0x00 0 r.2.2 0 r.1 else finish rn f.tag r.2.1 r.2.2 0 0 r.1
    else if routed s.stw.leader s = false then finish rn f.tag 0x31 0 0 0 s
    else sendReq s.stw.leader 6 [] (.resume rn f.tag) deviceOwner s)

/-- A STW_RESUME descriptor. -/
def execStwResume (ring : RingNo) (s : State) : Result := whenUp s (stwResumeEffect ring)

/-- STW_RESUME_REQ: a follower's STW_RESUME reaches the leader. -/
def execStwResumeReq (link : LinkNo) (frame : Frame) (s : State) : Result :=
  whenUpWf (Instr.wellFormed (.stwResumeReq link frame)) "STW_RESUME_REQ" s (fun s =>
    receiveReq link frame s decideResume)

/-! ## RISER beacons (R51, R52, R323, R325) -/

/-- Stairwell settings of this device that are due at the coming riser: period, bound, leader. -/
def pendingStairwell (s : State) : Option Nat × Option Nat × Option Half :=
  let due := s.settings.filter (fun x => x.scope == 9 && (x.target == 0 || !newer x.target (BitVec.ofNat 32 (comingRiser s))))
  due.foldl (fun a x => match x.kind with
    | .period v => (some v, a.2.1, a.2.2)
    | .slipBound v => (a.1, some v, a.2.2)
    | .leader m => (a.1, a.2.1, some m)
    | _ => a) (none, none, none)

/-- The body of this device's RISER beacon (Table 11-6). -/
def riserBeacon (s : State) : Beacon :=
  let g := pendingStairwell s
  { newBeacon 1 0 (comingRiser s) (ownEntries s) s with
    pending := b2n g.1.isSome + 2 * b2n g.2.1.isSome + 4 * b2n g.2.2.isSome, period := g.1.getD 0, bound := g.2.1.getD 0,
    leader := (g.2.2.getD 0).toNat }

/-- RISER_BEACON_SEND: 4 µs before the coming riser. -/
def riserBeaconSendEffect (s : State) : State :=
  let at_ := s.time.riserAt + cyclesPerUs * (s.time.period - 4)
  let s := { s with time := { s.time with ref := max s.time.ref at_ } }
  let b := riserBeacon s
  let s := modStw s (fun w => { w with sent := some (BitVec.ofNat 48 b.riser, b.sets) })
  ((beaconMembers s).filter (fun a => a != fabAddr s)).foldl (sendBeaconTo b) s

/-- RISER_BEACON_SEND. -/
def execRiserBeaconSend (s : State) : Result := whenUp s riserBeaconSendEffect

/-- A beacon of a kind received from a member: only the first copy with its kind, riser and source counts (R323). -/
def withBeacon (kind : Nat) (link : Nat) (f : Frame) (s : State) (k : Beacon → State → State) : State :=
  withFrame link f s (fun s =>
    let b := beaconOf f.payload
    let key := (kind, BitVec.ofNat 48 b.riser, f.src)
    let s := s.bump kRx
    if b.kind ≠ kind ∨ (beaconMembers s).contains f.src = false ∨ s.stw.seen.contains key = true then s
    else k b (modStw s (fun w => { w with seen := w.seen ++ [key] })))

/-- What a member's beacon said. -/
def noteMember (a : Half) (b : Beacon) (s : State) : State :=
  let m : Member :=
    { addr := a, heardAt := s.time.tread, riser := BitVec.ofNat 48 b.riser, offset := b.offset, state := b.state, sets := b.sets }
  modStw s (fun w => { w with others := w.others.filter (fun x => x.addr != a) ++ [m] })

/-- A follower's offset from the leader in sixteenths of a reference cycle, by its reference count at receipt of the
leader's beacon (R325). -/
def rawOffset (b : Beacon) (count : Nat) (s : State) : Int := 16 * (count : Int) - 16 * b.timestamp - s.stw.pathDelay

/-- Sixteenths of a reference cycle as ns, toward zero (Table 0-3). -/
def offsetNs (d : Int) : Int := (d * 5).tdiv 112

/-- A follower that forms steps its counter once to the leader's count: the coming riser is 4 µs after the beacon left
(R325). -/
def stepCounter (b : Beacon) (s : State) : State :=
  let now := operatingNow s
  let ref := ((16 * b.timestamp + s.stw.pathDelay) / 16).toNat
  let s := { s with time := { s.time with ref := ref, riserAt := b.timestamp + 4 * cyclesPerUs - cyclesPerUs * s.time.period } }
  let s := modFlt s (fun f => { f with operating := now - ref / 1400000 })
  modStw s (fun w => { w with stepped := true, offset := 0, slew := 0, slewAt := ref })

/-- The reference cycles that a follower has added (positive) or dropped by a reference count: at most one in every whole
16,384 that have passed, until the measured offset is corrected (R51, R325). -/
def slewed (count : Nat) (s : State) : Int :=
  let n : Int := ((count - s.stw.slewAt) / 16384 : Nat)
  if s.stw.slew < 0 then -(min n (-s.stw.slew)) else min n s.stw.slew

/-- The reference counter of a follower at a count that does not hold the correction yet. -/
def countAt (count : Nat) (s : State) : Nat :=
  let c := max s.time.ref count
  ((c : Int) + slewed c s).toNat

/-- The follower's reference counter corrected up to a count. -/
def slewCounter (count : Nat) (s : State) : State :=
  let c := max s.time.ref count
  let n := (c - s.stw.slewAt) / 16384
  modStw { s with time := { s.time with ref := countAt count s } }
    (fun w => { w with slew := w.slew - slewed c s, slewAt := if w.slew = 0 then c else w.slewAt + 16384 * n })

/-- The correction that an offset in sixteenths of a reference cycle asks for, in whole cycles, toward zero. -/
def slewFor (d : Int) : Int := -(d.tdiv 16)

/-- The leader's beacon at a follower: the counter is corrected so far, the offset is measured, which sets what is still to
be corrected, and two beyond 40 ns in a row halt the stairwell (R51, R52, R325). -/
def leaderBeacon (b : Beacon) (count : Nat) (s : State) : State :=
  if s.stw.state = .forming ∧ s.stw.stepped = false then stepCounter b s
  else
    let d := rawOffset b (countAt count s) s
    let s := slewCounter count s
    let n := if 4480 < (5 * d).natAbs then s.stw.badOffsets + 1 else 0
    let coming := b.riser == comingRiser s
    let pend := (if bit b.pending 0 then some b.period else none, if bit b.pending 1 then some b.bound else none,
      if bit b.pending 2 then some (BitVec.ofNat 16 b.leader) else none)
    let s := modStw s (fun w =>
      { w with slew := slewFor d, offset := offsetNs d, badOffsets := n, run := if coming && w.state == .aligned then b.run else w.run,
               leaderPending := if coming then pend else w.leaderPending })
    if 2 ≤ n ∧ s.stw.state = .aligned then raiseHalt 4 (fabAddr s) s else s

/-- The flights of a set on this device poisoned from elsewhere, to end at a riser (R62). -/
def poisonSet (riser : Nat) (s : State) (e : SetEntry) : State :=
  { s with parts := tmap s.parts (fun _ q =>
      if flightSet q = some e.set ∧ q.poison.isNone = true then { q with poison := some (3, riser) } else q) }

/-- The flag that a POISON beacon carries stands in what the member's RISER beacon for that riser said (R323). -/
def notePoison (src : Half) (b : Beacon) (s : State) : State :=
  modStw s (fun w => { w with others := w.others.map (fun m =>
    if m.addr = src ∧ m.riser.toNat = b.riser then
      { m with sets := m.sets.map (fun e => if b.sets.any (fun x => x.part == e.part) then { e with poison := true } else e) }
    else m) })

/-- A RISER beacon of a member. -/
def riserBeaconEffect (link : Nat) (f : Frame) (count : Nat) (s : State) : State :=
  withBeacon 1 link f s (fun b s =>
    let s := (b.sets.filter (fun e => e.poison)).foldl (poisonSet (max b.riser (nextOpenRiser s))) (noteMember f.src b s)
    if f.src = beaconLeader s ∧ f.src ≠ fabAddr s then leaderBeacon b count s
    else { s with time := { s.time with ref := max s.time.ref count } })

/-- RISER_BEACON_RECEIVED. -/
def execRiserBeaconReceived (link : LinkNo) (frame : Frame) (count : Nat) (s : State) : Result :=
  whenUpWf (Instr.wellFormed (.riserBeaconReceived link frame count)) "RISER_BEACON_RECEIVED" s (riserBeaconEffect link frame count)

/-- Whether a member of an Aligned stairwell has sent no RISER beacon for 16 treads. -/
def silent16 (a : Half) (s : State) : Bool :=
  s.stw.state == .aligned && s.stw.others.any (fun m => m.addr == a && decide (16 ≤ silence m s))

/-- ALIGN_TIMEOUT: no RISER beacon of the leader for 16 treads (R52). -/
def execAlignTimeout (s : State) : Result :=
  whenUp s (fun s => if isLeader s = false ∧ silent16 s.stw.leader s = true then raiseHalt 4 (fabAddr s) s else s)

/-- MEMBER_BEACON_TIMEOUT: no RISER beacon of another member for 16 treads (R52). -/
def execMemberBeaconTimeout (member : Half) (s : State) : Result :=
  whenUp s (fun s =>
    if member ≠ s.stw.leader ∧ (otherMembers s).contains member = true ∧ silent16 member s = true then raiseHalt 5 member s
    else s)

/-! ## SLIP, HOLD, POISON, HALT and RESUME beacons (R44, R48, R55, R56, R64, R324) -/

/-- A beacon for a riser that has passed: LATE_SLIP at the first riser whose slip deadline has not passed (R48); its
announcement raised the halt, so STW_HALTED names its sender (Table 2-12). -/
def lateBeacon (src : Half) (s : State) : State :=
  if s.stw.state = .halted then s
  else modStw s (fun w => { w with haltAt := w.haltAt.or (some (BitVec.ofNat 48 (nextOpenRiser s), 3, src)) })

/-- Whether a beacon names a riser that has passed. -/
def named (b : Beacon) (s : State) : Bool := s.time.tread.toNat < b.riser

/-- A slip cause from its code. -/
def slipCauseOf : Nat → SlipCause
  | 2 => .queue
  | 3 => .banister
  | _ => .budget

/-- SLIP_BEACON_RECEIVED. -/
def execSlipBeaconReceived (link : LinkNo) (frame : Frame) (s : State) : Result :=
  whenUpWf (Instr.wellFormed (.slipBeaconReceived link frame)) "SLIP_BEACON_RECEIVED" s (fun s =>
    withBeacon 2 link frame s (fun b s =>
    if named b s then
      modStw s (fun w => { w with slips := w.slips ++ [(BitVec.ofNat 48 b.riser, slipCauseOf b.cause, frame.src)] })
    else lateBeacon frame.src s))

/-- HOLD_BEACON_RECEIVED. -/
def execHoldBeaconReceived (link : LinkNo) (frame : Frame) (s : State) : Result :=
  whenUpWf (Instr.wellFormed (.holdBeaconReceived link frame)) "HOLD_BEACON_RECEIVED" s (fun s =>
    withBeacon 3 link frame s (fun b s =>
    if named b s then modStw s (fun w => { w with holdsFor := (w.holdsFor ++ [BitVec.ofNat 48 b.riser]).eraseDups })
    else lateBeacon frame.src s))

/-- POISON_BEACON_RECEIVED. -/
def execPoisonBeaconReceived (link : LinkNo) (frame : Frame) (s : State) : Result :=
  whenUpWf (Instr.wellFormed (.poisonBeaconReceived link frame)) "POISON_BEACON_RECEIVED" s (fun s =>
    withBeacon 4 link frame s (fun b s =>
    if named b s then b.sets.foldl (poisonSet b.riser) (notePoison frame.src b s) else lateBeacon frame.src s))

/-- HALT_BEACON_RECEIVED: taken at once, whatever riser it names (DESIGN CHOICE: the manual does not say at which riser a
member enters Halted; assumption log 97). -/
def execHaltBeaconReceived (link : LinkNo) (frame : Frame) (s : State) : Result :=
  whenUpWf (Instr.wellFormed (.haltBeaconReceived link frame)) "HALT_BEACON_RECEIVED" s (fun s =>
    withBeacon 5 link frame s (fun b s =>
    if s.stw.state = .aligned then haltNow b.cause frame.src b.riser s else s))

/-- RESUME_BEACON_RECEIVED. -/
def execResumeBeaconReceived (link : LinkNo) (frame : Frame) (s : State) : Result :=
  whenUpWf (Instr.wellFormed (.resumeBeaconReceived link frame)) "RESUME_BEACON_RECEIVED" s (fun s =>
    withBeacon 6 link frame s (fun b s =>
    if s.stw.state = .halted ∧ frame.src = s.stw.leader then
      modStw s (fun w => { w with resumeAt := some (BitVec.ofNat 48 b.riser) })
    else s))

/-! ## Probes (R325, R355, R356) -/

/-- The reference counter at a port timestamp, which never goes back (R29, R355). -/
def refAt (stamp : Nat) (s : State) : State := { s with time := { s.time with ref := max s.time.ref (stamp / 16) } }

/-- The port timestamp that a stamp of the outside gives: bits [63:4] are the reference counter, bits [3:0] sixteenths of
its cycle (R355). -/
def stampOf (stamp : Nat) (s : State) : Nat := (16 * max s.time.ref (stamp / 16) + stamp % 16) % 2 ^ 64

/-- A PROBE frame with two timestamps. -/
def probeFrame (dst : Half) (op t u : Nat) (s : State) : Frame :=
  { newFrame 0x04 dst 0 s with operation := BitVec.ofNat 32 op, payload := toLE t 8 ++ toLE u 8 }

/-- PROBE_SEND: a follower's request to the leader leaves at a timestamp. -/
def execProbeSend (stamp : Nat) (s : State) : Result :=
  whenUp s (fun s =>
    if (beaconMembers s).isEmpty ∨ beaconLeader s = fabAddr s then s
    else
      let t1 := stampOf stamp s
      sendPlain (probeFrame (beaconLeader s) 0 t1 0 s) (modStw (refAt stamp s) (fun w => { w with probeT1 := some t1 })))

/-- PROBE_REQUEST_RECEIVED: answered on the same link. -/
def execProbeRequestReceived (link : LinkNo) (frame : Frame) (stamp sent : Nat) (s : State) : Result :=
  whenUpWf (Instr.wellFormed (.probeRequestReceived link frame stamp sent)) "PROBE_REQUEST_RECEIVED" s (fun s =>
    withFrame link frame s (fun s =>
    let t2 := stampOf stamp s
    let s := refAt stamp s
    emitFrame (some link) (probeFrame frame.src 1 t2 (stampOf sent s) s) ((refAt sent s).bump kRx)))

/-- PROBE_RESPONSE_RECEIVED: the path delay to the leader. -/
def execProbeResponseReceived (link : LinkNo) (frame : Frame) (stamp : Nat) (s : State) : Result :=
  whenUpWf (Instr.wellFormed (.probeResponseReceived link frame stamp)) "PROBE_RESPONSE_RECEIVED" s (fun s =>
    withFrame link frame s (fun s =>
    let t4 := stampOf stamp s
    let s := (refAt stamp s).bump kRx
    match s.stw.probeT1 with
    | none => s
    | some t1 =>
      if frame.src ≠ beaconLeader s then s
      else
        let t2 := u64 frame.payload 0
        let t3 := u64 frame.payload 8
        let d : Int := (((t4 : Int) - t1) - ((t3 : Int) - t2)) / 2
        modStw s (fun w => { w with pathDelay := d, probeT1 := none })))

end Sys2Proof.Machine
end

