-- ==== Sys2Proof/Machine/Dispatch.lean ====
section
/-!
DEFINITION. One arm per command: each is one direct call of the command's meaning.
-/
namespace Sys2Proof.Machine

/-- The effect of a command on everything but the queue. -/
def exec (i : Instr) (s : State) : Host.Outcome State Fault Refusal :=
  match i with
  | .vauxUp => Sys2Proof.Machine.execVauxUp s
  | .mainEnAssert => Sys2Proof.Machine.execMainEnAssert s
  | .resetNRelease => Sys2Proof.Machine.execResetNRelease s
  | .resetNPulse => Sys2Proof.Machine.execResetNPulse s
  | .vauxRemoved => Sys2Proof.Machine.execVauxRemoved s
  | .forcedShutdown => Sys2Proof.Machine.execForcedShutdown s
  | .bootStepEnd found => Sys2Proof.Machine.execBootStepEnd found s
  | .warmReset => Sys2Proof.Machine.execWarmReset s
  | .coldReset => Sys2Proof.Machine.execColdReset s
  | .orderlyShutdown => Sys2Proof.Machine.execOrderlyShutdown s
  | .shutdownStepEnd => Sys2Proof.Machine.execShutdownStepEnd s
  | .moduleTrip cause => Sys2Proof.Machine.execModuleTrip cause s
  | .porterLightChange port lit us => Sys2Proof.Machine.execPorterLightChange port lit us s
  | .registerWrite addr size value window => Sys2Proof.Machine.execRegisterWrite addr size value s window
  | .harvest addr value => Sys2Proof.Machine.execHarvest addr value s
  | .bootRingsEnable value => Sys2Proof.Machine.execBootRingsEnable value s
  | .bootRingsDisable value => Sys2Proof.Machine.execBootRingsDisable value s
  | .iaSelWrite value => Sys2Proof.Machine.execIaSelWrite value s
  | .iaDataRead => Sys2Proof.Machine.execIaDataRead s
  | .iaDataWrite value => Sys2Proof.Machine.execIaDataWrite value s
  | .fabricEnable value => Sys2Proof.Machine.execFabricEnable value s
  | .portEnable port value => Sys2Proof.Machine.execPortEnable port value s
  | .portDisable port value => Sys2Proof.Machine.execPortDisable port value s
  | .secureChannelRemove port channel value => Sys2Proof.Machine.execSecureChannelRemove port channel value s
  | .routeEntryCommit address value => Sys2Proof.Machine.execRouteEntryCommit address value s
  | .fwKick value => Sys2Proof.Machine.execFwKick value s
  | .wakePatternSend value => Sys2Proof.Machine.execWakePatternSend value s
  | .wakePatternEnd => Sys2Proof.Machine.execWakePatternEnd s
  | .sidebandRegisterAccess addr write => Sys2Proof.Machine.execSidebandRegisterAccess addr write s
  | .msixUnmask vector => Sys2Proof.Machine.execMsixUnmask vector s
  | .submissionDoorbell offset size index => Sys2Proof.Machine.execSubmissionDoorbell offset size index s
  | .consumerDoorbell offset size index => Sys2Proof.Machine.execConsumerDoorbell offset size index s
  | .descriptorFetched ring bytes => Sys2Proof.Machine.execDescriptorFetched ring bytes s
  | .interruptTimeout ring => Sys2Proof.Machine.execInterruptTimeout ring s
  | .hostAccessTimeout access => Sys2Proof.Machine.execHostAccessTimeout access s
  | .nop ring => Sys2Proof.Machine.execNop ring s
  | .tally ring => Sys2Proof.Machine.execTally ring s
  | .ringEnable ring => Sys2Proof.Machine.execRingEnable ring s
  | .ringPause ring => Sys2Proof.Machine.execRingPause ring s
  | .ringResume ring => Sys2Proof.Machine.execRingResume ring s
  | .ringDisable ring => Sys2Proof.Machine.execRingDisable ring s
  | .ringClear ring => Sys2Proof.Machine.execRingClear ring s
  | .stwForm ring members => Sys2Proof.Machine.execStwForm ring members s
  | .stwDissolve ring => Sys2Proof.Machine.execStwDissolve ring s
  | .stwHalt ring => Sys2Proof.Machine.execStwHalt ring s
  | .stwResume ring => Sys2Proof.Machine.execStwResume ring s
  | .flightPlan ring => Sys2Proof.Machine.execFlightPlan ring s
  | .stwSet ring => Sys2Proof.Machine.execStwSet ring s
  | .fwActivate ring => Sys2Proof.Machine.execFwActivate ring s
  | .pwrSet ring => Sys2Proof.Machine.execPwrSet ring s
  | .mintSet ring => Sys2Proof.Machine.execMintSet ring s
  | .freezeSet ring => Sys2Proof.Machine.execFreezeSet ring s
  | .genSet ring => Sys2Proof.Machine.execGenSet ring s
  | .fwLoad ring image => Sys2Proof.Machine.execFwLoad ring image s
  | .stashSet ring => Sys2Proof.Machine.execStashSet ring s
  | .watchSet ring => Sys2Proof.Machine.execWatchSet ring s
  | .fwQuote ring => Sys2Proof.Machine.execFwQuote ring s
  | .partConfig ring record => Sys2Proof.Machine.execPartConfig ring record s
  | .partStart ring => Sys2Proof.Machine.execPartStart ring s
  | .partStop ring => Sys2Proof.Machine.execPartStop ring s
  | .partPreempt ring => Sys2Proof.Machine.execPartPreempt ring s
  | .partEvict ring => Sys2Proof.Machine.execPartEvict ring s
  | .partResume ring => Sys2Proof.Machine.execPartResume ring s
  | .partRelease ring => Sys2Proof.Machine.execPartRelease ring s
  | .turnSet ring => Sys2Proof.Machine.execTurnSet ring s
  | .mapSet ring => Sys2Proof.Machine.execMapSet ring s
  | .program ring => Sys2Proof.Machine.execProgram ring s
  | .programIf ring => Sys2Proof.Machine.execProgramIf ring s
  | .copy ring => Sys2Proof.Machine.execCopy ring s
  | .strikeCopy ring => Sys2Proof.Machine.execStrikeCopy ring s
  | .reduceScatter ring => Sys2Proof.Machine.execReduceScatter ring s
  | .allGather ring => Sys2Proof.Machine.execAllGather ring s
  | .allReduce ring => Sys2Proof.Machine.execAllReduce ring s
  | .broadcast ring => Sys2Proof.Machine.execBroadcast ring s
  | .allToAll ring => Sys2Proof.Machine.execAllToAll ring s
  | .queuePush ring => Sys2Proof.Machine.execQueuePush ring s
  | .queuePop ring => Sys2Proof.Machine.execQueuePop ring s
  | .layerDef ring => Sys2Proof.Machine.execLayerDef ring s
  | .layerUndef ring => Sys2Proof.Machine.execLayerUndef ring s
  | .update ring => Sys2Proof.Machine.execUpdate ring s
  | .strike ring => Sys2Proof.Machine.execStrike ring s
  | .layerIo ring => Sys2Proof.Machine.execLayerIo ring s
  | .route ring => Sys2Proof.Machine.execRoute ring s
  | .dispatch ring => Sys2Proof.Machine.execDispatch ring s
  | .combine ring => Sys2Proof.Machine.execCombine ring s
  | .embGather ring => Sys2Proof.Machine.execEmbGather ring s
  | .embSegsum ring => Sys2Proof.Machine.execEmbSegsum ring s
  | .evict ring => Sys2Proof.Machine.execEvict ring s
  | .seqJoin ring => Sys2Proof.Machine.execSeqJoin ring s
  | .seqLeave ring => Sys2Proof.Machine.execSeqLeave ring s
  | .seqPark ring => Sys2Proof.Machine.execSeqPark ring s
  | .seqUnpark ring => Sys2Proof.Machine.execSeqUnpark ring s
  | .seqPrio ring => Sys2Proof.Machine.execSeqPrio ring s
  | .load core => Sys2Proof.Machine.execLoad core s
  | .pass core fault run => Sys2Proof.Machine.execPass core fault s run
  | .thin hall => Sys2Proof.Machine.execThin hall s
  | .tallyRecord core => Sys2Proof.Machine.execTallyRecord core s
  | .tileNop hall => Sys2Proof.Machine.execTileNop hall s
  | .seal core => Sys2Proof.Machine.execSeal core s
  | .drain core => Sys2Proof.Machine.execDrain core s
  | .free core => Sys2Proof.Machine.execFree core s
  | .spill core => Sys2Proof.Machine.execSpill core s
  | .restore core => Sys2Proof.Machine.execRestore core s
  | .pageAdd core => Sys2Proof.Machine.execPageAdd core s
  | .vload hall => Sys2Proof.Machine.execVload hall s
  | .vstore hall => Sys2Proof.Machine.execVstore hall s
  | .arith hall => Sys2Proof.Machine.execArith hall s
  | .func hall => Sys2Proof.Machine.execFunc hall s
  | .rowred hall => Sys2Proof.Machine.execRowred hall s
  | .smax hall => Sys2Proof.Machine.execSmax hall s
  | .norm hall => Sys2Proof.Machine.execNorm hall s
  | .dropout hall => Sys2Proof.Machine.execDropout hall s
  | .convert hall => Sys2Proof.Machine.execConvert hall s
  | .xpose core => Sys2Proof.Machine.execXpose core s
  | .stash core => Sys2Proof.Machine.execStash core s
  | .unstash core => Sys2Proof.Machine.execUnstash core s
  | .sdrop core => Sys2Proof.Machine.execSdrop core s
  | .lease core => Sys2Proof.Machine.execLease core s
  | .watch core => Sys2Proof.Machine.execWatch core s
  | .programEnd program stays => Sys2Proof.Machine.execProgramEnd program s stays
  | .drainFillEnd hall entry => Sys2Proof.Machine.execDrainFillEnd hall entry s
  | .spillWriteEnd hall tag => Sys2Proof.Machine.execSpillWriteEnd hall tag s
  | .restoreFillEnd core page => Sys2Proof.Machine.execRestoreFillEnd core page s
  | .dmaTransferEnd hall tag hostData => Sys2Proof.Machine.execDmaTransferEnd hall tag hostData s
  | .mintExchangeReceived link frame => Sys2Proof.Machine.execMintExchangeReceived link frame s
  | .updateStaged part layer fault => Sys2Proof.Machine.execUpdateStaged part layer s fault
  | .parkCopyEnd slot => Sys2Proof.Machine.execParkCopyEnd slot s
  | .saveStart part => Sys2Proof.Machine.execSaveStart part s
  | .partSaved part readOk => Sys2Proof.Machine.execPartSaved part readOk s
  | .requestFence part => Sys2Proof.Machine.execRequestFence part s
  | .restoreEnd part readOk => Sys2Proof.Machine.execRestoreEnd part readOk s
  | .scrubDone part readOk => Sys2Proof.Machine.execScrubDone part readOk s
  | .checkpointReloadEnd core readOk => Sys2Proof.Machine.execCheckpointReloadEnd core readOk s
  | .fwImageChecked slot writeOk signatureOk => Sys2Proof.Machine.execFwImageChecked slot writeOk signatureOk s
  | .handoverReady => Sys2Proof.Machine.execHandoverReady s
  | .handoverTimeout => Sys2Proof.Machine.execHandoverTimeout s
  | .tellerWatchdogExpiry => Sys2Proof.Machine.execTellerWatchdogExpiry s
  | .tellerRestartDone => Sys2Proof.Machine.execTellerRestartDone s
  | .quoteBatchClose => Sys2Proof.Machine.execQuoteBatchClose s
  | .batchSigned writeOk => Sys2Proof.Machine.execBatchSigned writeOk s
  | .traversalRebuildEnd => Sys2Proof.Machine.execTraversalRebuildEnd s
  | .riser found => Sys2Proof.Machine.execRiser s found
  | .riserBeaconSend => Sys2Proof.Machine.execRiserBeaconSend s
  | .budgetEvaluation us progress => Sys2Proof.Machine.execBudgetEvaluation us progress s
  | .alignTimeout => Sys2Proof.Machine.execAlignTimeout s
  | .memberBeaconTimeout member => Sys2Proof.Machine.execMemberBeaconTimeout member s
  | .formationComplete => Sys2Proof.Machine.execFormationComplete s
  | .formationTimeout failed => Sys2Proof.Machine.execFormationTimeout failed s
  | .waitLimitExpiry place => Sys2Proof.Machine.execWaitLimitExpiry place s
  | .probeSend stamp => Sys2Proof.Machine.execProbeSend stamp s
  | .helloSend => Sys2Proof.Machine.execHelloSend s
  | .helloReceived link frame => Sys2Proof.Machine.execHelloReceived link frame s
  | .neighbourTimeout link => Sys2Proof.Machine.execNeighbourTimeout link s
  | .ackReceived link frame => Sys2Proof.Machine.execAckReceived link frame s
  | .ackTimer conn => Sys2Proof.Machine.execAckTimer conn s
  | .resendTimeout conn => Sys2Proof.Machine.execResendTimeout conn s
  | .riserBeaconReceived link frame stamp => Sys2Proof.Machine.execRiserBeaconReceived link frame stamp s
  | .slipBeaconReceived link frame => Sys2Proof.Machine.execSlipBeaconReceived link frame s
  | .holdBeaconReceived link frame => Sys2Proof.Machine.execHoldBeaconReceived link frame s
  | .poisonBeaconReceived link frame => Sys2Proof.Machine.execPoisonBeaconReceived link frame s
  | .haltBeaconReceived link frame => Sys2Proof.Machine.execHaltBeaconReceived link frame s
  | .resumeBeaconReceived link frame => Sys2Proof.Machine.execResumeBeaconReceived link frame s
  | .probeRequestReceived link frame stamp sent => Sys2Proof.Machine.execProbeRequestReceived link frame stamp sent s
  | .probeResponseReceived link frame stamp => Sys2Proof.Machine.execProbeResponseReceived link frame stamp s
  | .remoteAddReq link frame => Sys2Proof.Machine.execRemoteAddReq link frame s
  | .stwResumeReq link frame => Sys2Proof.Machine.execStwResumeReq link frame s
  | .readyReq link frame => Sys2Proof.Machine.execReadyReq link frame s
  | .countReq link frame => Sys2Proof.Machine.execCountReq link frame s
  | .respReceived link frame => Sys2Proof.Machine.execRespReceived link frame s
  | .collectiveData link frame => Sys2Proof.Machine.execCollectiveData link frame s
  | .queueData link frame => Sys2Proof.Machine.execQueueData link frame s
  | .creditReceived link frame => Sys2Proof.Machine.execCreditReceived link frame s
  | .frameRelay link frame => Sys2Proof.Machine.execFrameRelay link frame s
  | .pauseFrame link quanta => Sys2Proof.Machine.execPauseFrame link quanta s
  | .pfcFrame link enable quanta => Sys2Proof.Machine.execPfcFrame link enable quanta s
  | .lldpduReceived link bytes => Sys2Proof.Machine.execLldpduReceived link bytes s
  | .frameDrop link frame => Sys2Proof.Machine.execFrameDrop link frame s
  | .pauseExpired link priority => Sys2Proof.Machine.execPauseExpired link priority s
  | .xoffRepeat port occupancy => Sys2Proof.Machine.execXoffRepeat port s occupancy
  | .pauseStorm link priority => Sys2Proof.Machine.execPauseStorm link priority s
  | .stormEnd link priority => Sys2Proof.Machine.execStormEnd link priority s
  | .lldpSend link => Sys2Proof.Machine.execLldpSend link s
  | .lldpTtlExpiry link => Sys2Proof.Machine.execLldpTtlExpiry link s
  | .linkUp link => Sys2Proof.Machine.execLinkUp link s
  | .linkDown link cause lane => Sys2Proof.Machine.execLinkDown link cause lane s
  | .fecInterval link corrected uncorrected symbols powers remoteFault => Sys2Proof.Machine.execFecInterval link corrected uncorrected symbols powers s remoteFault
  | .ucieTrainingEnd module half0 half1 => Sys2Proof.Machine.execUcieTrainingEnd module half0 half1 s
  | .ucieRetrain module replays linkError lanes0 lanes1 => Sys2Proof.Machine.execUcieRetrain module replays linkError lanes0 lanes1 s
  | .ucieRetrainEnd module half0 half1 => Sys2Proof.Machine.execUcieRetrainEnd module half0 half1 s
  | .hostSnoop line => Sys2Proof.Machine.execHostSnoop line s
  | .hdmAccess addr write => Sys2Proof.Machine.execHdmAccess addr write s
  | .estimateTick estimate => Sys2Proof.Machine.execEstimateTick estimate s
  | .calibrationWindow gain0 gain1 => Sys2Proof.Machine.execCalibrationWindow gain0 gain1 s
  | .galleryTempStretch gallery => Sys2Proof.Machine.execGalleryTempStretch gallery s
  | .galleryCurrentStretch gallery => Sys2Proof.Machine.execGalleryCurrentStretch gallery s
  | .droopStretch gallery => Sys2Proof.Machine.execDroopStretch gallery s
  | .droopStretchEnd gallery => Sys2Proof.Machine.execDroopStretchEnd gallery s
  | .stretchEnd gallery current us => Sys2Proof.Machine.execStretchEnd gallery current us s
  | .mintDieThrottle => Sys2Proof.Machine.execMintDieThrottle s
  | .memoryStackThrottle vault stack => Sys2Proof.Machine.execMemoryStackThrottle vault stack s
  | .throttleEnd unit => Sys2Proof.Machine.execThrottleEnd unit s
  | .opticsOff engine temp => Sys2Proof.Machine.execOpticsOff engine temp s
  | .opticsOn engine temp => Sys2Proof.Machine.execOpticsOn engine temp s
  | .hostAccessAborted access => Sys2Proof.Machine.execHostAccessAborted access s
  | .usherLastWrite gallery => Sys2Proof.Machine.execUsherLastWrite gallery s
  | .layerIoCopyEnd ring hostData => Sys2Proof.Machine.execLayerIoCopyEnd ring hostData s
  | .zeroFillEnd part page => Sys2Proof.Machine.execZeroFillEnd part page s
  | .signalDetected link => Sys2Proof.Machine.execSignalDetected link s
  | .alignmentMarkerLock link => Sys2Proof.Machine.execAlignmentMarkerLock link s
  | .hdmDecoderCommit base => Sys2Proof.Machine.execHdmDecoderCommit base s

end Sys2Proof.Machine
end

