-- ==== Sys2Proof/Safety.lean ====
section
/-!
DEFINITION. What claims about a run of the block are stated in: the canonical form of its memories, the parts of the state that
posting a report leaves alone, and what every command keeps.
-/
namespace Sys2Proof.Machine

/-- Every addressed memory is in canonical form: rising addresses, no zero byte listed. -/
def State.memoriesWf (s : State) : Bool := s.hbm.wf && s.vault.wf && s.pads.wf && s.bufs.wf

/-- The state without what posting a completion may change: rings, MSI-X vectors, the owner backlogs (which boot rings that come
up after it adopt), what goes out and what waits to. -/
def State.apartFromCompletions (s : State) : State :=
  { s with rings := [], vectors := [], owners := [], out := [], hostWaits := [] }

/-- The state without what posting a completion or an event may change: also the counters and the teller's fault log. -/
def State.apartFromReports (s : State) : State :=
  { s with rings := [], vectors := [], out := [], hostWaits := [], cnt := [], owners := [], fw := { s.fw with log := [] } }

/-- What no command breaks: the queue stands as it was, and canonical memories stay canonical. -/
def Evolves (s t : State) : Prop := t.pending = s.pending ∧ (s.memoriesWf = true → t.memoriesWf = true)

/-- No RSV field has been changed, and the device is Ready or Running with its rails in range (R478, R495). -/
def State.serves (s : State) : Bool := !s.dev.unbound && s.isUp

/-- The same in Boot, Ready or Running. -/
def State.powered (s : State) : Bool := !s.dev.unbound && s.isOn

/-- The commands that can end the condition of an RSV write: the resets and the power pins (R489, R495). -/
def endsUnbound : Instr → Bool
  | .resetNPulse | .vauxRemoved | .coldReset => true
  | _ => false

/-- The byte memories and their poison marks, which only data movement changes. -/
def State.sameStores (s t : State) : Prop :=
  t.hbm = s.hbm ∧ t.vault = s.vault ∧ t.pads = s.pads ∧ t.bufs = s.bufs ∧ t.hbmPoison = s.hbmPoison ∧
    t.vaultPoison = s.vaultPoison ∧ t.padPoison = s.padPoison

/-- The state without what the sending and the receipt of a frame may change: the connections and what runs beneath them,
ports and links, and all reports. -/
def State.apartFromSending (s : State) : State :=
  { s.apartFromReports with fab := { s.fab with conns := [], neighbours := [], requests := [] }, ports := [], links := [] }

/-- A frame that this device accepts on a link: the MAC passes it, the fabric is enabled, and version and destination are its own
(R317, R340, R348). -/
def State.hears (s : State) (link : Nat) (f : Frame) : Bool :=
  macPasses link f s && s.fab.enable && f.version == 1 && f.dst == fabAddr s

/-- A reliable frame that this device takes: it is the next one of its connection, once the acknowledgement that it carries has
been taken (R320). -/
def State.takesInOrder (s : State) (link : Nat) (f : Frame) : Bool :=
  s.hears link f && f.seq == (connOf (connIn f) (takeAck (connIn f) f.ack (macReceive link f s))).expect

/-- A REQ that this device takes and whose answer it does not keep already (R322). -/
def State.takesRequest (s : State) (link : Nat) (f : Frame) : Bool :=
  s.takesInOrder link f && (connOf (connIn f) s).kept.all (fun e => e.1 != f.txn)

/-- The first copy of a member's beacon of a kind (R323). -/
def State.takesBeacon (s : State) (kind link : Nat) (f : Frame) : Bool :=
  s.hears link f && (beaconOf f.payload).kind == kind && (beaconMembers s).contains f.src &&
    !s.stw.seen.contains (kind, BitVec.ofNat 48 (beaconOf f.payload).riser, f.src)

/-- The state without its partitions and reports. -/
def State.apartFromParts (s : State) : State := { s.apartFromReports with parts := [] }

/-- Partition p alone has changed, reports apart. -/
def State.onlyPart (s : State) (p : Nat) (t : State) : Prop :=
  t.apartFromParts = s.apartFromParts ∧ ∀ o, o ≠ p → t.part o = s.part o

/-- The record that core c runs next, when it has opcode `op`, only waiting records of `passed` stand before it, and its window of
8 operations is not full: its program, position and bytes (R102, R157, R158, R173). -/
def State.nextOn (s : State) (op : Nat) (passed : List Nat) (c : Nat) : Option (Program × Nat × Bytes) :=
  (runningOn c s).bind (fun g =>
    if 8 ≤ opWindow g c then none else (nextRecord op passed (coreWaiting g c)).map (fun x => (g, x.1, x.2)))

/-- The vector record or THIN that hall h runs next, when it has opcode `op` and no DRAIN still fills a buffer of it (R201). -/
def State.nextInHall (s : State) (op h : Nat) : Option (Program × Nat × Bytes) :=
  (nextHallOp (hallRecords h s) []).bind (fun x => ((s.program? x.1).filter (fun g =>
    recOp x.2.2.1 == op && !programHeld g s && (hallReads x.2.2.1 ++ hallWrites x.2.2.1).all (fun b => !x.2.2.2.contains b))).map
      (fun g => (g, x.2.1, x.2.2.1)))

/-- Whether the head f of ring rn is a COPY, CLEAR or usher descriptor of opcode `op` that hall h takes in this tread (R38 to
R41). -/
def State.admits (s : State) (op rn : Nat) (hallField : Bytes → Nat) (f : Fetched) (h : Nat) : Bool :=
  headOf op rn s == some f && h == carryHall (s.ring rn).owner (hallField f.bytes) s &&
    workGate (s.ring rn).owner (BitVec.ofNat 32 (u32 f.bytes 8)) (bit (byteAt f.bytes 1) 2) s == .go &&
    decide ((s.hall h).cost + u32 f.bytes 12 ≤ ceiling s)

/-- Whether the mint takes the head f of ring rn (R260, R374). -/
def State.mints (s : State) (op rn : Nat) (f : Fetched) : Bool :=
  headOf op rn s == some f && !mintBusy rn s &&
    mintGate op (s.part (s.ring rn).owner) (BitVec.ofNat 32 (u32 f.bytes 8)) == .go

/-- Whether no setting stands in the way of new ones of ring rn: their target has not passed, and nothing pending is the same
setting for the same landing (R58, R59). -/
def settingsClear (rn : Nat) (f : Fetched) (kinds : List (Nat × SettingKind)) (s : State) : Bool :=
  (targetPassed (s.ring rn).owner (BitVec.ofNat 32 (u32 f.bytes 8)) s).isNone &&
    s.settings.all (fun x => kinds.all (fun k => !sameLanding rn k.1 (BitVec.ofNat 32 (u32 f.bytes 8)) k.2 s x))

/-- The head descriptor of ring rn taken and its settings pending, after those that pend already (R58). -/
def pended (rn : Nat) (f : Fetched) (kinds : List (Nat × SettingKind)) (s : State) : State :=
  { popHead rn s with settings := s.settings ++ kinds.map (fun k =>
      { ring := rn, tag := f.tag, scope := k.1, target := BitVec.ofNat 32 (u32 f.bytes 8), kind := k.2, deferred := false }) }

end Sys2Proof.Machine
end

