-- ==== Sys2Proof/Certificates/Slice0/Obligations.lean ====
section
/-!
DEFINITION. What the provers are asked: statements about the block, each with the rules of spec/ it comes from.
-/
open Sys2Proof Sys2Proof.Machine

/-! ## The queue -/

/-- The step takes the command at the front of the queue, and idles on an empty queue (assumption log 2). -/
def Obligations.StepTakesTheFrontCommand : Prop :=
  (∀ (c : Instr) (s : State) (rest : List Instr),
    Machine.step { s with pending := c :: rest } = Machine.exec c { s with pending := rest }) ∧
  (∀ s : State, s.pending = [] → Machine.step s = .next s)

/-- Every well-formed command completes unless an RSV field has been changed, none touches the queue that waits, and none takes a
byte memory out of its canonical form; so every step drops exactly the front command and keeps the memories canonical. -/
def Obligations.EveryStepKeepsQueueOrderAndMemoryForm : Prop :=
  (∀ (c : Instr) (rest : List Instr) (s t : State), s.pending = c :: rest → Machine.step s = .next t →
    t.pending = rest ∧ (s.memoriesWf = true → t.memoriesWf = true)) ∧
  (∀ (c : Instr) (s : State), s.dev.unbound = false → c.wellFormed = true →
    ∃ t, Machine.exec c s = .next t ∧ t.pending = s.pending)

/-- Reset memories are canonical and nothing waits. -/
def Obligations.ResetMemoriesAreCanonical : Prop :=
  State.reset.memoriesWf = true ∧ State.reset.pending = []

/-! ## Power, reset and Boot (R478 to R489) -/

/-- What reset leaves where the manual gives the value: Boot, step 1 (R489); tread period 32 us, slip bound 8, Alone
(Table 2-11); native mode with boost clear, base 12, floor 12, cap 800 W (R415); every counter 0 (R494). -/
def Obligations.ResetHoldsTheStatedValues : Prop :=
  State.reset.dev.state = .boot ∧ State.reset.dev.faultCode = 0 ∧ State.reset.dev.bootStep = 1 ∧
  State.reset.dev.bootMs = 0 ∧ State.reset.dev.shutdown = none ∧ State.reset.dev.refused = false ∧
  State.reset.time.period = 32 ∧ State.reset.stw.state = .alone ∧ State.reset.stw.bound = 8 ∧
  State.reset.pwr.fixed = false ∧ State.reset.pwr.boost = false ∧ State.reset.pwr.base = 12 ∧
  State.reset.pwr.floor = 12 ∧ State.reset.pwr.cap = 800 ∧ State.reset.regs.hstTimeout = 0x32 ∧
  State.reset.regs.hstRetryLim = 0x0100 ∧ State.reset.regs.attWindow = 0x64 ∧ State.reset.fab.etype = 0x88B5 ∧
  State.reset.fab.rto = 0x10 ∧ State.reset.fab.enable = false ∧
  (∀ k, State.reset.counter k = 0) ∧ (∀ p, (State.reset.part p).state = .free) ∧
  (∀ n, (State.reset.ring n).state = .disabled) ∧ (∀ q, (State.reset.port q).enable = false)

/-- Once an RSV field has been changed, every well-formed command but a cold reset, RESET_N or the loss of VAUX stops with
`testControl`: the model's form of R495, which binds no statement until then (assumption log 6). A write of HST_CTL that
changes its RSV field leads there. -/
def Obligations.RsvWriteStopsTheBlock : Prop :=
  (∀ (c : Instr) (s : State), s.dev.unbound = true → c.wellFormed = true → endsUnbound c = false →
     Machine.exec c s = .fault .testControl) ∧
  (∀ (v : Word) (s : State), s.dev.unbound = false → cxlUp s = true → 2 ^ 24 ≤ v.toNat →
     ∃ t, Machine.exec (.registerWrite 0x0B0004 4 v .bar0) s = .next t ∧ t.dev.unbound = true)

/-- VAUX, MAIN_EN, RESET_N and the removal of VAUX or of a main rail move the device as Table 18-2, R481, R482 and R487
give. -/
def Obligations.PowerPinsMoveTheDevice : Prop :=
  (∀ s : State, s.dev.unbound = false → s.dev.state = .off →
    Machine.exec .vauxUp s =
      .next { s with dev := { s.dev with state := .standby, vaux := true, fromOff := true } }) ∧
  (∀ s : State, s.dev.unbound = false → s.dev.state = .standby → s.dev.fromOff = true →
    Machine.exec .mainEnAssert s = .next { s with dev := { s.dev with mainEn := true } }) ∧
  (∀ s : State, s.dev.unbound = false → s.dev.state = .standby → s.dev.mainEn = true →
    ∃ t, Machine.exec .resetNRelease s = .next t ∧ t.dev.state = .boot ∧ t.dev.bootStep = 1 ∧ t.dev.rails = true ∧
      t.regs = State.reset.regs ∧ t.rings = [] ∧ t.parts = [] ∧ t.fab = State.reset.fab ∧ t.hbm = [] ∧
      t.dev.tripCause = s.dev.tripCause ∧ t.porter.code = s.porter.code ∧ t.flt.retired = s.flt.retired ∧
      t.pending = s.pending) ∧
  (∀ s : State, s.dev.state = .standby →
    Machine.exec .resetNPulse s = .next { s with dev := { s.dev with mainEn := true } }) ∧
  (∀ s : State, s.dev.state ≠ .off →
    ∃ t, Machine.exec .vauxRemoved s = .next t ∧ t.dev.state = .off ∧ t.dev.tripCause = 0 ∧ t.porter.code = 0 ∧
      t.dev.mainEn = false ∧ t.hbm = [] ∧ t.vault = [] ∧ t.cnt = [] ∧ t.flt.retired = s.flt.retired ∧
      t.fw.leafA = s.fw.leafA ∧ t.fw.leafB = s.fw.leafB ∧ t.pending = s.pending) ∧
  (∀ s : State, s.dev.unbound = false → s.dev.state = .boot ∨ s.dev.state = .up ∨ s.dev.state = .fault →
    ∃ t, Machine.exec .forcedShutdown s = .next t ∧ t.dev = { s.dev with rails := false } ∧ s.sameStores t ∧
      t.rings = s.rings ∧ t.parts = s.parts ∧ t.regs = s.regs ∧ t.flt = s.flt ∧ t.pending = s.pending ∧
      (∃ k, t.fw = { s.fw with log := s.fw.log.take k }))

/-- A warm or cold reset, from Boot, Ready, Running or a Fault that is not a module trip, begins Boot again: every partition
Free, no connection, no trained module, no completion; PWR_TRIP and the stored bytes kept (Tables 18-2 and 18-4). In a
Fault with cause 0x1 nothing changes (R482). -/
def Obligations.ResetsBeginBootAgain : Prop :=
  (∀ s : State, s.dev.unbound = false → cxlUp s = true → resetActs s = true →
    ∃ t u v, Machine.exec .warmReset s = .next t ∧ Machine.exec .coldReset s = .next u ∧
      Machine.exec .resetNPulse s = .next v ∧
      ∀ x ∈ [t, u, v], x.dev.state = .boot ∧ x.dev.bootStep = 1 ∧ x.dev.shutdown = none ∧ x.parts = [] ∧
        x.rings = [] ∧ x.fab.conns = [] ∧ x.host.halves = [] ∧ x.work = [] ∧ x.programs = [] ∧ x.out = s.out ∧
        x.dev.tripCause = s.dev.tripCause ∧ s.sameStores x ∧ x.pending = s.pending) ∧
  (∀ s : State, s.dev.state = .fault → s.dev.faultCode = 1 →
    Machine.exec .coldReset s = .next s ∧ Machine.exec .resetNPulse s = .next s)

/-- The end of a Boot step keeps its time, in ms and at most 0xFFFF, and leads to the next step: always from steps 1, 4, 6, 7, 8,
10 and 12; from step 2 with the PUF, and from step 3 with the configuration record, found good; from step 5 with the slot that
the boot record names Active, or the other one where that one fails its check, which leaves it Invalid; from steps 9 and 11
where no unit of the memory fails. Step 6 counts the boot epoch up, step 7 zeroes the SRAM stores and their marks, step 10 HBM
and step 12 the vault. Step 13 leads to Ready. Steps 2, 3 and 5 lead to Fault with codes 0x3, 0x2, 0x4 (no valid image) and 0x6
(no ready teller), and steps 9 and 11 with code 0x5 where a whole stack without retired units fails (R483, R485, Tables 18-5
and 18-6). -/
def Obligations.BootStepsLeadToReady : Prop :=
  ∀ (found : BootFindings) (k : Nat) (s : State), (Instr.bootStepEnd found).wellFormed = true → s.dev.unbound = false →
    s.dev.state = .boot → s.dev.rails = true → s.dev.bootStep = k →
    ∃ t, Machine.exec (.bootStepEnd found) s = .next t ∧ t.dev.bootMs = BitVec.ofNat 16 (min 0xFFFF found.ms) ∧
      t.pending = s.pending ∧
      (k ∈ [1, 4, 6, 7, 8, 10, 12] → t.dev.state = .boot ∧ t.dev.bootStep = k + 1) ∧
      (k = 2 → found.pufOk = true → t.dev.state = .boot ∧ t.dev.bootStep = 3 ∧ t.fw.keyed = true) ∧
      (k = 2 → found.pufOk = false → t.dev.state = .fault ∧ t.dev.faultCode = 3 ∧ t.fw.pufFail = true) ∧
      (k = 3 → found.recordOk = true → t.dev.state = .boot ∧ t.dev.bootStep = 4) ∧
      (k = 3 → found.recordOk = false → t.dev.state = .fault ∧ t.dev.faultCode = 2 ∧ t.fw.cfgBad = true) ∧
      (∀ (n o : Fin 2) (reason : Fin 2 → Nat), k = 5 → n = (if s.fw.bootSlot = 0 then 0 else 1) → o ≠ n →
        (∀ i, reason i = bootReason i (if i = 0 then found.slot0Reason else found.slot1Reason) s) →
        (found.tellerReady = true → reason n = 0 → t.dev.state = .boot ∧ t.dev.bootStep = 6 ∧
          (slotOf n t).state = .active ∧ t.fw.active = some n.val) ∧
        (found.tellerReady = true → reason n ≠ 0 → reason o = 0 → t.dev.state = .boot ∧ t.dev.bootStep = 6 ∧
          (slotOf o t).state = .active ∧ t.fw.active = some o.val ∧ (slotOf n t).state = .invalid ∧
          t.dev.reverted = some (n.val, reason n)) ∧
        (reason n ≠ 0 → reason o ≠ 0 → t.dev.state = .fault ∧ t.dev.faultCode = 4 ∧ t.fw.noImage = true) ∧
        (found.tellerReady = false → reason n = 0 ∨ reason o = 0 → t.dev.state = .fault ∧ t.dev.faultCode = 6)) ∧
      (k = 6 → t.dev.bootEpoch = s.dev.bootEpoch + 1) ∧
      (k = 7 → t.pads = [] ∧ t.bufs = [] ∧ t.padPoison = [] ∧ t.cores = []) ∧
      (k = 9 → found.hbmFailed = [] → (∀ r ∈ s.flt.outOfService, r.type ≠ 1) →
        t.dev.state = .boot ∧ t.dev.bootStep = 10) ∧
      (∀ i, k = 9 → i < 8 → (∀ u, 32 * i ≤ u → u < 32 * i + 32 → u ∈ found.hbmFailed) →
        (∀ r ∈ s.flt.retired, r.res.type ≠ 1) → t.dev.state = .fault ∧ t.dev.faultCode = 5) ∧
      (k = 10 → t.hbm = [] ∧ t.hbmPoison = []) ∧
      (k = 11 → found.vaultFailed = [] → (∀ r ∈ s.flt.outOfService, r.type ≠ 2) →
        t.dev.state = .boot ∧ t.dev.bootStep = 12) ∧
      (∀ i, k = 11 → i < 8 → (∀ u, 8 * i ≤ u → u < 8 * i + 8 → u ∈ found.vaultFailed) →
        (∀ r ∈ s.flt.retired, r.res.type ≠ 2) → t.dev.state = .fault ∧ t.dev.faultCode = 5) ∧
      (k = 12 → t.vault = [] ∧ t.vaultPoison = []) ∧
      (k = 13 → t.dev.state = .up ∧ s.sameStores t)

/-- An orderly shutdown is accepted only in Ready with every partition Free and the stairwell Alone; otherwise REFUSED is
set and nothing else changes. The last row of Table 18-7 leaves Standby with MAIN_EN low (R486). -/
def Obligations.OrderlyShutdownLeadsToStandby : Prop :=
  (∀ s : State, s.dev.unbound = false → cxlUp s = true → s.dev.shutdown = none → shutdownLegal s = false →
    Machine.exec .orderlyShutdown s = .next { s with dev := { s.dev with refused := true } }) ∧
  (∀ s : State, s.dev.unbound = false → cxlUp s = true → s.dev.shutdown = none → shutdownLegal s = true →
    ∃ t, Machine.exec .orderlyShutdown s = .next t ∧ t.dev.shutdown = some 1 ∧ t.dev.refused = false ∧
      t.fab.enable = false ∧ s.sameStores t ∧ t.parts = s.parts) ∧
  (∀ (s : State) (k : Nat), s.serves = true → s.dev.shutdown = some k → k ≤ 4 →
    ∃ t, Machine.exec .shutdownStepEnd s = .next t ∧
      (k < 4 → t.dev.shutdown = some (k + 1) ∧ t.dev.state = .up) ∧
      (k = 1 → ∀ q, q < 16 → (t.port q).enable = false) ∧
      (k = 3 → t.host.halves = []) ∧
      (k = 4 → t.dev.state = .standby ∧ t.dev.mainEn = false ∧ t.dev.tripCause = s.dev.tripCause))

/-- A module trip latches its cause, moves the device to Fault with code 0x1 and asserts the trip output; no completion and
no event posts, and no store, ring or partition changes (R424). -/
def Obligations.ModuleTripStopsTheModule : Prop :=
  ∀ (cause : TripCause) (s : State), s.powered = true →
    ∃ t, Machine.exec (.moduleTrip cause) s = .next t ∧
      t.dev = { s.dev with
        state := .fault, faultCode := 1, thermTrip := true, tripCause := BitVec.ofNat 8 (tripCode cause) } ∧
      (∀ e ∈ t.links, e.2.stage = .dark) ∧ t.rings = s.rings ∧ t.owners = s.owners ∧ t.vectors = s.vectors ∧
      t.out = s.out ∧ t.parts = s.parts ∧ t.cnt = s.cnt ∧ t.regs = s.regs ∧ s.sameStores t ∧ t.pending = s.pending

/-- In Standby the porter follows lane 0 of a port: the first light begins a search, and a complete pattern that spells
PORTER_CODE, unless that is 0, starts the power-up sequence; in the other states light changes nothing (R359, R488). -/
def Obligations.PorterSearchesInStandby : Prop :=
  (∀ (q : PortNo) (us : Nat) (s : State), s.dev.unbound = false → s.dev.state = .standby →
    tget Search.atReset s.porter.searches q = Search.atReset →
    ∃ t, Machine.exec (.porterLightChange q true us) s = .next t ∧
      tget Search.atReset t.porter.searches q = { Search.atReset with lit := true } ∧ t.dev = s.dev ∧ t.cnt = s.cnt) ∧
  (∀ (q : PortNo) (lit : Bool) (us : Nat) (s : State) (l : List Bool), s.dev.unbound = false → s.dev.state = .standby →
    (tget Search.atReset s.porter.searches q).lit ≠ lit →
    ((tget Search.atReset s.porter.searches q).got ≠ 0 ∨ (tget Search.atReset s.porter.searches q).lit = true) →
    searchStep (tget Search.atReset s.porter.searches q) (tget Search.atReset s.porter.searches q).lit us = (none, some l) →
    codeOf l = s.porter.code.toNat → s.porter.code ≠ 0 →
    ∃ t, Machine.exec (.porterLightChange q lit us) s = .next t ∧ t.dev = { s.dev with mainEn := true } ∧
      t.porter.code = s.porter.code ∧ t.cnt = s.cnt) ∧
  (∀ (q : PortNo) (lit : Bool) (us : Nat) (s : State), s.dev.unbound = false → s.dev.state ≠ .standby →
    Machine.exec (.porterLightChange q lit us) s = .next s)

/-! ## Registers (R10, R404, R490 to R503) -/

/-- A word write to a direct register takes effect under its access codes: HST_CTL and IA_ADDR take their RW fields, FAB_ADDR
ignores writes while ENABLE is 1, an unassigned address ignores the write; a write of another size or alignment is answered
with Unsupported Request (R404, R490, R497, Tables 11-13 and 14-6). A word written to BAR4 at the third word of entry v of the
MSI-X table is the message data of vector v (R408, Table 14-4; the order of an entry's words is PRESUMED, assumption log 34). -/
def Obligations.RegisterWritesFollowTheirAccessCodes : Prop :=
  (∀ (v : Word) (s : State), s.dev.unbound = false → cxlUp s = true → v.toNat < 2 ^ 24 →
    Machine.exec (.registerWrite 0x0B0004 4 v .bar0) s = .next { s with regs := { s.regs with
      hstTimeout := BitVec.ofNat 8 (v.toNat / 65536 % 256), hstRetryLim := BitVec.ofNat 16 (v.toNat % 65536) } }) ∧
  (∀ (v : Word) (s : State), s.dev.unbound = false → cxlUp s = true → v &&& 3 = 0 →
    Machine.exec (.registerWrite 0x010004 4 v .bar0) s = .next { s with regs := { s.regs with iaAddr := v } }) ∧
  (∀ (v : Word) (s : State), s.dev.unbound = false → cxlUp s = true → v.toNat < 2 ^ 16 → s.fab.enable = true →
    Machine.exec (.registerWrite 0x090004 4 v .bar0) s = .next s) ∧
  (∀ (a : Nat) (v : Word) (s : State), s.dev.unbound = false → cxlUp s = true → 0x0E0000 ≤ a → a < 0x1000000 →
    a % 4 = 0 → Machine.exec (.registerWrite a 4 v .bar0) s = .next s) ∧
  (∀ (a size : Nat) (v : Word) (s : State), s.dev.unbound = false → cxlUp s = true → a < 0x1000000 →
    (size ≠ 4 ∨ a % 4 ≠ 0) →
    Machine.exec (.registerWrite a size v .bar0) s = .next { s with out := s.out ++ [.unsupported] }) ∧
  (∀ (v : Fin 2048) (w : Word) (s : State), s.dev.unbound = false → cxlUp s = true →
    Machine.exec (.registerWrite (16 * v + 8) 4 w .bar4) s = .next (s.setVector v { s.vector v with data := w }))

/-- A write to an HV counter, whatever its value, takes 0x8000_0000 from a counter that holds at least that much and leaves a
lower one alone; no other counter and nothing else changes (R10, Table 0-4). -/
def Obligations.HarvestTakesHalfTheCounter : Prop :=
  ∀ (a : Nat) (v : Word) (s : State), s.dev.unbound = false → cxlUp s = true → a ∈ directCounters →
    ∃ t, Machine.exec (.harvest a v) s = .next t ∧
      t.counter a = (if 0x80000000 ≤ (s.counter a).toNat then s.counter a - 0x80000000 else s.counter a) ∧
      (∀ b, b ≠ a → t.counter b = s.counter b) ∧ { t with cnt := s.cnt } = s

/-- The indirect port: a write to IA_SEL sets IA_ADDR to 0; an access of IA_DATA reads or writes the register at IA_ADDR, and
IA_ADDR advances by 4; beyond the selected space a read answers 0, a write is ignored, and both set ERR (R497, R499). -/
def Obligations.IndirectAccessFollowsIaAddr : Prop :=
  (∀ (v : Word) (s : State), s.dev.unbound = false → cxlUp s = true → v.toNat < 16 →
    Machine.exec (.iaSelWrite v) s = .next { s with regs := { s.regs with iaSel := v.setWidth 4, iaAddr := 0 } }) ∧
  (∀ s : State, s.dev.unbound = false → cxlUp s = true → s.regs.iaAddr.toNat < spaceSize s.regs.iaSel.toNat →
    Machine.exec .iaDataRead s = .next { s with
      regs := { s.regs with iaErr := false, iaAddr := s.regs.iaAddr + 4 },
      out := s.out ++ [.read (BitVec.ofNat 32 (indirectRead s.regs.iaSel.toNat s.regs.iaAddr.toNat s))] }) ∧
  (∀ s : State, s.dev.unbound = false → cxlUp s = true → spaceSize s.regs.iaSel.toNat ≤ s.regs.iaAddr.toNat →
    Machine.exec .iaDataRead s = .next { s with
      regs := { s.regs with iaErr := true, iaAddr := s.regs.iaAddr + 4 }, out := s.out ++ [.read 0] }) ∧
  (∀ (v : Word) (s : State), s.dev.unbound = false → cxlUp s = true →
    spaceSize s.regs.iaSel.toNat ≤ s.regs.iaAddr.toNat →
    Machine.exec (.iaDataWrite v) s = .next { s with
      regs := { s.regs with iaErr := true, iaAddr := s.regs.iaAddr + 4 } }) ∧
  (∀ (v : Word) (s : State), s.dev.unbound = false → cxlUp s = true → s.regs.iaSel = 7 → s.regs.iaAddr = 0 →
    v.toNat < 65536 →
    Machine.exec (.iaDataWrite v) s = .next { s with
      regs := { s.regs with iaErr := false, iaAddr := 4 },
      porter := { s.porter with code := BitVec.ofNat 16 v.toNat } })

/-- FAB_CFG takes RTO at once and ETYPE while disabled, and clearing ENABLE resets every connection; word 2 of a route entry
makes the whole entry take effect; words 0 and 1 are only held, and a read returns the words as held (R503); MAC_WAKE_TX
drives the code on a disabled port and BUSY clears at its end (R315, R340, R360). -/
def Obligations.FabricRouteAndWakeWritesTakeEffect : Prop :=
  (∀ (v : Word) (s : State), s.dev.unbound = false → cxlUp s = true → v.toNat % 256 = 0 → addrOk s = true →
    Machine.exec (.fabricEnable v) s = .next { s with fab := { s.fab with
      rto := BitVec.ofNat 8 (v.toNat / 256 % 256),
      etype := if s.fab.enable then s.fab.etype else BitVec.ofNat 16 (v.toNat / 65536 % 65536),
      enable := false, conns := s.fab.conns.map Conn.restart } }) ∧
  (∀ (v : Word) (s : State), s.dev.unbound = false → cxlUp s = true → v.toNat % 256 = 1 → addrOk s = true →
    ∃ t, Machine.exec (.fabricEnable v) s = .next t ∧ t.fab.enable = true ∧
      (s.fab.enable = true → t.fab.conns = s.fab.conns) ∧ { t with fab := s.fab } = s) ∧
  (∀ (a : Half) (v : Word) (s : State), s.dev.unbound = false → cxlUp s = true → v.toNat / 65536 % 256 = 0 →
    ∃ t, Machine.exec (.routeEntryCommit a v) s = .next t ∧
      (∀ r, r = tget Route.atReset s.fab.routes a.toNat →
        tget Route.atReset t.fab.routes a.toNat = { r with
          w2 := v &&& 0xFF00FFFF#32, links := setBits (r.w0.toNat + 2 ^ 32 * r.w1.toNat) 64,
          mode := bits v.toNat 30 2, gateway := bits v.toNat 24 6, via := BitVec.ofNat 16 (bits v.toNat 0 16) }) ∧
      (∀ b, b ≠ a.toNat → tget Route.atReset t.fab.routes b = tget Route.atReset s.fab.routes b) ∧
      { t with fab := s.fab } = s) ∧
  (∀ (a : Half) (w : Nat) (v : Word) (r : Route) (s : State), s.dev.unbound = false → cxlUp s = true →
    s.regs.iaSel = 9 → s.regs.iaAddr.toNat = 16 * a.toNat + 4 * w → r = tget Route.atReset s.fab.routes a.toNat →
    (w < 2 → ∃ t, Machine.exec (.iaDataWrite v) s = .next t ∧
      tget Route.atReset t.fab.routes a.toNat = (if w = 0 then { r with w0 := v } else { r with w1 := v }) ∧
      (∀ b, b ≠ a.toNat → tget Route.atReset t.fab.routes b = tget Route.atReset s.fab.routes b) ∧
      { t with fab := s.fab, regs := s.regs } = s) ∧
    (w < 3 → ∃ t, Machine.exec .iaDataRead s = .next t ∧
      t.out = s.out ++ [.read (if w = 0 then r.w0 else if w = 1 then r.w1 else r.w2)] ∧ t.fab = s.fab)) ∧
  (∀ (q : PortNo) (code : Half) (v : Word) (s : State), s.serves = true → cxlUp s = true → s.regs.wakeBusy = false →
    (s.port q).enable = false → code ≠ 0 → v.toNat = 65536 * q.val + code.toNat →
    Machine.exec (.wakePatternSend v) s = .next { s with
      regs := { s.regs with wakePort := BitVec.ofNat 4 q.val, wakeCode := code, wakeBusy := true },
      out := s.out ++ [.wake q.val code] }) ∧
  (∀ s : State, s.serves = true →
    Machine.exec .wakePatternEnd s = .next { s with regs := { s.regs with wakeBusy := false } })

/-- The sideband reads ID_MODREV, HST_STATUS and HST_CTL in every powered state and writes HST_CTL; every other access is
answered with Unsupported Request (R395, R506). FW_KICK changes no state that the tables name (log 7). -/
def Obligations.SidebandReachesHostRegisters : Prop :=
  (∀ (a : Nat) (s : State), s.dev.unbound = false → s.dev.state ≠ .off → s.dev.state ≠ .standby →
    a ∈ [0x000000, 0x0B0000, 0x0B0004] →
    Machine.exec (.sidebandRegisterAccess a none) s =
      .next { s with out := s.out ++ [.read (BitVec.ofNat 32 (directRead a s))] }) ∧
  (∀ (v : Word) (s : State), s.dev.unbound = false → s.dev.state ≠ .off → s.dev.state ≠ .standby → v.toNat < 2 ^ 24 →
    Machine.exec (.sidebandRegisterAccess 0x0B0004 (some v)) s = .next { s with regs := { s.regs with
      hstTimeout := BitVec.ofNat 8 (v.toNat / 65536 % 256), hstRetryLim := BitVec.ofNat 16 (v.toNat % 65536) } }) ∧
  (∀ (a : Nat) (w : Option Word) (s : State), s.dev.unbound = false → s.dev.state ≠ .off → s.dev.state ≠ .standby →
    a ∉ [0x000000, 0x0B0000, 0x0B0004] →
    Machine.exec (.sidebandRegisterAccess a w) s = .next { s with out := s.out ++ [.unsupported] }) ∧
  (∀ (v : Word) (s : State), s.powered = true → Machine.exec (.fwKick v) s = .next s)

/-! ## Boot rings, doorbells and interrupts (R73 to R75, R108, R109, R408) -/

/-- A write that sets RNG_BOOT_CTL.ENABLE in Ready or Running, outside an orderly shutdown and with rings 0 to 2 Disabled, takes
its VECTOR and size fields; with registers that describe legal rings it enables ring 0 as a CTRL ring, ring 1 as a CPL ring and
ring 2 as an EVENT ring, with illegal ones it sets BOOT_ERR and enables none. A write that clears ENABLE clears BOOT_ERR, and
where rings 0 and 2 are of classes CTRL and EVENT, nothing of rings 0 to 2 is in execution or unposted, no ring is closing and
no ring from 3 on posts to ring 1, it leaves all three Disabled (R109, R484). -/
def Obligations.BootRingsFollowTheirRegisters : Prop :=
  (∀ (v : Word) (s u : State), s.serves = true → cxlUp s = true → s.dev.shutdown = none → s.regs.bootEnable = false →
    bit v.toNat 31 = true → bits v.toNat 12 4 = 0 → (∀ n, n < 3 → (s.ring n).state = .disabled) →
    u = { s with regs := { s.regs with
        bootEnable := true, bootErr := false, bootVector := BitVec.ofNat 11 (bits v.toNat 16 11),
        bootCtrlSize := BitVec.ofNat 4 (bits v.toNat 8 4), bootCplSize := BitVec.ofNat 4 (bits v.toNat 4 4),
        bootEvtSize := BitVec.ofNat 4 (bits v.toNat 0 4) } } →
    (bootLegal u = true → ∃ t, Machine.exec (.bootRingsEnable v) s = .next t ∧ t.regs = u.regs ∧
      (t.ring 0).state = .enabled ∧ (t.ring 0).cls = 5 ∧ (t.ring 0).cpl = 1 ∧ (t.ring 0).k = 6 + bits v.toNat 8 4 ∧
      (t.ring 1).state = .enabled ∧ (t.ring 1).cls = 7 ∧ (t.ring 1).k = 6 + bits v.toNat 4 4 ∧
      (t.ring 2).state = .enabled ∧ (t.ring 2).cls = 6 ∧ (t.ring 2).k = 6 + bits v.toNat 0 4 ∧
      (∀ n, 3 ≤ n → t.ring n = s.ring n) ∧ s.sameStores t) ∧
    (bootLegal u = false →
      Machine.exec (.bootRingsEnable v) s = .next { u with regs := { u.regs with bootErr := true } })) ∧
  (∀ (v : Word) (s : State), s.serves = true → cxlUp s = true → s.regs.bootEnable = true → bit v.toNat 31 = false →
    bits v.toNat 12 4 = 0 →
    ∃ t, Machine.exec (.bootRingsDisable v) s = .next t ∧ t.regs.bootEnable = false ∧ t.regs.bootErr = false ∧
      t.apartFromCompletions = ({ s with regs := { s.regs with bootEnable := false, bootErr := false } }).apartFromCompletions ∧
      ((∀ n, n < 3 → (s.ring n).live = [] ∧ (s.ring n).fetched = [] ∧ unposted n s = []) →
        (∀ m, (s.ring m).closing = none) → (s.ring 0).cls = 5 → (s.ring 2).cls = 6 →
        (∀ m, 3 ≤ m → (s.ring m).cls ≤ 5 → (s.ring m).live? = true → (s.ring m).cpl ≠ 1) →
        ∀ n, n < 3 → (t.ring n).state = .disabled))

/-- A doorbell to an Enabled or Paused submission ring with a valid index moves its producer index, and one to a CPL or EVENT
ring its consumer index, past the records it leaves; an invalid index leaves the ring's index and puts the ring in Error with
cause 1, BAD_DOORBELL (R75); a doorbell of the wrong size or alignment, or to a Disabled ring, is only counted in
RNG_DB_IGNORED (R74). -/
def Obligations.DoorbellsMoveTheIndices : Prop :=
  (∀ (n : RingNo) (p : Word) (s : State), s.powered = true → cxlUp s = true → (s.ring n).cls ≤ 5 →
    takesDoorbell (s.ring n) = true →
    ((p - (s.ring n).cons).toNat ≤ 2 ^ (s.ring n).k ∧ (p - (s.ring n).prod).toNat ≤ 2 ^ (s.ring n).k →
      Machine.exec (.submissionDoorbell (8 * n.val) 8 p) s = .next (s.setRing n { s.ring n with prod := p })) ∧
    (2 ^ (s.ring n).k < (p - (s.ring n).cons).toNat ∨ 2 ^ (s.ring n).k < (p - (s.ring n).prod).toNat →
      ∃ t, Machine.exec (.submissionDoorbell (8 * n.val) 8 p) s = .next t ∧ (t.ring n).state = .error ∧
        (t.ring n).cause = 1 ∧ (t.ring n).prod = (s.ring n).prod ∧ (t.ring n).cons = (s.ring n).cons ∧
        t.apartFromReports = s.apartFromReports)) ∧
  (∀ (n : RingNo) (c : Word) (s : State), s.powered = true → cxlUp s = true → 6 ≤ (s.ring n).cls →
    takesDoorbell (s.ring n) = true →
    ((c - (s.ring n).cons).toNat ≤ ((s.ring n).prod - (s.ring n).cons).toNat →
      ∃ t, Machine.exec (.consumerDoorbell (8 * n.val) 8 c) s = .next t ∧ (t.ring n).cons = c ∧
        (t.ring n).state = (s.ring n).state ∧ t.apartFromReports = s.apartFromReports) ∧
    (((s.ring n).prod - (s.ring n).cons).toNat < (c - (s.ring n).cons).toNat →
      ∃ t, Machine.exec (.consumerDoorbell (8 * n.val) 8 c) s = .next t ∧ (t.ring n).state = .error ∧
        (t.ring n).cause = 1 ∧ (t.ring n).cons = (s.ring n).cons ∧ (t.ring n).prod = (s.ring n).prod ∧
        t.apartFromReports = s.apartFromReports)) ∧
  (∀ (n : RingNo) (c : Word) (s : State), s.powered = true → cxlUp s = true → (s.ring n).cls = 7 →
    takesDoorbell (s.ring n) = true → (s.ring n).backlog = [] → (s.ring n).lost = 0 →
    (c - (s.ring n).cons).toNat ≤ ((s.ring n).prod - (s.ring n).cons).toNat →
    Machine.exec (.consumerDoorbell (8 * n.val) 8 c) s = .next (s.setRing n { s.ring n with
      cons := c, posted := (s.ring n).posted.drop (c - (s.ring n).cons).toNat })) ∧
  (∀ (o size : Nat) (p : Word) (s : State), s.powered = true → cxlUp s = true → o < 65536 →
    (size ≠ 8 ∨ o % 8 ≠ 0) →
    Machine.exec (.submissionDoorbell o size p) s = .next (s.bump 0x030024) ∧
    Machine.exec (.consumerDoorbell o size p) s = .next (s.bump 0x030024)) ∧
  (∀ (n : RingNo) (p : Word) (s : State), s.powered = true → cxlUp s = true → (s.ring n).state = .disabled →
    Machine.exec (.submissionDoorbell (8 * n.val) 8 p) s = .next (s.bump 0x030024) ∧
    Machine.exec (.consumerDoorbell (8 * n.val) 8 p) s = .next (s.bump 0x030024))

/-- A pending interrupt count whose time threshold passes fires the ring's vector, unless a threshold of 0 disables that, and
unmasking a vector sends its pending message: a message to its address while neither the vector nor the function is masked and
a module is up, else, while the vector is masked, the pending bit (R108, R408). -/
def Obligations.InterruptsFireAndUnmask : Prop :=
  (∀ (n : RingNo) (s : State), s.serves = true → (s.ring n).state ≠ .disabled → (s.ring n).countThr ≠ 0 →
    (s.ring n).timeThr ≠ 0 → (s.ring n).irqs ≠ 0 →
    ∃ t, Machine.exec (.interruptTimeout n) s = .next t ∧ (t.ring n).irqs = 0 ∧
      ((s.vector (s.ring n).vector).masked = false → s.regs.funcMask = false → s.host.halves ≠ [] →
        t.out = s.out ++ [.msix (s.ring n).vector (s.vector (s.ring n).vector).addr (s.vector (s.ring n).vector).data]) ∧
      ((s.vector (s.ring n).vector).masked = true → t.out = s.out ∧ (t.vector (s.ring n).vector).pending = true)) ∧
  (∀ (n : RingNo) (s : State), s.serves = true → (s.ring n).countThr = 0 ∨ (s.ring n).timeThr = 0 →
    Machine.exec (.interruptTimeout n) s = .next s) ∧
  (∀ (v : Fin 2048) (s : State), s.dev.unbound = false → cxlUp s = true → (s.vector v).pending = true →
    s.regs.funcMask = false →
    Machine.exec (.msixUnmask v) s =
      .next ((s.setVector v { s.vector v with masked := false, pending := false }).emit
        (.msix v (s.vector v).addr (s.vector v).data))) ∧
  (∀ (v : Fin 2048) (s : State), s.dev.unbound = false → cxlUp s = true → (s.vector v).pending = false →
    Machine.exec (.msixUnmask v) s = .next (s.setVector v { s.vector v with masked := false }))

/-! ## Descriptors and completions (R76, R81 to R99) -/

/-- The final completion of a descriptor in execution, without duplicates and with an Enabled CPL ring on which nothing waits,
outside Fault: one record with its tag, status, detail, result and auxiliary value at the end of the CPL ring, whose producer
index it advances; its slots given back; the descriptor no longer in execution; the replay window with it as its newest entry;
and nothing but rings, vectors, owner backlogs and output changed (R95, R96, R99). -/
def Obligations.FinalCompletionPostsOnce : Prop :=
  ∀ (rn n : Nat) (l : Live) (st d res aux : Nat) (s : State), (s.ring rn).cpl = n → n ≠ rn → s.dev.state ≠ .fault →
    (s.ring rn).live.find? (fun x => x.tag == l.tag) = some l →
    (s.ring rn).dups.filter (fun x => x.tag == l.tag) = [] →
    (s.ring n).state = .enabled → (s.ring n).waiting = [] →
    ∃ t p, finishOne rn l.tag st d res aux s = t ∧
      (t.ring n).posted = (s.ring n).posted ++
        [.cpl p { record rn l.tag st d res aux l.irq s with first := decide (l.opcode < 16) }] ∧
      (t.ring n).prod = (s.ring n).prod + 1 ∧ (t.ring n).reserved = (s.ring n).reserved - l.slots ∧
      (t.ring rn).live = (s.ring rn).live.filter (fun x => x.tag != l.tag) ∧
      (t.ring rn).window = pushWindow (s.ring rn).window
        { tag := l.tag, status := st, result := BitVec.ofNat 64 res, aux := BitVec.ofNat 64 aux } ∧
      t.apartFromCompletions = s.apartFromCompletions

/-- A descriptor that arrives advances the consumer index. With a tag newer than the high tag it is accepted, reserves its CPL
slots, becomes the high tag, and waits in ring order if steps 2 to 6 of R91 pass; with the tag of a completion in the
replay window it completes with DONE_REPLAY and the original's contents; with any other old tag that is not in execution it
completes with BAD_VALUE, detail 4 (R76, R91, R95, R98). -/
def Obligations.FetchedDescriptorIsCheckedByTag : Prop :=
  ∀ (n : RingNo) (b : Bytes) (k : Nat) (s : State), s.serves = true → b.length = 64 →
    k = (if canDefer (byteAt b 0) then 2 else 1) → fetches n k s = true → (s.ring n).cpl ≠ n.val →
    reissues (.fetch n) s = 0 →
    (fetchEntry n s).ring n = { s.ring n with cons := (s.ring n).cons + 1 } ∧
    (∀ u : State, (match (s.ring n).high with | none => true | some h => newer (BitVec.ofNat 32 (u32 b 4)) h) = true →
      u = (telling n (fun s => s.modRing n (fun r => { r with
            high := some (BitVec.ofNat 32 (u32 b 4)),
            live := r.live ++ [{ tag := BitVec.ofNat 32 (u32 b 4), irq := bit (byteAt b 1) 1, slots := k,
                                 opcode := byteAt b 0 }] })) (fetchEntry n s)).modRing (s.ring n).cpl
            (fun c => { c with reserved := c.reserved + k }) →
      descriptorCheck n b u = none →
      ∃ t, Machine.exec (.descriptorFetched n b) s = .next t ∧ (t.ring n).cons = (s.ring n).cons + 1 ∧
        (t.ring n).high = some (BitVec.ofNat 32 (u32 b 4)) ∧
        (t.ring n).fetched = (s.ring n).fetched ++
          [{ tag := BitVec.ofNat 32 (u32 b 4), bytes := b, done := 0, waited := 0, landed := false, seen := 0 }] ∧
        (t.ring (s.ring n).cpl).reserved = (s.ring (s.ring n).cpl).reserved + k ∧
        t.apartFromCompletions = s.apartFromCompletions) ∧
    (∀ (h : Word) (w : Final), (s.ring n).high = some h → newer (BitVec.ofNat 32 (u32 b 4)) h = false →
      (s.ring n).window.find? (fun w => w.tag == BitVec.ofNat 32 (u32 b 4)) = some w →
      Machine.exec (.descriptorFetched n b) s =
        .next (postFor n (BitVec.ofNat 32 (u32 b 4)) 0x01 w.status w.result.toNat w.aux.toNat (bit (byteAt b 1) 1)
          (fetchEntry n s))) ∧
    (∀ h : Word, (s.ring n).high = some h → newer (BitVec.ofNat 32 (u32 b 4)) h = false →
      (s.ring n).window.find? (fun w => w.tag == BitVec.ofNat 32 (u32 b 4)) = none →
      (s.ring n).live.any (fun l => l.tag == BitVec.ofNat 32 (u32 b 4)) = false →
      Machine.exec (.descriptorFetched n b) s =
        .next (postFor n (BitVec.ofNat 32 (u32 b 4)) 0x10 4 0 0 (bit (byteAt b 1) 1) (fetchEntry n s)))

/-- A NOP descriptor at the head of its ring completes with DONE, and nothing but rings, vectors, owner backlogs and output
changes. While the first descriptor of a ring has the FENCE bit and an earlier descriptor of the ring has not posted its final
completion, NOP changes nothing (R87 bit 0, R89). -/
def Obligations.NopCompletesAndFenceHolds : Prop :=
  (∀ (n : RingNo) (f : Fetched) (s : State), s.serves = true → headOf 0x00 n s = some f →
    ∃ t, Machine.exec (.nop n) s = .next t ∧ t = finish n f.tag 0x00 0 0 0 (popHead n s) ∧
      t.apartFromCompletions = s.apartFromCompletions) ∧
  (∀ (n : RingNo) (f : Fetched) (rest : List Fetched) (s : State), s.serves = true → (s.ring n).fetched = f :: rest →
    bit (byteAt f.bytes 1) 0 = true →
    (∃ l ls, (s.ring n).live = l :: ls ∧ l.tag ≠ f.tag) ∨ (∃ c ∈ unposted n s, c.status ≠ 0x08 ∧ newer f.tag c.tag = true) →
    Machine.exec (.nop n) s = .next s)

/-- A ring command that names a ring from 3 on (R83) which is not closing takes effect as Table 3-4 gives: RING_PAUSE makes an
Enabled ring Paused, RING_RESUME a Paused one Enabled, RING_CLEAR one in Error Paused with cause 0, and RING_ENABLE, with legal
fields, a Disabled one Enabled with the class, owner, size, pair and base of its body; each completes with DONE. RING_DISABLE
leaves a ring of another class than CPL, with nothing fetched, in execution or unposted, Disabled. Where the state of the
named ring is another one, the command completes with BAD_STATE and that state's code (R80, R81, R84). -/
def Obligations.RingCommandsMoveTheNamedRing : Prop :=
  (∀ (c : RingNo) (f : Fetched) (n : Nat) (s : State), s.serves = true → n = u16 f.bytes 16 → 3 ≤ n →
    (s.ring n).closing = none →
    (headOf 0x61 c s = some f → (s.ring n).state = .enabled →
      ∃ t, Machine.exec (.ringPause c) s = .next t ∧
        t = finish c f.tag 0x00 0 0 0 (telling n (fun s => s.modRing n (fun r => { r with state := .paused })) (popHead c s)) ∧
        (t.ring n).state = .paused ∧
        t.apartFromCompletions = s.apartFromCompletions) ∧
    (headOf 0x61 c s = some f → (s.ring n).state ≠ .enabled →
      Machine.exec (.ringPause c) s = .next (rejectHead c f (badState (s.ring n).state.code) s)) ∧
    (headOf 0x62 c s = some f → (s.ring n).state = .paused →
      ∃ t, Machine.exec (.ringResume c) s = .next t ∧
        t = finish c f.tag 0x00 0 0 0 (telling n (resumeRing n) (popHead c s)) ∧
        (t.ring n).state = .enabled ∧
        s.sameStores t) ∧
    (headOf 0x62 c s = some f → (s.ring n).state ≠ .paused →
      Machine.exec (.ringResume c) s = .next (rejectHead c f (badState (s.ring n).state.code) s)) ∧
    (headOf 0x64 c s = some f → (s.ring n).state = .error →
      ∃ t, Machine.exec (.ringClear c) s = .next t ∧
        t = finish c f.tag 0x00 0 0 0 (telling n (fun s => s.modRing n (fun r => { r with state := .paused, cause := 0 })) (popHead c s)) ∧
        (t.ring n).state = .paused ∧
        (t.ring n).cause = 0 ∧ (t.ring n).cls = (s.ring n).cls ∧ (t.ring n).fetched = (s.ring n).fetched ∧
        t.apartFromCompletions = s.apartFromCompletions) ∧
    (headOf 0x64 c s = some f → (s.ring n).state ≠ .error →
      Machine.exec (.ringClear c) s = .next (rejectHead c f (badState (s.ring n).state.code) s)) ∧
    (headOf 0x60 c s = some f → enableReject f.bytes s = none →
      ∃ t u, Machine.exec (.ringEnable c) s = .next t ∧ u = tellBlock n ((popHead c s).setRing n (enabledRing f.bytes)) ∧
        t = finish c f.tag 0x00 0 0 0 (if bits (byteAt f.bytes 18) 0 4 = 6 then adoptBacklog n u else u) ∧
        (t.ring n).state = .enabled ∧
        (t.ring n).cls = bits (byteAt f.bytes 18) 0 4 ∧ (t.ring n).owner = byteAt f.bytes 19 ∧
        (t.ring n).k = byteAt f.bytes 20 ∧ (t.ring n).cpl = u16 f.bytes 22 ∧
        (t.ring n).base = BitVec.ofNat 64 (u64 f.bytes 24) ∧ (t.ring n).cons = 0 ∧ s.sameStores t) ∧
    (headOf 0x60 c s = some f → ringEnableHdm f.bytes s = none → (s.ring n).state ≠ .disabled →
      Machine.exec (.ringEnable c) s = .next (rejectHead c f (badState (s.ring n).state.code) s)) ∧
    (headOf 0x63 c s = some f → n ≠ c.val → (s.ring n).state ≠ .disabled → (s.ring n).cls ≠ 7 → (s.ring n).live = [] →
      (s.ring n).fetched = [] → unposted n s = [] →
      ∃ t, Machine.exec (.ringDisable c) s = .next t ∧ (t.ring n).state = .disabled ∧
        t.apartFromCompletions = s.apartFromCompletions) ∧
    (headOf 0x63 c s = some f → (s.ring n).state = .disabled →
      Machine.exec (.ringDisable c) s = .next (rejectHead c f (badState 0) s)))

/-- A TALLY at the head of its ring, of a live partition or the device domain, at its last record: SET writes the tally's value
and open bit, a local ADD adds to its value modulo 2^32, and then TALLY completes with DONE and the value after the change; a
NOP record changes no tally and TALLY completes with DONE; no other tally changes. At a WAIT that is not met, in any record,
TALLY stays; after its three records it completes with DONE and the value last seen. A remote ADD sends its REQ once, where there
is a route and room, and without a route TALLY completes with RETRY_EXHAUSTED. `tallyWakes` runs what waited for a tally
(R103 to R106, R316; that the value seen is the one after a SET or ADD is assumption log 102). -/
def Obligations.TallyRecordsSetAddAndWait : Prop :=
  ∀ (n : RingNo) (f : Fetched) (s : State), s.serves = true → headOf 0x01 n s = some f →
    partLive (s.part (s.ring n).owner) = true →
    (f.done = 2 → byteAt (tallyRec f) 2 = 1 →
      ∃ u, Machine.exec (.tally n) s = .next (tallyWakes u) ∧
        u = tallyEnd n { f with done := 3, waited := 0, seen := BitVec.ofNat 32 (u32 (tallyRec f) 8) } 0x00 0
          (u32 (tallyRec f) 8) (tallyAdvance n (some (BitVec.ofNat 32 (u32 (tallyRec f) 8))) (tallyLocal (tallyRec f) s)) ∧
        u.tally (u16 (tallyRec f) 0) =
          { value := BitVec.ofNat 32 (u32 (tallyRec f) 8), open_ := bit (byteAt (tallyRec f) 3) 1 } ∧
        (∀ k, k ≠ u16 (tallyRec f) 0 → u.tally k = s.tally k) ∧ s.sameStores u) ∧
    (f.done = 2 → byteAt (tallyRec f) 2 = 2 → bit (byteAt (tallyRec f) 3) 0 = false →
      ∃ (u : State) (v : Word), Machine.exec (.tally n) s = .next (tallyWakes u) ∧
        v = (s.tally (u16 (tallyRec f) 0)).value + BitVec.ofNat 32 (u32 (tallyRec f) 8) ∧
        u = tallyEnd n { f with done := 3, waited := 0, seen := v } 0x00 0 v.toNat
          (tallyAdvance n (some v) (tallyLocal (tallyRec f) s)) ∧
        (u.tally (u16 (tallyRec f) 0)).value = v ∧
        (u.tally (u16 (tallyRec f) 0)).open_ = (s.tally (u16 (tallyRec f) 0)).open_ ∧
        (∀ k, k ≠ u16 (tallyRec f) 0 → u.tally k = s.tally k) ∧ s.sameStores u) ∧
    (f.done = 2 → byteAt (tallyRec f) 2 = 0 →
      ∃ u, Machine.exec (.tally n) s = .next (tallyWakes u) ∧
        u = tallyEnd n { f with done := 3, waited := 0 } 0x00 0 f.seen.toNat (tallyAdvance n none s) ∧
        u.tallies = s.tallies ∧ s.sameStores u) ∧
    (f.done ≤ 2 → byteAt (tallyRec f) 2 = 3 →
      2 ^ 31 ≤ ((s.tally (u16 (tallyRec f) 0)).value - BitVec.ofNat 32 (u32 (tallyRec f) 8)).toNat →
      Machine.exec (.tally n) s = .next (tallyWakes s)) ∧
    (∀ a, f.done ≤ 2 → tallyRemote (tallyRec f) = true → a = BitVec.ofNat 16 (u16 (tallyRec f) 4) →
      (s.fab.requests.any (fun q => q.waiter == tallyWaiter n f) = true → Machine.exec (.tally n) s = .next (tallyWakes s)) ∧
      (s.fab.requests.any (fun q => q.waiter == tallyWaiter n f) = false → routed a s = true → fabricRoom s = true →
        Machine.exec (.tally n) s =
          .next (tallyWakes (sendReq a 0 (tallyRec f) (tallyWaiter n f) (s.ring n).owner s))) ∧
      (s.fab.requests.any (fun q => q.waiter == tallyWaiter n f) = false → routed a s = false →
        Machine.exec (.tally n) s = .next (tallyWakes (tallyEnd n f 0x31 0 f.seen.toNat s)))) ∧
    (f.done = 3 → Machine.exec (.tally n) s = .next (tallyWakes (finish n f.tag 0x00 0 f.seen.toNat 0 (popHead n s))))

/-- A WAIT that is not met and whose limit has expired ends its TALLY with ABORTED, the byte offset of the record as detail and
the value of the tally as result, and one at which a core stands ends its program: its outcome is ABORTED and no record of it
runs any more (R105). A host access that fails with fewer than three reissues is reissued and counted in FLT_RETRY; one that
times out is also counted in HST_TIMEOUT; at the next failure a fetch moves its ring to Error with FETCH_FAULT and a record
write with WRITE_FAULT (R84, R400, R463). -/
def Obligations.ExpiredWaitsAndFailedAccessesEnd : Prop :=
  (∀ (n : RingNo) (f : Fetched) (s : State), s.serves = true → headOf 0x01 n s = some f → f.done < 3 →
    tallyRecordWaits (tallyRec f) s = true → waitExpired (tallyRec f) f.waited f.landed = true →
    Machine.exec (.waitLimitExpiry (.ring n)) s =
      .next (finish n f.tag 0x3F (16 + 16 * f.done) (s.tally (u16 (tallyRec f) 0)).value.toNat 0 (popHead n s))) ∧
  (∀ (c : CoreNo) (g : Program) (i : Nat) (r : Bytes) (s : State), s.serves = true →
    s.nextOn 0x60 [] c = some (g, i, r) → tallyRecordWaits (sub r 16 16) s = true →
    waitExpired (sub r 16 16) (tget 0 g.waited c) (flightLanded g.flight (s.part g.part)) = true →
    s.program? g.id = some g → g.outcome = none →
    ∃ (t : State) (h : Program), Machine.exec (.waitLimitExpiry (.core c)) s = .next t ∧ t.program? g.id = some h ∧
      h.outcome = some (0x3F, 16) ∧ (∀ v ∈ h.records, v.issued = true) ∧ { t with programs := s.programs } = s) ∧
  (∀ (a : HostAccess) (s : State), s.serves = true → accessOpen a s = true → reissues a s < 3 →
    Machine.exec (.hostAccessAborted a) s = .next ((setReissues a (reissues a s + 1) s).bump 0x0D0018)) ∧
  (∀ (n : RingNo) (s : State), s.serves = true → accessOpen (.fetch n) s = true → reissues (.fetch n) s = 3 →
    ∃ t, Machine.exec (.hostAccessAborted (.fetch n)) s = .next t ∧ (t.ring n).state = .error ∧ (t.ring n).cause = 2 ∧
      s.sameStores t) ∧
  (∀ (n : RingNo) (s : State), s.serves = true → accessOpen (.write n) s = true → reissues (.write n) s = 3 →
    ∃ t, Machine.exec (.hostAccessAborted (.write n)) s = .next t ∧ (t.ring n).state = .error ∧ (t.ring n).cause = 3 ∧
      s.sameStores t) ∧
  (∀ (a : HostAccess) (s : State), s.serves = true → accessOpen a s = true → reissues a s < 3 →
    ∃ t, Machine.exec (.hostAccessTimeout a) s = .next t ∧ t.counter 0x0B0018 = s.counter 0x0B0018 + 1 ∧
      t.counter 0x0D0018 = s.counter 0x0D0018 + 1 ∧ reissues a t = reissues a s + 1 ∧ s.sameStores t) ∧
  (∀ (n : RingNo) (s : State), s.serves = true → accessOpen (.fetch n) s = true → reissues (.fetch n) s = 3 →
    ∃ t, Machine.exec (.hostAccessTimeout (.fetch n)) s = .next t ∧ (t.ring n).state = .error ∧ (t.ring n).cause = 2 ∧
      t.counter 0x0B0018 = s.counter 0x0B0018 + 1 ∧ s.sameStores t)

/-! ## Settings (R33 to R37, R58, R59) -/

/-- What `pendSettings`, which every setting command uses, does with the head descriptor of a ring: it is held pending with its
settings where nothing stands in their way; one whose target has passed completes with BAD_STATE; a write of the same setting
for the same landing replaces an earlier one of its ring, whose descriptor completes with ABORTED when it holds no other
setting, and where the earlier one is of another ring the new one completes with BAD_STATE, whose detail is free (R58, R59;
assumption log 8). -/
def Obligations.SettingsAreHeldPending : Prop :=
  ∀ (rn : Nat) (f : Fetched) (s : State) (target : Word), target = BitVec.ofNat 32 (u32 f.bytes 8) →
    (∀ kinds, settingsClear rn f kinds s = true → pendSettings rn f kinds s = pended rn f kinds s) ∧
    (∀ kinds r, targetPassed (s.ring rn).owner target s = some r →
      r.status = 0x11 ∧ pendSettings rn f kinds s = rejectHead rn f r s) ∧
    (∀ kinds, targetPassed (s.ring rn).owner target s = none →
      s.settings.any (fun x => x.ring != rn && kinds.any (fun k => sameLanding rn k.1 target k.2 s x)) = true →
      pendSettings rn f kinds s = rejectHead rn f (badState (s.fresh.1.toNat % 256)) s.fresh.2) ∧
    (∀ (k : Nat × SettingKind) (x : Setting), targetPassed (s.ring rn).owner target s = none →
      s.settings.filter (fun y => sameLanding rn k.1 target k.2 s y) = [x] → x.ring = rn →
      (s.settings.filter (fun y => y != x)).any (fun y => y.ring == rn && y.tag == x.tag) = false →
      ∃ u, u = finish rn x.tag 0x3F 0 0 0 { popHead rn s with settings := s.settings.filter (fun y => y != x) } ∧
        pendSettings rn f [k] s = { u with settings := u.settings ++
          [{ ring := rn, tag := f.tag, scope := k.1, target := target, kind := k.2, deferred := false }] })

/-- STW_SET, PWR_SET, FW_ACTIVATE, TURN_SET and PART_PREEMPT are held pending with the settings that their bodies name, where
nothing stands in the way of these (`settingsClear`); FW_ACTIVATE of a Valid slot also makes it Pending, and an STW_SET that
sets nothing completes with DONE. STW_SET in Forming, TURN_SET of a partition that is Free, Saved or Faulted, and PART_PREEMPT
of one that is not Running or is between states complete with BAD_STATE and the state code (R51, R63, R372, R378, R415,
R444). -/
def Obligations.DeviceSettingCommandsPend : Prop :=
  ∀ (n : RingNo) (f : Fetched) (s : State), s.serves = true →
    (headOf 0x81 n s = some f → s.stw.state ≠ .forming → stwSetKinds f.bytes ≠ [] →
      settingsClear n f (stwSetKinds f.bytes) s = true →
      Machine.exec (.stwSet n) s = .next (pended n f (stwSetKinds f.bytes) s)) ∧
    (headOf 0x81 n s = some f → s.stw.state ≠ .forming → stwSetKinds f.bytes = [] →
      Machine.exec (.stwSet n) s = .next (finish n f.tag 0x00 0 0 0 (popHead n s))) ∧
    (headOf 0x81 n s = some f → s.stw.state = .forming →
      Machine.exec (.stwSet n) s = .next (rejectHead n f (badState 1) s)) ∧
    (headOf 0x82 n s = some f → settingsClear n f (pwrSetKinds f.bytes) s = true →
      Machine.exec (.pwrSet n) s = .next (pended n f (pwrSetKinds f.bytes) s)) ∧
    (∀ k, k = byteAt f.bytes 16 → headOf 0x83 n s = some f → (slotOf k s).state = .valid → s.fw.tellerDown = false →
      (bit (byteAt f.bytes 17) 0 = false → handoverFits k s = true) →
      settingsClear n f [(8, .fwActivate k (bit (byteAt f.bytes 17) 0))] s = true →
      ∃ t, Machine.exec (.fwActivate n) s = .next t ∧ (slotOf k t).state = .pending ∧
        t.settings = (pended n f [(8, .fwActivate k (bit (byteAt f.bytes 17) 0))] s).settings ∧ s.sameStores t) ∧
    (∀ p q, p = byteAt f.bytes 16 → q = s.part p → headOf 0x97 n s = some f →
      (q.scrub = false → q.state = .configured ∨ q.state = .running ∨ q.state = .draining →
        settingsClear n f [(p, .turnSet p (byteAt f.bytes 17) (turnShares f.bytes) (byteAt f.bytes 22))] s = true →
        Machine.exec (.turnSet n) s =
          .next (pended n f [(p, .turnSet p (byteAt f.bytes 17) (turnShares f.bytes) (byteAt f.bytes 22))] s)) ∧
      (q.state = .free ∨ q.state = .saved ∨ q.state = .faulted →
        Machine.exec (.turnSet n) s = .next (rejectHead n f (badState q.state.code) s))) ∧
    (∀ p q, p = byteAt f.bytes 16 → q = s.part p → headOf 0x93 n s = some f →
      (inSpan q = false → q.state = .running → settingsClear n f [(p, .preempt p)] s = true →
        Machine.exec (.partPreempt n) s = .next (pended n f [(p, .preempt p)] s)) ∧
      (inSpan q = true ∨ q.state ≠ .running →
        Machine.exec (.partPreempt n) s = .next (rejectHead n f (badState q.state.code) s)))

/-- MINT_SET, FREEZE_SET of a layer, GEN_SET, STASH_SET, WATCH_SET and EVICT of a layer are held pending with the settings that
their bodies name, where nothing stands in the way of these (`settingsClear`) and the mask bytes of a FREEZE_SET lie in the
share and are not poisoned; FREEZE_SET and EVICT of an Undefined layer complete with BAD_STATE (R226, R236, R246, R263, R272,
R294). A legal FLIGHT_PLAN is held pending with its flight number, length, set, members and replay bit; one that is not legal,
and so one in a state other than Running and Saved, one of a number already pending, and one of a waiting partition that has
no flight to replay for another number than the next, completes with BAD_STATE and the partition's state code (R33, R34). -/
def Obligations.PartitionSettingCommandsPend : Prop :=
  (∀ (n : RingNo) (f : Fetched) (p : Nat) (b : Bytes) (s : State), s.serves = true → p = (s.ring n).owner → b = f.bytes →
     (headOf 0x84 n s = some f → settingsClear n f [(p, .mintSet (byteAt b 16) (hyperOf b))] s = true →
       Machine.exec (.mintSet n) s = .next (pended n f [(p, .mintSet (byteAt b 16) (hyperOf b))] s)) ∧
     (∀ l mask, headOf 0x85 n s = some f → layerOf (s.part p) (u16 b 16) = some l →
       (bit (byteAt b 18) 1 = false → mask = []) →
       (bit (byteAt b 18) 1 = true → hbmAllowed (s.part p) (u64 b 24) ((l.n + 7) / 8) = true ∧
         hbmPoisoned (u64 b 24) ((l.n + 7) / 8) s = false ∧
         mask = setBits (leNat (hbmRead (u64 b 24) ((l.n + 7) / 8) s)) l.n) →
       settingsClear n f [(p, .freezeSet (u16 b 16) (bit (byteAt b 18) 0) (bit (byteAt b 18) 1) (bit (byteAt b 18) 2) mask)] s = true →
       Machine.exec (.freezeSet n) s = .next (pended n f
         [(p, .freezeSet (u16 b 16) (bit (byteAt b 18) 0) (bit (byteAt b 18) 1) (bit (byteAt b 18) 2) mask)] s)) ∧
     (headOf 0x85 n s = some f → layerOf (s.part p) (u16 b 16) = none →
       Machine.exec (.freezeSet n) s = .next (rejectHead n f (badState 0) s)) ∧
     (headOf 0x86 n s = some f → settingsClear n f [(p, .genSet (byteAt b 16) (genOf b) (bit (byteAt b 17) 1))] s = true →
       Machine.exec (.genSet n) s = .next (pended n f [(p, .genSet (byteAt b 16) (genOf b) (bit (byteAt b 17) 1))] s)) ∧
     (headOf 0x88 n s = some f → settingsClear n f [(p, .stashSet (u64 b 16) (u64 b 24) (byteAt b 32))] s = true →
       Machine.exec (.stashSet n) s = .next (pended n f [(p, .stashSet (u64 b 16) (u64 b 24) (byteAt b 32))] s)) ∧
     (headOf 0x89 n s = some f →
       settingsClear n f [(p, .watchSet (byteAt b 16) (bit (byteAt b 17) 0) (BitVec.ofNat 64 (u64 b 24)))] s = true →
       Machine.exec (.watchSet n) s = .next (pended n f
         [(p, .watchSet (byteAt b 16) (bit (byteAt b 17) 0) (BitVec.ofNat 64 (u64 b 24)))] s)) ∧
     (headOf 0x55 n s = some f → (layerOf (s.part p) (u16 b 16)).isSome = true →
       settingsClear n f [(p, .evict (u16 b 16))] s = true →
       Machine.exec (.evict n) s = .next (pended n f [(p, .evict (u16 b 16))] s)) ∧
     (headOf 0x55 n s = some f → layerOf (s.part p) (u16 b 16) = none →
       Machine.exec (.evict n) s = .next (rejectHead n f (badState 0) s))) ∧
  (∀ (n : RingNo) (f : Fetched) (q : Partition) (s : State), s.serves = true → headOf 0x80 n s = some f →
     q = s.part (s.ring n).owner →
     (planLegal q (BitVec.ofNat 32 (u32 f.bytes 16)) (bit (byteAt f.bytes 22) 0) = true →
       Machine.exec (.flightPlan n) s = .next ((popHead n s).setPart (s.ring n).owner { q with plans := q.plans ++
         [{ ring := n, tag := f.tag, flight := BitVec.ofNat 32 (u32 f.bytes 16), length := u16 f.bytes 20,
            set := BitVec.ofNat 16 (u16 f.bytes 24), members := BitVec.ofNat 16 (u16 f.bytes 26),
            replay := bit (byteAt f.bytes 22) 0 }] })) ∧
     (planLegal q (BitVec.ofNat 32 (u32 f.bytes 16)) (bit (byteAt f.bytes 22) 0) = false →
       Machine.exec (.flightPlan n) s = .next (rejectHead n f (badState q.state.code) s)) ∧
     ((q.state ≠ .running ∧ q.state ≠ .saved) ∨
         (∃ g ∈ q.plans, g.flight = BitVec.ofNat 32 (u32 f.bytes 16)) ∨
         (q.flight = none ∧ q.replayDue = false ∧ BitVec.ofNat 32 (u32 f.bytes 16) ≠ flightAfter q.lastFlight) →
       Machine.exec (.flightPlan n) s = .next (rejectHead n f (badState q.state.code) s)))

/-- SEQ_JOIN of a Free slot, SEQ_LEAVE of a Running or Parked one, SEQ_PARK of a Running one, SEQ_UNPARK of a Parked one and
SEQ_PRIO of one that is neither Free nor Leaving are held pending, where nothing stands in their way, and move their slot to
Joining, Leaving, Parking and Unparking, SEQ_PRIO leaving its state; in any other state of the slot each completes with
BAD_STATE and the slot's state code (R299, R303, R304, Table 10-10). The end of a slot's copies clears them, and with no page
held also what the slot parked; the end of a page's zero-fill frees the page, unless a park copy has yet to read it (R307). -/
def Obligations.SequenceSettingsMoveTheirSlot : Prop :=
  (∀ (n : RingNo) (f : Fetched) (p k : Nat) (b : Bytes) (x : SeqSlot) (s : State), s.serves = true →
     p = (s.ring n).owner → b = f.bytes → k = u16 b 16 → x = seqOf (s.part p) k →
     (headOf 0x58 n s = some f → x.state = .free → ∀ kind, kind = .seqJoin k (byteAt b 18) (u16 b 20) (u32 b 24) →
       settingsClear n f [(p, kind)] s = true →
       Machine.exec (.seqJoin n) s = .next (setSeq p k (joiningSlot b) (pended n f [(p, kind)] s))) ∧
     (headOf 0x59 n s = some f → x.state = .running ∨ x.state = .parked → settingsClear n f [(p, .seqLeave k)] s = true →
       Machine.exec (.seqLeave n) s = .next (setSeq p k { x with state := .leaving } (pended n f [(p, .seqLeave k)] s))) ∧
     (headOf 0x5A n s = some f → x.state = .running → settingsClear n f [(p, .seqPark k)] s = true →
       Machine.exec (.seqPark n) s = .next (setSeq p k { x with state := .parking } (pended n f [(p, .seqPark k)] s))) ∧
     (headOf 0x5B n s = some f → x.state = .parked → settingsClear n f [(p, .seqUnpark k)] s = true →
       Machine.exec (.seqUnpark n) s =
         .next (setSeq p k { x with state := .unparking } (pended n f [(p, .seqUnpark k)] s))) ∧
     (headOf 0x5C n s = some f → x.state ≠ .free → x.state ≠ .leaving →
       settingsClear n f [(p, .seqPrio k (byteAt b 18))] s = true →
       Machine.exec (.seqPrio n) s = .next (setSeq p k x (pended n f [(p, .seqPrio k (byteAt b 18))] s))) ∧
     (headOf 0x58 n s = some f → x.state ≠ .free →
       Machine.exec (.seqJoin n) s = .next (rejectHead n f (badState x.state.code) s)) ∧
     (headOf 0x59 n s = some f → x.state ≠ .running → x.state ≠ .parked →
       Machine.exec (.seqLeave n) s = .next (rejectHead n f (badState x.state.code) s)) ∧
     (headOf 0x5C n s = some f → x.state = .free ∨ x.state = .leaving →
       Machine.exec (.seqPrio n) s = .next (rejectHead n f (badState x.state.code) s)) ∧
     (headOf 0x5A n s = some f → x.state ≠ .running →
       Machine.exec (.seqPark n) s = .next (rejectHead n f (badState x.state.code) s)) ∧
     (headOf 0x5B n s = some f → x.state ≠ .parked →
       Machine.exec (.seqUnpark n) s = .next (rejectHead n f (badState x.state.code) s))) ∧
  (∀ (n : SeqNo) (p : Nat) (x : SeqSlot) (s : State), s.serves = true → p = slotHolder n s → p < 8 →
    x = seqOf (s.part p) n → x.copying ≠ [] →
    (heldPages x = [] → Machine.exec (.parkCopyEnd n) s = .next (setSeq p n { x with copying := [] } s)) ∧
    (heldPages x ≠ [] → Machine.exec (.parkCopyEnd n) s =
      .next (setSeq p n { x with copying := [], extents := 0, parked := [], parkedPoison := [] } s))) ∧
  (∀ (p : PartNo) (pg : Nat) (q : Partition) (s : State), s.serves = true → q = s.part p →
    (q.seqs.any (fun e => e.2.copying.contains pg && !(heldPages e.2).contains pg) = false →
      Machine.exec (.zeroFillEnd p pg) s = .next (s.setPart p { q with zeroing := q.zeroing.filter (· != pg) })) ∧
    (q.seqs.any (fun e => e.2.copying.contains pg && !(heldPages e.2).contains pg) = true →
      Machine.exec (.zeroFillEnd p pg) s = .next s))

/-! ## The stairwell (R50 to R56, R323 to R325) -/

/-- A legal STW_FORM of an Alone device without a Running or Draining partition begins a formation with its members, leader,
period and bound; FORMATION_COMPLETE makes the stairwell Aligned with them, with the tread count of the leader, and a formation
that times out leaves it Alone and completes with ABORTED and the number of members that failed (R54). STW_DISSOLVE in Forming
or Halted leaves the stairwell Alone and sends no frame (R522), and STW_HALT in Alone or Aligned halts it with cause 6 (R55);
in the other states of Table 2-5 the three commands complete with BAD_STATE and the state code (R53). -/
def Obligations.StairwellFormsHaltsAndDissolves : Prop :=
  (∀ (n : RingNo) (members : List Half) (f : Fetched) (k : Nat) (leader : Half) (s : State), s.serves = true →
    headOf 0x70 n s = some f → members.length = 64 → k = byteAt f.bytes 24 → leader = BitVec.ofNat 16 (u16 f.bytes 28) →
    s.stw.state = .alone → landingParts s = [] →
    membersLegal (members.take k) s = true → leader = 0xFFFF ∨ leader ∈ members.take k →
    ∃ t, Machine.exec (.stwForm n members) s = .next t ∧ t.stw.state = .forming ∧
      t.stw.forming = some { ring := n, tag := f.tag, members := members.take k,
                             leader := if leader = 0xFFFF then lowest (members.take k) else leader,
                             period := u16 f.bytes 26, bound := byteAt f.bytes 25 } ∧
      { t with stw := s.stw } = popHead n s) ∧
  (∀ (n : RingNo) (members : List Half) (f : Fetched) (s : State), s.serves = true → headOf 0x70 n s = some f →
    members.length = 64 → s.stw.state ≠ .alone →
    Machine.exec (.stwForm n members) s = .next (rejectHead n f (badState s.stw.state.code) s)) ∧
  (∀ (g : Forming) (s : State), s.serves = true → s.stw.forming = some g →
    (∃ t, Machine.exec .formationComplete s = .next t ∧ t.stw.state = .aligned ∧ t.stw.members = g.members ∧
      t.stw.leader = g.leader ∧ t.stw.bound = g.bound ∧ t.stw.run = 0 ∧ t.stw.haltCause = 0 ∧ t.stw.forming = none ∧
      t.time.period = g.period ∧ t.time.tread = adoptedTread g s ∧
      (g.leader = fabAddr s → t.time.tread = s.time.tread) ∧
      (∀ m, g.leader ≠ fabAddr s → s.stw.others.find? (fun x => x.addr == g.leader) = some m →
        t.time.tread = m.riser - 1 + (s.time.tread - m.heardAt)) ∧ s.sameStores t ∧
      t.parts = s.parts ∧ t.pending = s.pending) ∧
    (∀ failed : Fin 65, ∃ u, u.stw = { s.stw with state := .alone, forming := none, others := [] } ∧
      { u with stw := s.stw } = s ∧
      Machine.exec (.formationTimeout failed) s = .next (finish g.ring g.tag 0x3F failed 0 0 u))) ∧
  (∀ (n : RingNo) (f : Fetched) (s : State), s.serves = true → headOf 0x71 n s = some f →
    s.stw.state = .halted ∨ (s.stw.state = .forming ∧ s.stw.forming ≠ none) →
    ∃ t, Machine.exec (.stwDissolve n) s = .next t ∧ t.stw.state = .alone ∧
      (s.stw.state = .halted → t.stw.members = [] ∧ t.stw.resumeAt = none) ∧
      t.fab = s.fab ∧ (∀ l h f, .frame l h f ∈ t.out → .frame l h f ∈ s.out) ∧
      t.time = s.time ∧ s.sameStores t ∧ t.parts = s.parts) ∧
  (∀ (n : RingNo) (f : Fetched) (s : State), s.serves = true → headOf 0x71 n s = some f →
    s.stw.state = .alone ∨ s.stw.state = .aligned →
    Machine.exec (.stwDissolve n) s = .next (rejectHead n f (badState s.stw.state.code) s)) ∧
  (∀ (n : RingNo) (f : Fetched) (s : State), s.serves = true → headOf 0x72 n s = some f →
    s.stw.state = .alone ∨ s.stw.state = .aligned →
    ∃ t, Machine.exec (.stwHalt n) s = .next t ∧ t.stw.state = .halted ∧ t.stw.haltCause = 6 ∧
      t.stw.members = s.stw.members ∧ t.time = s.time ∧ s.sameStores t ∧ t.parts = s.parts) ∧
  (∀ (n : RingNo) (f : Fetched) (s : State), s.serves = true → headOf 0x72 n s = some f →
    s.stw.state = .forming ∨ s.stw.state = .halted →
    Machine.exec (.stwHalt n) s = .next (rejectHead n f (badState s.stw.state.code) s))

/-- STW_RESUME at the leader of a Halted stairwell whose members are all aligned names the resume riser, the first one at least
8 treads from now, tells the members and completes with DONE and that riser; with a member that is not aligned it completes
with BAD_STATE, and once a riser is named it keeps that one. At a follower it is sent to the leader as a REQ, or ends with
RETRY_EXHAUSTED without a route; where the stairwell is not Halted it completes with BAD_STATE. A follower's request asks the
same of the leader, and the leader's RESUME beacon names the riser at a follower (R56, R324). -/
def Obligations.ResumeNamesItsRiser : Prop :=
  (∀ s : State, resumeRiser s = s.time.tread + (if s.time.ref = s.time.riserAt then 8 else 9)) ∧
  (∀ (n : RingNo) (f : Fetched) (s u : State), s.serves = true → headOf 0x73 n s = some f → s.stw.state = .halted →
    u = { popHead n s with stw := { s.stw with resumeAt := some (resumeRiser s) } } →
    (isLeader s = true → s.stw.resumeAt = none → allAligned s = true →
      ∃ t, Machine.exec (.stwResume n) s = .next t ∧
        t = finish n f.tag 0x00 0 (resumeRiser s).toNat 0 (sendBeacon (newBeacon 6 0 (resumeRiser s).toNat [] u) u) ∧
        t.stw = u.stw ∧ s.sameStores t ∧ t.parts = s.parts ∧ t.time = s.time) ∧
    (isLeader s = true → s.stw.resumeAt = none → allAligned s = false →
      Machine.exec (.stwResume n) s = .next (finish n f.tag 0x11 3 0 0 (popHead n s))) ∧
    (∀ r, s.stw.resumeAt = some r →
      Machine.exec (.stwResume n) s = .next (finish n f.tag 0x00 0 r.toNat 0 (popHead n s))) ∧
    (isLeader s = false → s.stw.resumeAt = none →
      (routed s.stw.leader s = true →
        Machine.exec (.stwResume n) s =
          .next (sendReq s.stw.leader 6 [] (.resume n f.tag) deviceOwner (popHead n s))) ∧
      (routed s.stw.leader s = false →
        Machine.exec (.stwResume n) s = .next (finish n f.tag 0x31 0 0 0 (popHead n s))))) ∧
  (∀ (n : RingNo) (f : Fetched) (s : State), s.serves = true → headOf 0x73 n s = some f → s.stw.state ≠ .halted →
    Machine.exec (.stwResume n) s = .next (rejectHead n f (badState s.stw.state.code) s)) ∧
  (∀ (l : LinkNo) (f : Frame) (s : State), s.serves = true → f.is 0x05 1 = true → s.takesRequest l f = true →
    s.stw.state = .halted → isLeader s = true → s.stw.resumeAt = none → allAligned s = true →
    ∃ t, Machine.exec (.stwResumeReq l f) s = .next t ∧
      t.apartFromSending = ({ s with stw := { s.stw with resumeAt := some (resumeRiser s) } }).apartFromSending) ∧
  (∀ (l : LinkNo) (f : Frame) (s : State), s.serves = true → f.isBeacon 6 = true → s.takesBeacon 6 l f = true →
    s.stw.state = .halted → f.src = s.stw.leader →
    ∃ t, Machine.exec (.resumeBeaconReceived l f) s = .next t ∧
      t.stw.resumeAt = some (BitVec.ofNat 48 (beaconOf f.payload).riser) ∧ t.stw.state = .halted ∧
      t.parts = s.parts ∧ s.sameStores t)

/-- RISER_BEACON_SEND, 4 µs before the coming riser, sends this device's RISER beacon to every other member, each copy on two
links where two are up. A member's RISER beacon is noted, with its riser, offset, state and flight sets, and a flight set that
it reports as poisoned is poisoned here. A follower measures its offset by the leader's: within 40 ns it stays Aligned, takes
the slip run and slews by the offset; the second in a row beyond 40 ns halts the stairwell with cause 4; the first while it
forms steps its counter to the leader's count (R51, R52, R62, R323, R325). -/
def Obligations.RiserBeaconsAlignTheMembers : Prop :=
  (∀ s v u : State, s.serves = true →
    v = { s with time := { s.time with ref := max s.time.ref (s.time.riserAt + 1400 * (s.time.period - 4)) } } →
    u = { v with stw := { s.stw with sent := some (BitVec.ofNat 48 (comingRiser s), ownEntries v) } } →
    ∃ t, Machine.exec .riserBeaconSend s = .next t ∧
      t = ((beaconMembers s).filter (fun a => a != fabAddr s)).foldl (sendBeaconTo (riserBeacon v)) u ∧
      (riserBeacon v).kind = 1 ∧ (riserBeacon v).riser = comingRiser s ∧ (riserBeacon v).sets = ownEntries v ∧
      t.apartFromSending = u.apartFromSending) ∧
  (∀ (b : Beacon) (a : Half) (l m : Nat) (rest : List Nat) (f : Frame) (s : State), s.fab.enable = true →
    linksTo a s = l :: m :: rest → (s.link l).paused = [] → (s.link m).paused = [] → (s.port (l / 4)).macsec = false →
    (s.port (m / 4)).macsec = false →
    f = { newFrame 0x03 a 0 s with operation := BitVec.ofNat 32 b.kind, payload := beaconBytes b } →
    (sendBeaconTo b s a).out = s.out ++ [.frame l (etherOf l f s) f, .frame m (etherOf m f s) f]) ∧
  (∀ (l : LinkNo) (f : Frame) (count : Nat) (b : Beacon) (d : Int) (s : State), s.serves = true → b = beaconOf f.payload →
    f.isBeacon 1 = true → s.takesBeacon 1 l f = true → d = rawOffset b (countAt count s) s →
    (f.src ≠ beaconLeader s → (∀ e ∈ b.sets, e.poison = false) →
      ∃ t, Machine.exec (.riserBeaconReceived l f count) s = .next t ∧
        t.stw.others = s.stw.others.filter (fun x => x.addr != f.src) ++
          [{ addr := f.src, heardAt := s.time.tread, riser := BitVec.ofNat 48 b.riser, offset := b.offset,
             state := b.state, sets := b.sets }] ∧
        t.stw.state = s.stw.state ∧ t.time = { s.time with ref := max s.time.ref count } ∧ t.parts = s.parts) ∧
    (∀ (p : Nat) (e : SetEntry), b.sets = [e] → e.poison = true →
      ∃ t, Machine.exec (.riserBeaconReceived l f count) s = .next t ∧
        t.part p = (if flightSet (s.part p) = some e.set ∧ (s.part p).poison = none
          then { s.part p with poison := some (3, max b.riser (nextOpenRiser s)) } else s.part p)) ∧
    (f.src = beaconLeader s → f.src ≠ fabAddr s → s.stw.state = .aligned → (5 * d).natAbs ≤ 4480 →
      ∃ t, Machine.exec (.riserBeaconReceived l f count) s = .next t ∧ t.stw.state = .aligned ∧ t.stw.badOffsets = 0 ∧
        t.stw.offset = offsetNs d ∧ t.stw.slew = slewFor d ∧ (b.riser = comingRiser s → t.stw.run = b.run)) ∧
    (f.src = beaconLeader s → f.src ≠ fabAddr s → s.stw.state = .aligned → 4480 < (5 * d).natAbs →
      1 ≤ s.stw.badOffsets →
      ∃ t, Machine.exec (.riserBeaconReceived l f count) s = .next t ∧ t.stw.state = .halted ∧ t.stw.haltCause = 4) ∧
    (f.src = beaconLeader s → f.src ≠ fabAddr s → s.stw.state = .forming → s.stw.stepped = false →
      ∃ t, Machine.exec (.riserBeaconReceived l f count) s = .next t ∧ t.stw.stepped = true ∧
        t.time.ref = ((16 * b.timestamp + s.stw.pathDelay) / 16).toNat))

/-- The other beacons of a member: a SLIP or HOLD beacon for a riser to come is kept for it, a POISON beacon for one poisons the
flights of its set on this device, and a HALT beacon halts an Aligned stairwell with its cause at once (R44, R55, R62, R64,
R324; that it is at once is assumption log 97). A SLIP, HOLD or POISON beacon for a passed riser makes a stairwell that is not
Halted halt with cause 3 at the first riser whose slip deadline has not passed (R48). -/
def Obligations.MemberBeaconsTakeEffect : Prop :=
  ∀ (l : LinkNo) (f : Frame) (b : Beacon) (s : State), s.serves = true → b = beaconOf f.payload →
    (f.isBeacon 2 = true → s.takesBeacon 2 l f = true →
      ∃ t, Machine.exec (.slipBeaconReceived l f) s = .next t ∧ t.parts = s.parts ∧ t.time = s.time ∧
        (s.time.tread.toNat < b.riser →
          t.stw.slips = s.stw.slips ++ [(BitVec.ofNat 48 b.riser, slipCauseOf b.cause, f.src)] ∧
            t.stw.haltAt = s.stw.haltAt) ∧
        (b.riser ≤ s.time.tread.toNat → s.stw.state ≠ .halted → s.stw.haltAt = none →
          t.stw.haltAt = some (BitVec.ofNat 48 (nextOpenRiser s), 3, f.src) ∧ t.stw.slips = s.stw.slips)) ∧
    (f.isBeacon 3 = true → s.takesBeacon 3 l f = true →
      ∃ t, Machine.exec (.holdBeaconReceived l f) s = .next t ∧ t.parts = s.parts ∧ t.time = s.time ∧
        (s.time.tread.toNat < b.riser → BitVec.ofNat 48 b.riser ∈ t.stw.holdsFor) ∧
        (b.riser ≤ s.time.tread.toNat → s.stw.state ≠ .halted → s.stw.haltAt = none →
          t.stw.haltAt = some (BitVec.ofNat 48 (nextOpenRiser s), 3, f.src) ∧ t.stw.holdsFor = s.stw.holdsFor)) ∧
    (f.isBeacon 4 = true → s.takesBeacon 4 l f = true → s.time.tread.toNat < b.riser →
      ∃ t, Machine.exec (.poisonBeaconReceived l f) s = .next t ∧ t.stw.haltAt = s.stw.haltAt ∧
        (∀ (p : Nat) (e : SetEntry), b.sets = [e] →
          t.part p = (if flightSet (s.part p) = some e.set ∧ (s.part p).poison = none
            then { s.part p with poison := some (3, b.riser) } else s.part p))) ∧
    (f.isBeacon 4 = true → s.takesBeacon 4 l f = true → b.riser ≤ s.time.tread.toNat → s.stw.state ≠ .halted →
      s.stw.haltAt = none →
      ∃ t, Machine.exec (.poisonBeaconReceived l f) s = .next t ∧ t.parts = s.parts ∧
        t.stw.haltAt = some (BitVec.ofNat 48 (nextOpenRiser s), 3, f.src)) ∧
    (f.isBeacon 5 = true → s.takesBeacon 5 l f = true → s.stw.state = .aligned →
      ∃ t, Machine.exec (.haltBeaconReceived l f) s = .next t ∧ t.stw.state = .halted ∧ t.stw.haltCause = b.cause ∧
        t.parts = s.parts ∧ t.time = s.time ∧ s.sameStores t)

/-- A follower that has heard no RISER beacon of its leader for 16 treads halts with cause 4, and a device that has heard none of
another member with cause 5 (R52). Path delay: a follower's PROBE request leaves for the leader and its timestamp is kept, a
device answers a request on its link with the timestamps of receipt and answer, and the follower takes half of the round trip
without the leader's stay (R325, R355, R356). -/
def Obligations.SilenceHaltsAndProbesMeasure : Prop :=
  (∀ s : State, s.serves = true → isLeader s = false → silent16 s.stw.leader s = true →
    ∃ t, Machine.exec .alignTimeout s = .next t ∧ t.stw.state = .halted ∧ t.stw.haltCause = 4 ∧ t.parts = s.parts ∧
      s.sameStores t) ∧
  (∀ (a : Half) (s : State), s.serves = true → a ≠ s.stw.leader → a ∈ otherMembers s → silent16 a s = true →
    ∃ t, Machine.exec (.memberBeaconTimeout a) s = .next t ∧ t.stw.state = .halted ∧ t.stw.haltCause = 5 ∧
      t.parts = s.parts ∧ s.sameStores t) ∧
  (∀ (stamp : Nat) (f : Frame) (s : State), s.serves = true → beaconMembers s ≠ [] → beaconLeader s ≠ fabAddr s →
    f = probeFrame (beaconLeader s) 0 (stampOf stamp s) 0 s →
    ∃ t, Machine.exec (.probeSend stamp) s = .next t ∧
      t.apartFromSending = ({ refAt stamp s with
        stw := { s.stw with probeT1 := some (stampOf stamp s) } }).apartFromSending ∧
      (∀ m, s.fab.enable = true →
        pickLink { peer := beaconLeader s, cls := 0, stripe := 0 } (linksTo (beaconLeader s) s) = some m →
        (s.link m).paused = [] → (s.port (m / 4)).macsec = false →
        t.out = s.out ++ [.frame m (etherOf m f s) f])) ∧
  (∀ (l : LinkNo) (f g : Frame) (stamp sent : Nat) (s : State), s.serves = true → f.isProbe 0 = true → s.hears l f = true →
    (s.link l).paused = [] → (s.port (l / 4)).macsec = false →
    g = probeFrame f.src 1 (stampOf stamp s) (stampOf sent (refAt stamp s)) s →
    ∃ t, Machine.exec (.probeRequestReceived l f stamp sent) s = .next t ∧
      t.apartFromSending = (refAt sent (refAt stamp s)).apartFromSending ∧
      t.out = s.out ++ [.frame l.val (etherOf l g s) g]) ∧
  (∀ (l : LinkNo) (f : Frame) (stamp t1 : Nat) (s : State), s.serves = true → f.isProbe 1 = true → s.hears l f = true →
    s.stw.probeT1 = some t1 → f.src = beaconLeader s →
    ∃ t, Machine.exec (.probeResponseReceived l f stamp) s = .next t ∧
      t.stw = { s.stw with
        probeT1 := none
        pathDelay := (((stampOf stamp s : Int) - t1) - ((u64 f.payload 8 : Int) - u64 f.payload 0)) / 2 } ∧
      t.apartFromSending = ({ refAt stamp s with stw := t.stw }).apartFromSending)

/-! ## Partitions (R364 to R391) -/

/-- The partition commands of an allowed state (Table 13-6), of a partition that is not between states: PART_CONFIG with a legal
record, which waits for a UCIe module, takes the record, closes the share's tallies and makes the partition Configured;
PART_START waits for the coming riser; PART_STOP makes it Draining and ends the pending plans; PART_EVICT, where none waits yet,
and PART_RESUME, where no other partition holds a wing, name the next riser whose slip deadline has not passed, PART_EVICT with
a hold for it; MAP_SET with legal entries takes the groups and queues (R328, R373 to R376, R386, R387). In the other states,
and between states, each of these and PART_RELEASE completes with BAD_STATE and the state code (R372); PART_RESUME also while
another partition holds a wing, with that partition's code. -/
def Obligations.PartitionCommandsMoveThePartition : Prop :=
  ∀ (n : RingNo) (f : Fetched) (p : Nat) (q : Partition) (s : State), s.serves = true → p = byteAt f.bytes 16 →
    q = s.part p →
    (∀ record : Bytes, headOf 0x90 n s = some f → record.length = 128 →
      inSpan q = false → q.state = .free → s.host.halves ≠ [] → configReject p record s = none →
      ∃ t, Machine.exec (.partConfig n record) s = .next t ∧
        t.part p = { configured record with state := .configured } ∧
        (∀ k, inShare (recordOf record).tallyFirst (recordOf record).tallyCount k = true → t.tally k = Tally.atReset) ∧
        (∀ o, o ≠ p → t.part o = s.part o) ∧ s.sameStores t) ∧
    (headOf 0x91 n s = some f → inSpan q = false → q.state = .configured →
      ∃ t, Machine.exec (.partStart n) s = .next t ∧
        t.part p = { q with startPend := true, takesAt := BitVec.ofNat 48 (comingRiser s),
                            cmds := q.cmds ++ [{ opcode := 0x91, ring := n, tag := f.tag }] } ∧ s.onlyPart p t) ∧
    (headOf 0x92 n s = some f → inSpan q = false → q.state = .running →
      ∃ t, Machine.exec (.partStop n) s = .next t ∧
        t.part p = { q with state := .draining, plans := [],
                            cmds := q.cmds ++ [{ opcode := 0x92, ring := n, tag := f.tag }] } ∧ s.onlyPart p t) ∧
    (headOf 0x94 n s = some f → inSpan q = false → q.state = .running → (∀ c ∈ q.cmds, c.opcode ≠ 0x94) →
      ∃ t, Machine.exec (.partEvict n) s = .next t ∧
        t.part p = { q with takesAt := BitVec.ofNat 48 (nextOpenRiser s),
                            cmds := q.cmds ++ [{ opcode := 0x94, ring := n, tag := f.tag }] } ∧
        BitVec.ofNat 48 (nextOpenRiser s) ∈ t.stw.holdsFor ∧ (∀ o, o ≠ p → t.part o = s.part o) ∧ s.sameStores t) ∧
    (headOf 0x95 n s = some f → inSpan q = false → q.state = .saved →
      (wingTaken p s = none → ∃ t, Machine.exec (.partResume n) s = .next t ∧
        t.part p = { q with startPend := true, takesAt := BitVec.ofNat 48 (nextOpenRiser s), wingsHeld := true,
                            cmds := q.cmds ++ [{ opcode := 0x95, ring := n, tag := f.tag }] } ∧
        (∀ o, o ≠ p → t.part o = s.part o) ∧ s.sameStores t) ∧
      (∀ x, wingTaken p s = some x →
        Machine.exec (.partResume n) s = .next (rejectHead n f (badState (s.part x).state.code) s))) ∧
    (∀ a gs qs, headOf 0x98 n s = some f → inSpan q = false → q.state = .configured → a = u64 f.bytes 24 →
      hbmPoisoned a (320 * u16 f.bytes 32 + 64 * u16 f.bytes 34) s = false →
      gs = (List.range (u16 f.bytes 32)).map (fun i => hbmRead (a + 320 * i) 320 s) →
      qs = (List.range (u16 f.bytes 34)).map (fun i => hbmRead (a + 320 * u16 f.bytes 32 + 64 * i) 64 s) →
      firstOf (gs.map (fun b => groupReject p b s) ++ qs.map (fun b => queueReject p b s)) = none →
      ∃ t, Machine.exec (.mapSet n) s = .next t ∧
        t.part p = { q with groups := gs.map groupFrom, queues := qs.map queueFrom, early := [] } ∧ s.onlyPart p t) ∧
    (∀ r, r = rejectHead n f (badState q.state.code) s →
      (∀ record : Bytes, record.length = 128 → headOf 0x90 n s = some f → inSpan q = true ∨ q.state ≠ .free →
        Machine.exec (.partConfig n record) s = .next r) ∧
      (headOf 0x91 n s = some f → inSpan q = true ∨ q.state ≠ .configured → Machine.exec (.partStart n) s = .next r) ∧
      (headOf 0x92 n s = some f → inSpan q = true ∨ q.state ≠ .running → Machine.exec (.partStop n) s = .next r) ∧
      (headOf 0x94 n s = some f → inSpan q = true ∨ q.state ≠ .running → Machine.exec (.partEvict n) s = .next r) ∧
      (headOf 0x95 n s = some f → inSpan q = true ∨ q.state ≠ .saved → Machine.exec (.partResume n) s = .next r) ∧
      (headOf 0x96 n s = some f → inSpan q = true ∨ (q.state ≠ .configured ∧ q.state ≠ .saved ∧ q.state ≠ .faulted) →
        Machine.exec (.partRelease n) s = .next r) ∧
      (headOf 0x98 n s = some f → inSpan q = true ∨ q.state ≠ .configured → Machine.exec (.mapSet n) s = .next r))

/-- PART_RELEASE of a Configured, Saved or Faulted partition drops its flight, plans, programs, work and settings and begins the
scrub; the scrub's end, with no ring of the share left, zeroes its HBM and vault shares, its tallies and the cores that it
holds, and leaves it Free; an error in a scrub, a save, a restore or a checkpoint reload makes it Faulted (R377, R384, R469). -/
def Obligations.ReleaseScrubsThePartition : Prop :=
  (∀ (n : RingNo) (f : Fetched) (p : Nat) (q : Partition) (s : State), s.serves = true → p = byteAt f.bytes 16 →
    q = s.part p → headOf 0x96 n s = some f → inSpan q = false →
    q.state = .configured ∨ q.state = .saved ∨ q.state = .faulted →
    ∃ t, Machine.exec (.partRelease n) s = .next t ∧ (t.part p).scrub = true ∧ (t.part p).state = q.state ∧
      (t.part p).flight = none ∧ (t.part p).plans = [] ∧ (∀ g ∈ t.programs, g.part ≠ p) ∧ (∀ w ∈ t.work, w.part ≠ p) ∧
      (∀ x ∈ t.settings, x.scope ≠ p) ∧ s.sameStores t) ∧
  (∀ (p : PartNo) (q : Partition) (s : State), s.serves = true → q = s.part p → q.scrub = true → shareRings q s = [] →
    ∃ t, Machine.exec (.scrubDone p true) s = .next t ∧ t.part p = Partition.atReset ∧
      t.hbm = s.hbm.zero (hbmShare q).1 (hbmShare q).2 ∧
      t.vault = s.vault.zero (q.record.vaultBase * 65536) (q.record.vaultSize * 65536) ∧
      (q.wingsHeld = true → ∀ c, ownsCore q c = true → t.core c = Core.atReset) ∧
      (q.wingsHeld = false → t.cores = s.cores ∧ t.pads = s.pads) ∧
      (∀ k, inShare q.record.tallyFirst q.record.tallyCount k = true → t.tally k = Tally.atReset) ∧
      (∀ o, o ≠ p.val → t.part o = s.part o)) ∧
  (∀ (p : PartNo) (s : State) (c : Instr), s.serves = true →
    (c = .scrubDone p false ∧ (s.part p).scrub = true ∧ shareRings (s.part p) s = []) ∨
      (c = .partSaved p false ∧ (s.part p).saveBusy = true) ∨
      (c = .restoreEnd p false ∧ (s.part p).restoreBusy = true) →
    ∃ t, Machine.exec c s = .next t ∧ (t.part p).state = .faulted ∧ (t.part p).flight = none ∧
      (t.part p).saveBusy = false ∧ (t.part p).restoreBusy = false ∧ (t.part p).scrub = false ∧
      (∀ g ∈ t.programs, g.part ≠ p.val) ∧ (∀ w ∈ t.work, w.part ≠ p.val)) ∧
  (∀ (c : CoreNo) (s : State), s.serves = true → (s.core c).reloading = true →
    Machine.exec (.checkpointReloadEnd c true) s = .next (s.setCore c { s.core c with reloading := false }) ∧
    (∀ p, coreHolder c s = some p →
      ∃ t, Machine.exec (.checkpointReloadEnd c false) s = .next t ∧ (t.part p).state = .faulted))

/-- An eviction's save begins once the work of its Running or Draining partition stands, and ends with the save image written to
HBM, the wings zeroed and released and the partition Saved; its waiting requests are fenced when REQUEST_FENCE is due; the end
of a restore brings the on-die state back, and then the fenced requests, PART_RESUME's completion and the CLEARs go on (R385 to
R389). -/
def Obligations.SavedPartitionsComeBack : Prop :=
  (∀ (p : PartNo) (q : Partition) (s : State), s.serves = true → q = s.part p → q.saveAsked = some true →
    q.saveBusy = false → q.state = .running ∨ q.state = .draining → workStopped p s = true →
    Machine.exec (.saveStart p) s = .next (s.setPart p { q with saveBusy := true, fenceDue := true })) ∧
  (∀ (p : PartNo) (q : Partition) (s : State), s.serves = true → q = s.part p → q.saveBusy = true →
    ∃ t, Machine.exec (.partSaved p true) s = .next t ∧ (t.part p).state = .saved ∧ (t.part p).wingsHeld = false ∧
      (t.part p).saveBusy = false ∧ (t.part p).savedPads = s.pads.filter (fun c => ownsCore q (c.1 / 262144)) ∧
      (t.part p).savedCores = s.cores.filter (fun e => ownsCore q e.1) ∧
      (∀ c, ownsCore q c = true → t.core c = Core.atReset) ∧ t.hbm = (writeSave p s).hbm ∧ t.vault = s.vault ∧
      (∀ o, o ≠ p.val → t.part o = s.part o)) ∧
  (∀ (p : PartNo) (q : Partition) (s : State), s.serves = true → q = s.part p → q.fenceDue = true →
    ∃ t, Machine.exec (.requestFence p) s = .next t ∧
      (t.part p).fenced = q.fenced + (s.fab.requests.filter (fun r => r.part == p.val && !r.fenced)).length ∧
      (∀ r ∈ t.fab.requests, r.part = p.val → r.fenced = true) ∧ t.work = s.work ∧ s.sameStores t) ∧
  (∀ (p : PartNo) (q : Partition) (s : State), s.serves = true → q = s.part p → q.restoreBusy = true →
    ∃ u, Machine.exec (.restoreEnd p true) s =
        .next (clearsRun (endCmds p 0x95 0x00 0 (halves (u.part p).holds 0) (reissueAll p u))) ∧
      (u.part p).restoreBusy = false ∧ (u.part p).evicted = false ∧ (u.part p).state = q.state ∧
      (u.part p).savedPads = [] ∧ u.pads = restoreCells s.pads q.savedPads ∧ u.hbm = s.hbm ∧ u.fab = s.fab)


/-! ## Work admitted into treads (R38 to R42, R251, R252, R284, R332) -/

/-- A COPY, or a STRIKE_COPY within a layer's current strike, whose flight, cost and DMA tag allow it is admitted: one more work
item with the descriptor's bytes, its cost on its hall, and its tag taken; no byte moves yet (R38 to R41, R251, R252). A
STRIKE_COPY of a layer without a current strike completes with BAD_STATE, detail 5. At the end of a COPY from HBM to HBM
without poison its bytes stand at the destination, its tag is free and it completes with DONE and the number of bytes
(R251). -/
def Obligations.CopiesTakeATagAndMoveTheirBytes : Prop :=
  (∀ (n : RingNo) (f : Fetched) (h k : Nat) (s : State), s.serves = true →
    s.admits 0x20 n (fun b => u16 b 18) f h = true → copyKv f.bytes s = none → freeTag h s = some k →
    ∃ (t : State) (w : Work), Machine.exec (.copy n) s = .next t ∧ t.work = s.work ++ [w] ∧ w.id = s.nextId ∧ w.ring = n ∧ w.tag = f.tag ∧
      w.opcode = 0x20 ∧ w.bytes = f.bytes ∧ w.hall = h ∧ w.left = u64 f.bytes 40 ∧ w.started = true ∧
      t.nextId = s.nextId + 1 ∧ (t.hall h).cost = (s.hall h).cost + u32 f.bytes 12 ∧
      (t.hall h).dma = (s.hall h).dma ++ [{ tag := k, kind := .copy s.nextId }] ∧
      (t.ring n).fetched = (s.ring n).fetched.tail ∧ s.sameStores t) ∧
  (∀ (n : RingNo) (f : Fetched) (h k : Nat) (l : Layer) (s : State), s.serves = true →
    s.admits 0x21 n (fun b => u16 b 18) f h = true → layerOf (s.part (s.ring n).owner) (u16 f.bytes 16) = some l →
    (l.current ≠ 0 → u64 f.bytes 24 + u32 f.bytes 36 ≤ strikeBytes l → freeTag h s = some k →
      ∃ (t : State) (w : Work), Machine.exec (.strikeCopy n) s = .next t ∧ t.work = s.work ++ [w] ∧ w.opcode = 0x21 ∧ w.bytes = f.bytes ∧
        w.leases = [{ part := (s.ring n).owner, layer := u16 f.bytes 16, strike := l.current }] ∧
        (t.hall h).cost = (s.hall h).cost + u32 f.bytes 12 ∧
        (t.hall h).dma = (s.hall h).dma ++ [{ tag := k, kind := .copy s.nextId }] ∧ s.sameStores t) ∧
    (l.current = 0 → Machine.exec (.strikeCopy n) s = .next (rejectHead n f (badState 5) s))) ∧
  (∀ (h : HallNo) (tag : Nat) (data : Bytes) (w : Work) (a d n : Nat) (s : State), s.serves = true →
    (s.hall h).dma.find? (fun x => x.tag == tag) = some { tag := tag, kind := .copy w.id } → s.work? w.id = some w →
    w.opcode = 0x20 → byteAt w.bytes 16 = 0 → byteAt w.bytes 17 = 0 → a = u64 w.bytes 24 →
    d = u64 w.bytes 32 → n = u64 w.bytes 40 → inAperture a = false → inAperture d = false → a + n ≤ hbmUsable s →
    poisonedParts s.hbmPoison 64 a n = [] →
    ∃ t u, Machine.exec (.dmaTransferEnd h tag data) s = .next t ∧ t = finish w.ring w.tag 0x00 0 n 0 u ∧
      t.hbm = s.hbm.paste d n (s.hbm.slice a n) ∧ (∀ x ∈ (t.hall h).dma, x.tag ≠ tag) ∧ t.work? w.id = none ∧
      t.vault = s.vault ∧ t.pads = s.pads ∧ t.parts = s.parts)

/-- A CLEAR or queue descriptor that its hall takes becomes a work item with its bytes, hall and cost, and every CLEAR then does
what it can (`clearsRun`); one whose target has passed completes with BAD_STATE, and one that must wait closes its ring until
the next riser (R38 to R41). A QUEUE_PUSH that is the oldest of its queue, with its wait tally met, a credit left, a route,
room in the fabric and bytes without poison, takes one credit and the next slot and sends its bytes; a QUEUE_POP that is the
oldest of its queue, with its wait tally met and a complete entry without poison, takes that entry, copies it to its
destination and ends (R335). -/
def Obligations.ClearsAreAdmittedAndRun : Prop :=
  (∀ (n : RingNo) (f : Fetched) (s : State) (c : Instr) (op : Nat), s.serves = true →
     (c, op) ∈ [(Instr.reduceScatter n, 0x30), (.allGather n, 0x31), (.allReduce n, 0x32), (.broadcast n, 0x33),
       (.allToAll n, 0x34), (.queuePush n, 0x35), (.queuePop n, 0x36)] →
     (∀ h, s.admits op n (fun b => u16 b 48) f h = true →
       ∃ (u : State) (w : Work), Machine.exec c s = .next (clearsRun u) ∧ u.work = s.work ++ [w] ∧ w.opcode = op ∧ w.bytes = f.bytes ∧
         w.part = (s.ring n).owner ∧ w.hall = h ∧ w.started = false ∧ w.left = clearBytes w.part f.bytes s ∧
         u.nextId = s.nextId + 1 ∧ (u.hall h).cost = (s.hall h).cost + u32 f.bytes 12 ∧ u.parts = s.parts ∧
         u.fab = s.fab ∧ s.sameStores u) ∧
     (∀ d, headOf op n s = some f →
       workGate (s.ring n).owner (BitVec.ofNat 32 (u32 f.bytes 8)) (bit (byteAt f.bytes 1) 2) s = .bad d →
       Machine.exec c s = .next (clearsRun (rejectHead n f (badState d) s))) ∧
     (headOf op n s = some f →
       workGate (s.ring n).owner (BitVec.ofNat 32 (u32 f.bytes 8)) (bit (byteAt f.bytes 1) 2) s = .wait →
       Machine.exec c s = .next (clearsRun (holdHead n s)))) ∧
  (∀ (w : Work) (x : Queue) (s : State), s.work? w.id = some w → w.opcode = 0x35 → w.started = false →
    queueOf w.part (byteAt w.bytes 16) s = some x → tailMet w.bytes s = true → queueFirst w s = true → 0 < x.credits →
    hbmPoisoned (clrSrc w.bytes) (u32 w.bytes 32) s = false → routed x.peer s = true → fabricRoom s = true →
    ∃ y v, queueOf w.part (byteAt w.bytes 16) (queueStep w s) = some y ∧ y.credits = x.credits - 1 ∧
      y.begun = x.begun + 1 ∧ (queueStep w s).work? w.id = some v ∧ v.started = true ∧ v.slot = some x.begun ∧
      v.sent = u32 w.bytes 32 ∧ s.sameStores (queueStep w s)) ∧
  (∀ (w : Work) (x : Queue) (len : Nat) (rest : List Nat) (s : State), s.work? w.id = some w → w.opcode = 0x36 →
    queueOf w.part (byteAt w.bytes 16) s = some x → tailMet w.bytes s = true → queueFirst w s = true →
    x.complete = len :: rest → hbmPoisoned (x.buffer + x.begun % x.depth * x.entryBytes) len s = false →
    ∃ y, queueOf w.part (byteAt w.bytes 16) (queueStep w s) = some y ∧ y.begun = x.begun + 1 ∧ y.complete = rest ∧
      (queueStep w s).work? w.id = none ∧ (queueStep w s).hbm =
        (hbmWrite (clrSrc w.bytes) (hbmRead (x.buffer + x.begun % x.depth * x.entryBytes) len s) s).hbm)

/-- An usher descriptor that its gallery's usher takes becomes a work item of the usher's queue, with its bytes, cost and leases,
and the usher goes on (`ushersGo`); one whose layer does not allow it is rejected, one whose target has passed completes with
BAD_STATE, and one that must wait closes its ring until the next riser. The first descriptor of an usher's queue, of a live
partition and with its wait tally met, runs and writes what `usherRun` computes; its last HBM write counts its signal tally if
it ends with DONE, completes it and starts the next (R284, R285). -/
def Obligations.UshersTakeTheirQueueInOrder : Prop :=
  (∀ (n : RingNo) (f : Fetched) (h : Nat) (ls : List ReadLease) (s : State) (c : Instr) (op : Nat), s.serves = true →
    (c, op) ∈ [(Instr.route n, 0x50), (.dispatch n, 0x51), (.combine n, 0x52), (.embGather n, 0x53), (.embSegsum n, 0x54)] →
    s.admits op n (fun b => 256 + byteAt b 16) f h = true → usherLayer (s.ring n).owner f.bytes s = .ok ls →
    ∃ (u : State) (w : Work), Machine.exec c s = .next (ushersGo op n u) ∧ u.work = s.work ++ [w] ∧ w.id = s.nextId ∧
      w.ring = n ∧ w.tag = f.tag ∧ w.opcode = op ∧ w.bytes = f.bytes ∧ w.hall = h ∧ w.leases = ls ∧ w.ready = none ∧
      u.nextId = s.nextId + 1 ∧ (u.hall h).cost = (s.hall h).cost + u32 f.bytes 12 ∧ u.parts = s.parts ∧
      u.tallies = s.tallies ∧ s.sameStores u) ∧
  (∀ (n : RingNo) (f : Fetched) (h : Nat) (s : State) (c : Instr) (op : Nat), s.serves = true →
    (c, op) ∈ [(Instr.route n, 0x50), (.dispatch n, 0x51), (.combine n, 0x52), (.embGather n, 0x53), (.embSegsum n, 0x54)] →
    (∀ e, s.admits op n (fun b => 256 + byteAt b 16) f h = true → usherLayer (s.ring n).owner f.bytes s = .error e →
      Machine.exec c s = .next (ushersGo op n (rejectHead n f e s))) ∧
    (∀ d, headOf op n s = some f →
      workGate (s.ring n).owner (BitVec.ofNat 32 (u32 f.bytes 8)) (bit (byteAt f.bytes 1) 2) s = .bad d →
      Machine.exec c s = .next (ushersGo op n (rejectHead n f (badState d) s))) ∧
    (headOf op n s = some f →
      workGate (s.ring n).owner (BitVec.ofNat 32 (u32 f.bytes 8)) (bit (byteAt f.bytes 1) 2) s = .wait →
      Machine.exec c s = .next (ushersGo op n (holdHead n s)))) ∧
  (∀ (g : Nat) (w : Work) (s : State), usherHead g s = some w → s.work? w.id = some w → w.ready = none →
    tailMet w.bytes s = true → partLive (s.part w.part) = true → (usherRun w s).status = 0 →
    ∃ v, (usherStart g s).work? w.id = some v ∧ v.started = true ∧
      v.ready = some (0, (usherRun w s).detail, BitVec.ofNat 64 (usherRun w s).result, BitVec.ofNat 64 (usherRun w s).aux) ∧
      (usherStart g s).hbm = ((usherRun w s).writes.foldl (fun s x => hbmWrite x.1 x.2 s) s).hbm ∧
      (usherStart g s).parts = s.parts) ∧
  (∀ (g : GalleryNo) (w : Work) (st d : Nat) (r a : Word64) (s : State), s.serves = true → usherHead g s = some w →
    w.ready = some (st, d, r, a) →
    Machine.exec (.usherLastWrite g) s = .next (usherStart g (finish w.ring w.tag st d r.toNat a.toNat
      ((if st = 0 then tailSignal w.bytes s else s).dropWork w.id))))

/-! ## Programs (R156 to R163, R245) -/

/-- A PROGRAM whose flight allows it and that its hall takes (`programAdmit`) is admitted there with its records and leases; one
that its flight or hall does not take yet waits for the next riser; one whose target has passed completes with BAD_STATE, and
one that its checks or walk reject completes at once with that outcome, which poisons the flight where it is NO_ROOM with
detail 0 or POISONED (R38 to R41, R156, R162, R182, R242). PROGRAM_IF is admitted in the same way where its stash entry meets
the condition; where it does not, it completes with DONE and every auxiliary bit set; an Empty entry gives BAD_STATE (R245). -/
def Obligations.ProgramsAreAdmittedOrTurnedAway : Prop :=
  (∀ (n : RingNo) (f : Fetched) (p : Nat) (gate : Gate) (recs : List Bytes) (s : State), s.serves = true →
    p = (s.ring n).owner → gate = workGate p (BitVec.ofNat 32 (u32 f.bytes 8)) false s → recs = programRecords f.bytes s →
    headOf 0x10 n s = some f →
    (gate = .wait → Machine.exec (.program n) s = .next (holdHead n s)) ∧
    (∀ d, gate = .bad d → Machine.exec (.program n) s = .next (rejectHead n f (badState d) s)) ∧
    (gate = .go → programAdmit s n p f.bytes recs = .wait → Machine.exec (.program n) s = .next (holdHead n s)) ∧
    (∀ r, gate = .go → programAdmit s n p f.bytes recs = .reject r →
      Machine.exec (.program n) s = .next
        (if r.status = 0x13 ∧ r.detail = 0 then setPoison p 0x13 ((rejectHead n f r s).bump (kTrn 5))
        else if r.status = 0x30 then setPoison p 2 ((rejectHead n f r s).bump kPoison)
        else rejectHead n f r s)) ∧
    (∀ h w, gate = .go → programAdmit s n p f.bytes recs = .go h w →
      ∃ t, Machine.exec (.program n) s = .next t ∧ t.programs = s.programs ++ [newProgram s n f p h recs w] ∧
        t.nextId = s.nextId + 1 ∧ (t.ring n).fetched = (s.ring n).fetched.tail ∧ t.work = s.work ∧
        (t.part p).flight = (s.part p).flight ∧ s.sameStores t)) ∧
  (∀ (n : RingNo) (f : Fetched) (p : Nat) (s : State), s.serves = true → p = (s.ring n).owner → headOf 0x11 n s = some f →
    workGate p (BitVec.ofNat 32 (u32 f.bytes 8)) false s = .go →
    stashBusy s p (u16 f.bytes 30 :: stashEntries (programRecords f.bytes s)) = false →
    ((stashOf p (u16 f.bytes 30) s).state = .empty →
      Machine.exec (.programIf n) s = .next (rejectHead n f (badState 0) s)) ∧
    ((stashOf p (u16 f.bytes 30) s).state = .unstashed → bit (byteAt f.bytes 32) 0 = true →
      Machine.exec (.programIf n) s = .next (finish n f.tag 0x00 0 0 (2 ^ 64 - 1) (popHead n s))) ∧
    ((stashOf p (u16 f.bytes 30) s).state = .stashed ∨ (stashOf p (u16 f.bytes 30) s).state = .vaulted →
      bit (byteAt f.bytes 32) 0 = false →
      Machine.exec (.programIf n) s = .next (finish n f.tag 0x00 0 0 (2 ^ 64 - 1) (popHead n s))) ∧
    (∀ h w, programAdmit s n p f.bytes (programRecords f.bytes s) = .go h w →
      ifHolds (s.part p) f.bytes = some true →
      ∃ t, Machine.exec (.programIf n) s = .next t ∧
        t.programs = s.programs ++ [newProgram s n f p h (programRecords f.bytes s) w] ∧ s.sameStores t))


/-! ## Tile operations (R139 to R163, R180 to R197, R201 to R254) -/

/-- LOAD puts its tile into the core's free slots, front first, or into the feeders while both are taken, and retires; PASS
opens its page, retires as streamed or skipped, and with LAST moves the back tile to the front and the first feeder entry to
the back. A datapath fault aborts a PASS with detail 1, a poisoned weight or a line that no retry corrects with detail 2: its
page is Poisoned and the rest of its program does not issue; the datapath fault also poisons the flight. A PASS on a Poisoned
page is not executed and ends its program with POISONED 3. A droop stretch of the gallery holds both (R139 to R141, R143,
R146, R158, R159, R172, R194, R466). -/
def Obligations.LoadFillsSlotsAndPassFillsPages : Prop :=
  (∀ (c : CoreNo) (g : Program) (i : Nat) (r : Bytes) (s : State), s.serves = true →
    s.nextOn 0x01 [0x02] c = some (g, i, r) → (s.core c).feeder.length < 16 → droopHeld c s = false →
    padWaits g c (loadRanges r) [] = false → (loadRanges r).any (fun p => padPoisoned c p.1 p.2 s) = false →
    ∃ (t : State) (x : Tile) (h : Program), Machine.exec (.load c) s = .next t ∧
      x = loadTile (byteAt r 2) (loadSparse r) (loadColumn r) s.pads (padBase c + u32 r 4) (padBase c + u32 r 8) (u16 r 12)
        (byteAt r 14) ∧
      ((s.core c).front = none → t.core c = { s.core c with front := some x }) ∧
      ((s.core c).front ≠ none → (s.core c).back = none → t.core c = { s.core c with back := some x }) ∧
      ((s.core c).front ≠ none → (s.core c).back ≠ none →
        t.core c = { s.core c with feeder := (s.core c).feeder ++ [x] }) ∧
      t.program? g.id = some h ∧ h.records = (issue i true g).records ∧ h.outcome = g.outcome ∧ s.sameStores t ∧
      t.parts = s.parts) ∧
  (∀ (c : CoreNo) (g : Program) (i p : Nat) (r : Bytes) (x : Tile) (run : ArrayRun) (fault : Option PassFault) (s : State),
    s.serves = true → s.nextOn 0x02 [0x01] c = some (g, i, r) → p = byteAt r 4 → (s.core c).front = some x →
    pageBusy c p s = false → (passComp r = true → pageBusy c (p + 1) s = false) → droopHeld c s = false →
    (passSkips r x = false → padWaits g c (passPadReads g c r) [] = false) →
    (poisonedAt c p (passComp r) s = false → (passSkips r x = false → passPoisoned g c r s = false) →
      ∃ (t : State) (h : Program), Machine.exec (.pass c none run) s = .next t ∧ (pageOf c p t).image.state = .open_ ∧
        (t.core c).active = true ∧
        (passLast r = true → (t.core c).front = (s.core c).back ∧ (t.core c).back = (s.core c).feeder.head? ∧
          (t.core c).feeder = (s.core c).feeder.tail) ∧
        (passLast r = false → (t.core c).front = some x ∧ (t.core c).back = (s.core c).back ∧
          (t.core c).feeder = (s.core c).feeder) ∧
        t.program? g.id = some h ∧ h.records = (issue i true g).records ∧
        (passSkips r x = true → h.skipped = g.skipped + 1 ∧ h.streamed = g.streamed) ∧
        (passSkips r x = false → h.skipped = g.skipped ∧ h.streamed = g.streamed + 1) ∧ h.outcome = g.outcome ∧
        t.pads = s.pads ∧ t.bufs = s.bufs ∧ t.vault = s.vault ∧ t.parts = s.parts) ∧
    (poisonedAt c p (passComp r) s = false →
      fault = some .datapath ∨
        (passSkips r x = false ∧ (passFaulty g c r fault s = true ∨ passPoisoned g c r s = true)) →
      ∃ (t : State) (h : Program), Machine.exec (.pass c fault run) s = .next t ∧
        (pageOf c p t).image.state = .poisoned ∧ t.program? g.id = some h ∧ (∀ v ∈ h.records, v.issued = true) ∧
        (g.outcome = none → h.outcome = some (0x30, if fault = some .datapath then 1 else 2)) ∧
        (fault = some .datapath → (s.part g.part).flight.isSome = true → (s.part g.part).poison = none →
          (t.part g.part).poison = some (1, nextOpenRiser s))) ∧
    (poisonedAt c p (passComp r) s = true → s.program? g.id = some g → g.outcome = none →
      ∃ (t : State) (h : Program), Machine.exec (.pass c fault run) s = .next t ∧ t.program? g.id = some h ∧
        h.outcome = some (0x30, 3) ∧ (pageOf c p t).image = (pageOf c p s).image ∧ s.sameStores t)) ∧
  (∀ (c : CoreNo) (run : ArrayRun) (fault : Option PassFault) (s : State), s.serves = true → droopHeld c s = true →
    Machine.exec (.load c) s = .next s ∧ Machine.exec (.pass c fault run) s = .next s)

/-- SEAL makes its page Sealed, or Held with HOLD; FREE releases it, Poisoned or not; SPILL releases it and takes the lowest free
DMA tag with its image; DRAIN takes an entry of the finished-tile queue; RESTORE makes its page, and the lo page of a pair, Held
and filling with the image at its address, or aborts its program with detail 2 where the image is poisoned; PAGE_ADD opens its
page with the source's values added; none changes a scratchpad or a buffer. SEAL, SPILL, DRAIN, RESTORE and PAGE_ADD on a
Poisoned page are not executed. At the ends of the transfers a drained page stands in its buffer and is released unless KEEP, a
spill image stands in HBM and its tag is free, and a restored page is no longer filling (R183 to R194, R203). Of a page that
stands Free where an earlier program was aborted before it wrote it, what the record finds there is free (assumption log 105). -/
def Obligations.LedgerRecordsMoveTheirPage : Prop :=
  (∀ (c : CoreNo) (g : Program) (i : Nat) (r : Bytes) (p : Nat) (s : State), s.serves = true → p = byteAt r 2 →
     (s.nextOn 0x10 [] c = some (g, i, r) → pageBusy c p s = false → (pageOf c p s).image.state ≠ .poisoned →
       ∃ (t : State) (h : Program), Machine.exec (Instr.seal c) s = .next t ∧
         (pageOf c p t).image.state = (if byteAt r 3 = 1 then .held else .sealed) ∧
         ((pageOf c p s).image.state ≠ .free → (pageOf c p t).image =
           { (pageOf c p s).image with state := if byteAt r 3 = 1 then .held else .sealed }) ∧
         (∀ q, q ≠ p → pageOf c q t = pageOf c q s) ∧ t.program? g.id = some h ∧
         h.records = (issue i true g).records ∧ s.sameStores t ∧ t.parts = s.parts) ∧
     (s.nextOn 0x12 [] c = some (g, i, r) → pageBusy c p s = false →
       ∃ (t : State) (h : Program), Machine.exec (Instr.free c) s = .next t ∧ (pageOf c p t).image = PageImage.free ∧
         ((pageOf c p s).image.type = .pair → (pageOf c p s).image.state ≠ .free →
           (pageOf c (p + 1) t).image = PageImage.free) ∧
         t.program? g.id = some h ∧ h.records = (issue i true g).records ∧ t.pads = s.pads ∧ t.bufs = s.bufs ∧
         t.vault = s.vault ∧ t.parts = s.parts) ∧
     (∀ k, s.nextOn 0x13 [] c = some (g, i, r) → pageBusy c p s = false → (pageOf c p s).image.state ≠ .poisoned →
       freeTag (hallOfCore c) s = some k →
       ∃ (t : State) (h : Program) (bs : Bytes), Machine.exec (.spill c) s = .next t ∧
         (pageOf c p t).image = PageImage.free ∧
         (t.hall (hallOfCore c)).dma =
           (s.hall (hallOfCore c)).dma ++ [{ tag := k, kind := .spill g.part (u64 r 8) bs }] ∧
         ((pageOf c p s).image.state ≠ .free →
           bs = spillImage (pageOf c p s).image (loEntries c p s) g.part g.flight) ∧
         t.program? g.id = some h ∧ h.records = (issue i true g).records ∧ t.pads = s.pads ∧ t.bufs = s.bufs) ∧
     (s.nextOn 0x11 [] c = some (g, i, r) → (pageOf c p s).filling = false → (pageOf c p s).image.state ≠ .poisoned →
       (s.hall (hallOfCore c)).ftq.length < 16 →
       ∃ (t : State) (h : Program), Machine.exec (.drain c) s = .next t ∧
         (t.hall (hallOfCore c)).ftq.map (fun e => { e with begun := false }) =
           (s.hall (hallOfCore c)).ftq.map (fun e => { e with begun := false }) ++
             [{ program := g.id, record := i, core := c, page := p, buffer := byteAt r 4, keep := byteAt r 3 == 1,
                begun := false }] ∧
         t.program? g.id = some h ∧ h.records = (issue i false g).records ∧ t.pads = s.pads ∧ t.bufs = s.bufs) ∧
     (∀ (v : Record) (a n : Nat), s.nextOn 0x14 [] c = some (g, i, r) → g.records[i]? = some v → a = u64 r 8 →
       n = imageBytes v.type → pageBusy c p s = false → (v.type = .pair → pageBusy c (p + 1) s = false) →
       poisonedAt c p (v.type == .pair) s = false → (pendingSpills s).any (fun e => e.1 == a) = false →
       (hbmPoisoned a n s = false →
         ∃ (t : State) (h : Program), Machine.exec (.restore c) s = .next t ∧ (pageOf c p t).filling = true ∧
           (pageOf c p t).image.state = .held ∧ (pageOf c p t).image.type = v.type ∧
           (v.type = .pair → (pageOf c (p + 1) t).image.state = .lo) ∧
           ((∀ q ∈ [p, p + 1], ((pageOf c q s).freeAtLanding || (pageOf c q s).ckpt) = true) →
             (pageOf c p t).image = imageOf v.type (hbmRead a n s) ∧
             (v.type = .pair → (pageOf c (p + 1) t).image.entries = bytesEntries ((hbmRead a n s).drop 8256) 2048) ∧
             s.sameStores t) ∧
           t.program? g.id = some h ∧ h.records = (issue i false g).records ∧ t.pads = s.pads ∧ t.bufs = s.bufs) ∧
       (hbmPoisoned a n s = true → s.program? g.id = some g → g.outcome = none →
         ∃ (t : State) (h : Program), Machine.exec (.restore c) s = .next t ∧ t.program? g.id = some h ∧
           h.outcome = some (0x30, 2) ∧ (∀ x ∈ h.records, x.issued = true) ∧ s.sameStores t)) ∧
     (∀ (src q : Nat) (x : PageImage × List Word), s.nextOn 0x15 [] c = some (g, i, r) → src = u16 r 6 → q = byteAt r 5 →
       x = addContent g i src q s → pageBusy c p s = false → (pageOf c p s).image.state ≠ .poisoned →
       sourceReady g src s = true → (tget? g.pinned i).isSome = true ∨ sourceStands g i src q s = true →
       x.1.state ≠ .poisoned →
       ∃ (t : State) (h : Program), Machine.exec (.pageAdd c) s = .next t ∧ (pageOf c p t).image.state = .open_ ∧
         ((pageOf c p s).image.state ≠ .free → x.1.state ≠ .free → (pageOf c p t).image.entries =
           (promotePage (pageOf c p s).image.type (pageOf c p s).image.entries (loEntries c p s)
             (sourceBlocks x.1 x.2)).hi) ∧
         t.program? g.id = some h ∧ h.records = (issue i true g).records ∧ t.pads = s.pads ∧ t.bufs = s.bufs ∧
         t.parts = s.parts) ∧
     ((pageOf c p s).image.state = .poisoned →
       (∀ e ∈ [(0x10, Instr.seal c), (0x13, .spill c), (0x15, .pageAdd c)], s.nextOn e.1 [] c = some (g, i, r) →
         pageBusy c p s = false → Machine.exec e.2 s = .next (skipPoisoned g.id i s)) ∧
       (s.nextOn 0x11 [] c = some (g, i, r) → (pageOf c p s).filling = false → (s.hall (hallOfCore c)).ftq.length < 16 →
         Machine.exec (.drain c) s = .next (skipPoisoned g.id i s)) ∧
       (∀ v, s.nextOn 0x14 [] c = some (g, i, r) → g.records[i]? = some v → pageBusy c p s = false →
         (v.type = .pair → pageBusy c (p + 1) s = false) → (pendingSpills s).any (fun e => e.1 == u64 r 8) = false →
         Machine.exec (.restore c) s = .next (skipPoisoned g.id i s)))) ∧
  (∀ (h : HallNo) (n : Nat) (f : Ftq) (s : State), s.serves = true → ((beginFills h s).hall h).ftq[n]? = some f →
    f.begun = true →
    ∃ t, Machine.exec (.drainFillEnd h n) s = .next t ∧
      (t.hall h).ftq.map (fun e => { e with begun := false }) =
        ((s.hall h).ftq.map (fun e => { e with begun := false })).eraseIdx n ∧
      t.bufs = s.bufs.write (bufBase h f.buffer) (entryBytes (readoutPage (pageOf f.core f.page s).image.type
        (pageOf f.core f.page s).image.entries (loEntries f.core f.page s))) ∧
      (f.keep = false → (pageOf f.core f.page t).image = PageImage.free) ∧
      (f.keep = true → t.cores = s.cores) ∧
      (∀ g, s.program? f.program = some g →
        ∃ v, t.program? f.program = some v ∧ v.records = (issue f.record true g).records) ∧
      t.hbm = s.hbm ∧ t.pads = s.pads ∧ t.parts = s.parts) ∧
  (∀ (h : HallNo) (tag p a : Nat) (bs : Bytes) (s : State), s.serves = true →
    (s.hall h).dma.find? (fun d => d.tag == tag) = some { tag := tag, kind := .spill p a bs } →
    ∃ t, Machine.exec (.spillWriteEnd h tag) s = .next t ∧ t.hbm = s.hbm.write a bs ∧
      (t.hall h).dma = (s.hall h).dma.filter (fun d => d.tag != tag) ∧ t.pads = s.pads ∧ t.cores = s.cores ∧
      t.parts = s.parts) ∧
  (∀ (c : CoreNo) (p : Fin 8) (s : State), s.serves = true → (pageOf c p s).filling = true →
    ∃ t, Machine.exec (.restoreFillEnd c p) s = .next t ∧ (pageOf c p t).filling = false ∧
      (pageOf c p t).image = (pageOf c p s).image ∧ s.sameStores t ∧ t.parts = s.parts ∧
      (∀ id k g, fillingRecord c p s = some (id, k) → s.program? id = some g →
        ∃ v, t.program? id = some v ∧ v.records = (issue k true g).records))

/-- TALLY records retire: SET gives the tally its value and OPEN flag, ADD adds to it, a WAIT that is met changes no tally and one
that is not met does not retire; an ADD to another device sends its REQ and awaits the RESP, ends its program with
RETRY_EXHAUSTED where no link leads there, and does not retire while the fabric has no room. NOP records retire with no effect.
The end of a program empties its cores' slots and feeders, gates their arrays unless one stays active, holds their Open pages
and completes the program with its outcome, or DONE and its conditions (R102, R105, R106, R145, R157, R163, R180). -/
def Obligations.TallyNopAndEndOfProgram : Prop :=
  (∀ (c : CoreNo) (g : Program) (i : Nat) (r x : Bytes) (s : State), s.serves = true →
    s.nextOn 0x60 [] c = some (g, i, r) → x = sub r 16 16 → padPending g c = [] →
    (tallyRecordWaits x s = false → tallyRemote x = false →
      ∃ (t : State) (h : Program), Machine.exec (.tallyRecord c) s = .next t ∧
        (byteAt x 2 = 1 → t.tally (u16 x 0) = { value := BitVec.ofNat 32 (u32 x 8), open_ := bit (byteAt x 3) 1 }) ∧
        (byteAt x 2 = 2 → t.tally (u16 x 0) =
          { s.tally (u16 x 0) with value := (s.tally (u16 x 0)).value + BitVec.ofNat 32 (u32 x 8) }) ∧
        (byteAt x 2 = 3 → t.tallies = s.tallies) ∧ (∀ k, k ≠ u16 x 0 → t.tally k = s.tally k) ∧
        t.program? g.id = some h ∧ h.records = (issue i true g).records ∧ s.sameStores t ∧ t.parts = s.parts) ∧
    (tallyRecordWaits x s = true → Machine.exec (.tallyRecord c) s = .next s) ∧
    (∀ a, tallyRemote x = true → a = BitVec.ofNat 16 (u16 x 4) →
      (routed a s = true → fabricRoom s = true →
        ∃ (t : State) (h : Program), Machine.exec (.tallyRecord c) s = .next t ∧ t.program? g.id = some h ∧
          h.records = (issue i true g).records ∧ h.awaiting = g.awaiting ++ [(connOf (reqConn a) s).nextTxn] ∧
          t.tallies = s.tallies ∧ t.apartFromSending = ({ s with programs := t.programs }).apartFromSending) ∧
      (routed a s = true → fabricRoom s = false → Machine.exec (.tallyRecord c) s = .next s) ∧
      (routed a s = false → g.outcome = none →
        ∃ (t : State) (h : Program), Machine.exec (.tallyRecord c) s = .next t ∧ t.program? g.id = some h ∧
          h.records = (issue i true g).records ∧ h.outcome = some (0x31, 0) ∧ t = { s with programs := t.programs }))) ∧
  (∀ (h : HallNo) (g : Program) (s : State), s.serves = true →
    ((livePrograms s).filter (fun g => g.hall == h.val)).findSome? issueNop = some g →
    Machine.exec (.tileNop h) s = .next (s.setProgram g)) ∧
  (∀ (g : Program) (stays : Half) (s : State), s.serves = true → s.program? g.id = some g → programDone g = true →
    (∀ c ∈ g.coreList, ((runningOn c s).map Program.id) = some g.id) →
    ∃ u, Machine.exec (.programEnd g.id stays) s = .next (finish g.ring g.tag (g.outcome.getD (0x00, g.flags.toNat)).1
        (g.outcome.getD (0x00, g.flags.toNat)).2
        (maxOfTable (chargeRampDowns stays g s).charged % 2 ^ 32 + 2 ^ 32 * (maxOfTable g.heldCycles % 2 ^ 32))
        (g.streamed + 2 ^ 32 * g.skipped) u) ∧
      u.program? g.id = none ∧ u.parts = s.parts ∧ u.rings = s.rings ∧ s.sameStores u ∧
      (∀ c ∈ g.coreList, (u.core c).front = none ∧ (u.core c).back = none ∧ (u.core c).feeder = [] ∧
        (u.core c).active = ((s.core c).active && staysActive stays c) ∧
        (∀ p, (pageOf c p s).image.state = .open_ → (pageOf c p u).image.state = .held) ∧
        (∀ p, (pageOf c p s).image.state ≠ .open_ → pageOf c p u = pageOf c p s)))

/-- The vector records and THIN of a hall run in order on its tile buffers: each retires with its conditions, VLOAD in raw mode
copies its bytes, the others write what their operation computes into buffers and scratchpad, and poisoned bytes that a VLOAD or
a THIN reads abort the program with detail 2 (R153, R154, R201 to R229, R465). -/
def Obligations.VectorRecordsWriteTheirBuffers : Prop :=
  (∀ (h : HallNo) (c : Instr) (op : Nat) (g : Program) (i : Nat) (r : Bytes) (o : VecOut) (s : State), s.serves = true →
    (c, op) ∈ [(Instr.vload h, 0x20), (.vstore h, 0x21), (.arith h, 0x22), (.func h, 0x23), (.rowred h, 0x24),
      (.smax h, 0x25), (.norm h, 0x26), (.dropout h, 0x27), (.convert h, 0x28)] →
    s.nextInHall op h = some (g, i, r) →
    (op = 0x20 → (vecRec r).func ≠ 1 ∧ (vecPadRanges (vecRec r)).any (fun p =>
      padPoisoned (16 * h + (vecRec r).pad) p.1 p.2 s) = false) →
    o = vecCompute (vecRec r) (bufEntry h s) s.pads (padBase (16 * h + (vecRec r).pad)) (recordDraws g (vecRec r) s) →
    ∃ (t : State) (k : Program), Machine.exec c s = .next t ∧ t.bufs = applyWrites s.bufs (bufBase h 0) o.writes ∧
      t.pads = (applyPad (16 * h + (vecRec r).pad) o.pad s).pads ∧ t.program? g.id = some k ∧
      k.records = (issue i true g).records ∧ k.flags = g.flags ||| condFlags o ∧ t.hbm = s.hbm ∧ t.parts = s.parts) ∧
  (∀ (h : HallNo) (g : Program) (i : Nat) (r : Bytes) (s : State), s.serves = true →
    s.nextInHall 0x20 h = some (g, i, r) →
    ((vecRec r).func = 1 →
      (vecPadRanges (vecRec r)).any (fun p => padPoisoned (16 * h + (vecRec r).pad) p.1 p.2 s) = false →
      ∃ (t : State) (k : Program), Machine.exec (.vload h) s = .next t ∧
        t.bufs = s.bufs.write (bufBase h (vecRec r).d) (padRead (16 * h + (vecRec r).pad) (vecRec r).scalar.toNat
          ((vecRec r).rows * (vecRec r).stride) s) ∧
        t.program? g.id = some k ∧ k.records = (issue i true g).records ∧ t.pads = s.pads ∧ t.hbm = s.hbm) ∧
    ((vecPadRanges (vecRec r)).any (fun p => padPoisoned (16 * h + (vecRec r).pad) p.1 p.2 s) = true → g.outcome = none →
      ∃ (t : State) (k : Program), Machine.exec (.vload h) s = .next t ∧ t.program? g.id = some k ∧
        k.outcome = some (0x30, 2) ∧ (∀ v ∈ k.records, v.issued = true) ∧ s.sameStores t)) ∧
  (∀ (h : HallNo) (g : Program) (i : Nat) (r : Bytes) (ts : List Acc) (s : State), s.serves = true →
    s.nextInHall 0x03 h = some (g, i, r) → ts = thinTotals h r (thinBase g r s) s →
    (thinPoisoned r (thinBase g r s) s = false →
      ∃ (t : State) (k : Program), Machine.exec (.thin h) s = .next t ∧
        t.bufs = s.bufs.write (bufBase h (bits (byteAt r 5) 4 3)) (entryBytes (ts.map Acc.hi)) ∧
        t.program? g.id = some k ∧ k.records = (issue i true g).records ∧
        k.flags = g.flags ||| BitVec.ofNat 8 (b2n (ts.any (fun a => a.flags.nan)) + 2 * b2n (ts.any (fun a => a.flags.ovf))) ∧
        t.pads = s.pads ∧ t.hbm = s.hbm ∧ t.parts = s.parts) ∧
    (thinPoisoned r (thinBase g r s) s = true → g.outcome = none →
      ∃ (t : State) (k : Program), Machine.exec (.thin h) s = .next t ∧ t.program? g.id = some k ∧
        k.outcome = some (0x30, 2) ∧ (∀ v ∈ k.records, v.issued = true) ∧ s.sameStores t))

/-- XPOSE writes its transposed rows, and for an MX format their scales, into the scratchpad and retires; poisoned source bytes
abort its program. A final WATCH adds its page's squares to its watch, and a fold those of the folded page, which it frees and
adds into the other page; a Poisoned page skips the record. STASH and UNSTASH take the lowest free DMA tag, and retire at once
where the entry is not held; at the tag's end a STASH's bytes stand in the entry and an UNSTASH's in the scratchpad, and the
record is done. SDROP empties its entry, whose content stays with its program; LEASE holds or releases a layer's current strike
(R231 to R249, R465). What a WATCH finds in a Free page that an aborted program did not write is free (assumption log 105). -/
def Obligations.TrainingRecordsTakeEffect : Prop :=
  (∀ (c : CoreNo) (g : Program) (i : Nat) (r : Bytes) (s : State), s.serves = true →
    (s.nextOn 0x40 [] c = some (g, i, r) → padWaits g c (xposeRanges r).1 (xposeRanges r).2 = false →
      ((xposeRanges r).1.any (fun p => padPoisoned c p.1 p.2 s) = false →
        ∃ (t : State) (h : Program), Machine.exec (.xpose c) s = .next t ∧
          t.pads = ((List.range (u16 r 18)).foldl (fun u j =>
            let u := padWrite c (u32 r 8 + j * u16 r 14) (packCodes (byteAt r 2) (xposeRow s.pads (padBase c) r j).1) u
            if fmtMx (byteAt r 2) then
              padWrite c (u32 r 24 + j * scalePitch (byteAt r 2) (u16 r 14))
                ((xposeRow s.pads (padBase c) r j).2.map (BitVec.ofNat 8)) u
            else u) s).pads ∧
          t.program? g.id = some h ∧ h.records = (issue i true g).records ∧ t.hbm = s.hbm ∧ t.bufs = s.bufs ∧
          t.parts = s.parts) ∧
      ((xposeRanges r).1.any (fun p => padPoisoned c p.1 p.2 s) = true → s.program? g.id = some g → g.outcome = none →
        ∃ (t : State) (h : Program), Machine.exec (.xpose c) s = .next t ∧ t.program? g.id = some h ∧
          h.outcome = some (0x30, 2) ∧ (∀ v ∈ h.records, v.issued = true) ∧ s.sameStores t)) ∧
    (∀ (p q : Nat) (w : Watch), s.nextOn 0x45 [] c = some (g, i, r) → p = byteAt r 4 → q = byteAt r 5 →
      w = tget Watch.atReset (s.part g.part).watches (byteAt r 3) → pageBusy c p s = false →
      (bit (byteAt r 2) 0 = true → (pageOf c p s).image.state ≠ .poisoned →
        ∃ (t : State) (h : Program) (v : Dy × Bool), Machine.exec (.watch c) s = .next t ∧
          tget Watch.atReset (t.part g.part).watches (byteAt r 3) =
            { w with s2 := dyAdd w.s2 v.1, finals := w.finals + 1, nan := w.nan || v.2 } ∧
          ((pageOf c p s).image.state ≠ .free → v = squares (pageOf c p s).image.entries ∧ t.cores = s.cores) ∧
          t.program? g.id = some h ∧ h.records = (issue i true g).records ∧ s.sameStores t) ∧
      (bit (byteAt r 2) 0 = false → pageBusy c q s = false → (pageOf c p s).image.state ≠ .poisoned →
        (pageOf c q s).image.state ≠ .poisoned →
        ∃ (t : State) (h : Program) (v : Dy × Bool), Machine.exec (.watch c) s = .next t ∧
          tget Watch.atReset (t.part g.part).watches (byteAt r 3) =
            { w with s1 := dyAdd w.s1 v.1, folds := w.folds + 1, nan := w.nan || v.2 } ∧
          ((pageOf c q s).image.state ≠ .free → v = squares (pageOf c q s).image.entries) ∧
          (pageOf c q t).image = PageImage.free ∧
          (p ≠ q → (pageOf c q s).image.type ≠ .pair → (pageOf c p t).image.state = .open_) ∧
          t.program? g.id = some h ∧ h.records = (issue i true g).records ∧ t.pads = s.pads ∧ t.bufs = s.bufs) ∧
      ((bit (byteAt r 2) 0 = false → pageBusy c q s = false) →
        (pageOf c p s).image.state = .poisoned ∨
          (bit (byteAt r 2) 0 = false ∧ (pageOf c q s).image.state = .poisoned) →
        Machine.exec (.watch c) s = .next (skipPoisoned g.id i s))) ∧
    (∀ (e : StashEntry) (k : Nat), s.nextOn 0x41 [] c = some (g, i, r) → e = entryFor g (u16 r 4) s →
      (e.holds = false → Machine.exec (.stash c) s = .next (s.setProgram (issue i true g))) ∧
      (e.holds = true → padWaits g c [(u32 r 8, u32 r 12)] [] = false → extentsWait g.part e s = false →
        freeTag (hallOfCore c) s = some k →
        ∃ (t : State) (h : Program), Machine.exec (.stash c) s = .next t ∧
          (t.hall (hallOfCore c)).dma = (s.hall (hallOfCore c)).dma ++ [{ tag := k, kind := .stash g.id i }] ∧
          stashOf g.part (u16 r 4) t = { e with placed := true } ∧
          (∀ n, n ≠ u16 r 4 → stashOf g.part n t = stashOf g.part n s) ∧
          t.program? g.id = some h ∧ h.records = (issue i false g).records ∧ s.sameStores t)) ∧
    (∀ (e : StashEntry) (k : Nat), s.nextOn 0x42 [] c = some (g, i, r) → e = entryFor g (u16 r 4) s →
      (e.holds = false → Machine.exec (.unstash c) s = .next (s.setProgram (issue i true g))) ∧
      (e.holds = true → padWaits g c [] [(u32 r 8, u32 r 12)] = false → freeTag (hallOfCore c) s = some k →
        ∃ (t : State) (h : Program), Machine.exec (.unstash c) s = .next t ∧
          (t.hall (hallOfCore c)).dma = (s.hall (hallOfCore c)).dma ++ [{ tag := k, kind := .stash g.id i }] ∧
          t.program? g.id = some h ∧ h.records = (issue i false g).records ∧ s.sameStores t ∧ t.parts = s.parts)) ∧
    (s.nextOn 0x43 [] c = some (g, i, r) →
      ∃ (t : State) (h : Program), Machine.exec (.sdrop c) s = .next t ∧
        stashOf g.part (u16 r 4) t = StashEntry.empty ∧ (∀ e, e ≠ u16 r 4 → stashOf g.part e t = stashOf g.part e s) ∧
        t.program? g.id = some h ∧ h.records = (issue i true g).records ∧
        tget? h.dropped (u16 r 4) = some (stashOf g.part (u16 r 4) s) ∧ s.sameStores t) ∧
    (s.nextOn 0x44 [] c = some (g, i, r) →
      ∃ (t : State) (h : Program), Machine.exec (.lease c) s = .next t ∧
        (bit (byteAt r 2) 0 = true → tget? (t.part g.part).leases (u16 r 4) = none) ∧
        (∀ l, bit (byteAt r 2) 0 = false → layerOf (s.part g.part) (u16 r 6) = some l →
          tget? (t.part g.part).leases (u16 r 4) = some { layer := u16 r 6, strike := l.current }) ∧
        t.program? g.id = some h ∧ h.records = (issue i true g).records ∧ s.sameStores t)) ∧
  (∀ (hall : HallNo) (tag : Nat) (data : Bytes) (g : Program) (i c : Nat) (x : Record) (r : Bytes) (e : StashEntry)
    (s : State), s.serves = true →
    (s.hall hall).dma.find? (fun d => d.tag == tag) = some { tag := tag, kind := .stash g.id i } →
    s.program? g.id = some g → g.records[i]? = some x → x.bytes = r → c = 16 * g.hall + byteAt r 1 →
    e = entryFor g (u16 r 4) s →
    (recOp r = 0x42 →
      ∃ (t : State) (h : Program), Machine.exec (.dmaTransferEnd hall tag data) s = .next t ∧
        t.pads = (padWrite c (u32 r 8) (e.data.read (u32 r 16) (u32 r 12)) s).pads ∧
        (∀ d ∈ (t.hall hall).dma, d.tag ≠ tag) ∧ t.program? g.id = some h ∧ h.records = (issue i true g).records ∧
        t.hbm = s.hbm ∧ t.parts = s.parts) ∧
    (recOp r = 0x41 → padPoisoned c (u32 r 8) (u32 r 12) s = false →
      ∃ (t : State) (h : Program), Machine.exec (.dmaTransferEnd hall tag data) s = .next t ∧
        stashOf g.part (u16 r 4) t =
          { e with data := e.data.write (u32 r 16) (padRead c (u32 r 8) (u32 r 12) s) } ∧
        (∀ d ∈ (t.hall hall).dma, d.tag ≠ tag) ∧ t.program? g.id = some h ∧ h.records = (issue i true g).records ∧
        s.sameStores t))

/-! ## The mint (R257 to R282) and sequence slots (R299 to R308) -/

/-- LAYER_DEF makes an Idle layer with its extents as the result, or is rejected for its fields, its layer's state or want of
room; LAYER_UNDEF removes an Idle layer whose current strike, if any, no held lease names, and is rejected for an Undefined
one; LAYER_IO becomes a copy whose end writes a part of the layer to HBM or host memory, or reads one in, and completes with
its bytes; poisoned bytes end it with POISONED 2 (R257, R261, R262, R280). Masters that nothing has written are free values
(assumption log 8), and the outcome of poisoned bytes is the model's choice (assumption log 17). -/
def Obligations.LayersAreDefinedReadAndWritten : Prop :=
  (∀ (n : RingNo) (f : Fetched) (p : Nat) (peers : List (Half × Nat)) (l : Layer) (s : State), s.serves = true →
    s.mints 0x40 n f = true → p = (s.ring n).owner →
    peers = (if byteAt f.bytes 35 = 1 then [(fabAddr s, p)] else peerEntries f.bytes s) → l = layerFrom f.bytes peers s.free →
    (layerDefReject f.bytes p l s = none →
      ∃ u, Machine.exec (.layerDef n) s = .next (finish n f.tag 0x00 0 (layerExtents l) 0 u) ∧
        layerOf (u.part p) (mintLayer f.bytes) = some l ∧ l.state = .idle ∧ u.free = s.free + masterBytes l ∧
        (∀ k, k ≠ mintLayer f.bytes → layerOf (u.part p) k = layerOf (s.part p) k) ∧ s.sameStores u) ∧
    (∀ r, layerDefReject f.bytes p l s = some r → Machine.exec (.layerDef n) s = .next (rejectHead n f r s))) ∧
  (∀ (n : RingNo) (f : Fetched) (p : Nat) (s : State), s.serves = true → s.mints 0x41 n f = true →
    p = (s.ring n).owner →
    (∀ l, layerOf (s.part p) (mintLayer f.bytes) = some l → l.state = .idle →
      l.current = 0 ∨ heldLease (s.part p) (mintLayer f.bytes) l.current = false →
      ∃ t, Machine.exec (.layerUndef n) s = .next t ∧ layerOf (t.part p) (mintLayer f.bytes) = none ∧
        (∀ k, k ≠ mintLayer f.bytes → layerOf (t.part p) k = layerOf (s.part p) k) ∧ s.sameStores t) ∧
    (layerOf (s.part p) (mintLayer f.bytes) = none →
      Machine.exec (.layerUndef n) s = .next (rejectHead n f (badState 0) s))) ∧
  (∀ (n : RingNo) (f : Fetched) (p : Nat) (l : Layer) (b : Bytes) (s : State), s.serves = true → s.mints 0x44 n f = true →
    p = (s.ring n).owner → b = f.bytes → layerOf (s.part p) (mintLayer b) = some l → l.state = .idle →
    (byteAt b 20 = 0 → hbmAllowed (s.part p) (u64 b 24) (partBytes l (byteAt b 18)) = true) →
    (byteAt b 20 ≠ 0 → hostAllowed (s.part p) (u64 b 24) (partBytes l (byteAt b 18)) = true) →
    ∃ (t : State) (w : Work), Machine.exec (.layerIo n) s = .next t ∧ t.work = s.work ++ [w] ∧ w.opcode = 0x44 ∧ w.ring = n ∧
      w.bytes = b ∧ w.part = p ∧ w.left = partBytes l (byteAt b 18) ∧ t.parts = s.parts ∧ s.sameStores t) ∧
  (∀ (n : RingNo) (data : Bytes) (w : Work) (l : Layer) (k part a len : Nat) (s : State), s.serves = true →
    s.work.find? (fun w => w.opcode == 0x44 && w.ring == n.val) = some w → k = mintLayer w.bytes →
    layerOf (s.part w.part) k = some l → part = byteAt w.bytes 18 → a = u64 w.bytes 24 → len = partBytes l part →
    (bit (byteAt w.bytes 19) 0 = false → byteAt w.bytes 20 = 0 →
      Machine.exec (.layerIoCopyEnd n data) s =
        .next (finish w.ring w.tag 0x00 0 len 0 (hbmWrite a (partOut l part) (s.dropWork w.id)))) ∧
    (bit (byteAt w.bytes 19) 0 = false → byteAt w.bytes 20 ≠ 0 →
      Machine.exec (.layerIoCopyEnd n data) s =
        .next (finish w.ring w.tag 0x00 0 len 0 (toHost a (partOut l part) false (s.dropWork w.id)))) ∧
    (bit (byteAt w.bytes 19) 0 = true → byteAt w.bytes 20 = 0 → hbmPoisoned a len s = false →
      ∃ u, Machine.exec (.layerIoCopyEnd n data) s = .next (finish w.ring w.tag 0x00 0 len 0 u) ∧ u.work? w.id = none ∧
        layerOf (u.part w.part) k = some (partIn l part (hbmRead a len s)) ∧ s.sameStores u) ∧
    (bit (byteAt w.bytes 19) 0 = true → byteAt w.bytes 20 = 0 → hbmPoisoned a len s = true →
      ∃ u, Machine.exec (.layerIoCopyEnd n data) s = .next (finish w.ring w.tag 0x30 2 0 0 u) ∧ u.work? w.id = none ∧
        u.parts = s.parts ∧ s.sameStores u) ∧
    (bit (byteAt w.bytes 19) 0 = true → byteAt w.bytes 20 = 2 → data.length = w.left → s.host.halves ≠ [] →
      ∃ u, Machine.exec (.layerIoCopyEnd n data) s = .next (finish w.ring w.tag 0x00 0 len 0 u) ∧ u.work? w.id = none ∧
        layerOf (u.part w.part) k = some (partIn l part data) ∧ s.sameStores u))

/-- UPDATE and STRIKE take an Idle layer to Running with a job, or are rejected; an UPDATE stays at round 0 until its tally is
met, and a STRIKE short of room completes with NO_ROOM 1 and the extents that lack. The end of pass C and the striking leaves the
layer Staged, its masters and current strike as they were and the new strike in the other slot; a fault of a mint engine, a vault
line that no retry corrects and poisoned bytes take the job to its broken landing and poison the flight (R264 to R271, R276 to
R279, R293, R463, R465). A frame of an exchange body that does not complete it is kept; a whole body for the flight in progress of
a partition that awaits it is held by its layer and moves its job on, and any other leaves every layer alone (R266, R327;
assumption log 14). -/
def Obligations.UpdatesAndStrikesStageTheLayer : Prop :=
  (∀ (n : RingNo) (f : Fetched) (p k : Nat) (s : State), s.serves = true → s.mints 0x42 n f = true →
    p = (s.ring n).owner → k = mintLayer f.bytes →
    (layerOf (s.part p) k = none → Machine.exec (.update n) s = .next (mintRun (rejectHead n f (badState 0) s))) ∧
    (∀ l, layerOf (s.part p) k = some l →
      (∀ r, (updateFields (s.part p) l f.bytes).or (jobReject (s.part p) k l false) = some r →
        Machine.exec (.update n) s = .next (mintRun (rejectHead n f r s))) ∧
      (updateFields (s.part p) l f.bytes = none → jobReject (s.part p) k l false = none →
        ∃ (u : State) (j : MintJob), Machine.exec (.update n) s = .next (mintRun (mintStart p k u)) ∧
          layerOf (u.part p) k = some { l with state := .running, job := some j } ∧ j.ring = n ∧ j.tag = f.tag ∧
          j.bytes = f.bytes ∧ j.isStrike = false ∧ j.round = 0 ∧ j.newStrike = nextStrike l ∧ s.sameStores u ∧
          (updateTallyMet f.bytes s = false → mintStart p k u = u)))) ∧
  (∀ (n : RingNo) (f : Fetched) (p k : Nat) (s : State), s.serves = true → s.mints 0x43 n f = true →
    p = (s.ring n).owner → k = mintLayer f.bytes →
    (layerOf (s.part p) k = none → Machine.exec (.strike n) s = .next (rejectHead n f (badState 0) s)) ∧
    (∀ l, layerOf (s.part p) k = some l →
      (∀ r, jobReject (s.part p) k l true = some r → Machine.exec (.strike n) s = .next (rejectHead n f r s)) ∧
      (jobReject (s.part p) k l true = none → (regionExtents l).2.1 ≤ poolFree (s.part p) →
        ∃ (t : State) (j : MintJob), Machine.exec (.strike n) s = .next t ∧
          layerOf (t.part p) k = some { l with state := .running, job := some j } ∧ j.isStrike = true ∧ j.round = 3 ∧
          j.newStrike = nextStrike l ∧ j.extents = (regionExtents l).2.1 ∧ s.sameStores t) ∧
      (jobReject (s.part p) k l true = none → poolFree (s.part p) < (regionExtents l).2.1 →
        ∃ u, Machine.exec (.strike n) s =
            .next (finish n f.tag 0x13 1 ((regionExtents l).2.1 - poolFree (s.part p)) 0 u) ∧ u.parts = s.parts))) ∧
  (∀ (p : PartNo) (k : Nat) (l : Layer) (j : MintJob) (poisoned : Bool) (s : State), s.serves = true →
    layerOf (s.part p) k = some l → l.job = some j → l.state = .running → j.round = 3 →
    poisoned = (copyPoisoned l (struckRows l j s) s ||
      (!j.isStrike && !(List.range l.n).all (rowFrozen l) && gradPoisoned l j.bytes s)) →
    (poisoned = false →
      ∃ (t : State) (m : Layer), Machine.exec (.updateStaged p k none) s = .next t ∧ layerOf (t.part p) k = some m ∧
        m.state = .staged ∧ m.pending = 0 ∧ m.current = l.current ∧ m.masters = l.masters ∧ m.step = l.step ∧
        t.hbm = ((strikeWrites { l with masters := (jobShadow p k l j s).1.masters } j.newStrike (struckRows l j s) s).foldl
          (fun s w => hbmWrite w.1 w.2 s) s).hbm ∧ t.vault = s.vault ∧ t.pads = s.pads) ∧
    (∀ (fault : Option MintFault) (d : Nat),
      (fault = none ∧ poisoned = true ∧ d = 2) ∨ (fault = some .engine ∧ d = 1) ∨
        (∃ a, fault = some (.vaultLine a) ∧ vaultAllowed (s.part p) a 1 = true ∧ d = 2) →
      ∃ t, Machine.exec (.updateStaged p k fault) s = .next t ∧
        layerOf (t.part p) k = some { l with job := some { j with round := 9 } } ∧ t.hbm = s.hbm ∧ t.vault = s.vault ∧
        ((s.part p).flight.isSome = true → (s.part p).poison = none →
          (t.part p).poison = some (d, nextOpenRiser s)))) ∧
  (∀ (l : LinkNo) (f : Frame) (sender : Option Nat) (key : Word) (have_ b : Bytes) (s : State), s.serves = true →
     (Instr.mintExchangeReceived l f).wellFormed = true → s.takesInOrder l f = true →
     sender = sentBy f (takeAck (connIn f) f.ack (macReceive l f s)) →
     key = BitVec.ofNat 32 (f.operation.toNat % 65536 + 65536 * sender.getD deviceOwner) →
     have_ = (match s.fab.partial_.find? (fun x => x.1 == f.src && x.2.1 == key) with | some x => x.2.2 | none => []) →
     b = have_ ++ f.payload →
     (b.length < bodyBytes b →
       ∃ t, Machine.exec (.mintExchangeReceived l f) s = .next t ∧ t.parts = s.parts ∧
         t.fab.partial_ = s.fab.partial_.filter (fun x => !(x.1 == f.src && x.2.1 == key)) ++ [(f.src, key, b)]) ∧
     (∀ (body : Bytes) (k : Nat) (here : Option (Nat × Partition)), bodyBytes b ≤ b.length → body = b.take (bodyBytes b) →
       k = u16 body 0 → here = (s.parts.filter (fun e => awaitsBody f.src sender body e.2)).find? (fun e =>
         e.2.flight.map (fun x => x.plan.flight.toNat) == some (u32 body 12)) →
       (here = none →
         ∃ t, Machine.exec (.mintExchangeReceived l f) s = .next t ∧ t.parts = s.parts ∧ s.sameStores t) ∧
       (∀ e m, here = some e → layerOf e.2 k = some m →
         ∃ u, Machine.exec (.mintExchangeReceived l f) s = .next (mintAdvance e.1 k 3 u) ∧
           layerOf (u.part e.1) k = some { m with bodies := m.bodies ++
             [{ shard := byteAt body 2, round := byteAt body 4, bytes := body }] } ∧ s.sameStores u)))

/-! ## Time (R29, R40 to R49, R55, R56) -/

/-- A riser: the tread count advances by one and every declared cost begins at 0; a Halted stairwell stays so until its resume
riser, which leaves it Alone or Aligned, and its treads are halted ones, or settle treads where a device landing changes the
clock or the period; otherwise a halt that is due comes first, then a hold, then a slip adds to the slip run or halts at the bound
with cause 1, then work left undone halts with cause 2, and else the slip run ends (R29, R40, R46 to R48, R55, R56, R61, R64).
What a fault in a context area leaves comes before all that (R377). A flight's position advances with normal treads only
(R32). -/
def Obligations.RiserAdvancesTheTread : Prop :=
  (∀ (found : RiserFindings) (s v : State), s.serves = true → v = found.context.foldl contextFault (tickClock s) →
    ∃ u, Machine.exec (.riser found) s = .next (mintRun (clearsRun u)) ∧ u.time.tread = s.time.tread + 1 ∧
      (∀ c, (u.core c).cost = 0) ∧ (∀ h, (u.hall h).cost = 0) ∧
      (s.stw.state = .halted → s.stw.resumeAt ≠ some (s.time.tread + 1) →
        u.stw.state = .halted ∧ u.stw.haltCause = s.stw.haltCause ∧ (u.time.kind = .halted ∨ u.time.kind = .settle)) ∧
      (s.stw.state = .halted → s.stw.resumeAt = some (s.time.tread + 1) →
        u.stw.state = (if s.stw.members = [] then .alone else .aligned) ∧ u.stw.run = 0 ∧ u.stw.haltCause = 0) ∧
      (∀ r cause a, s.stw.state ≠ .halted → s.stw.haltAt = some (r, cause, a) → r.toNat ≤ (s.time.tread + 1).toNat →
        u.stw.state = .halted ∧ u.stw.haltCause = cause ∧ (u.time.kind = .halted ∨ u.time.kind = .settle)) ∧
      (s.stw.state ≠ .halted → (∀ x, s.stw.haltAt = some x → (s.time.tread + 1).toNat < x.1.toNat) →
        (holdInForce v = true → u.stw.state = s.stw.state ∧ u.stw.run = s.stw.run) ∧
        (∀ a, holdInForce v = false → slipFrom v = some a →
          (s.stw.run < s.stw.bound → u.stw.run = s.stw.run + 1 ∧ u.stw.state = s.stw.state) ∧
          (s.stw.bound ≤ s.stw.run → u.stw.state = .halted ∧ u.stw.haltCause = 1)) ∧
        (holdInForce v = false → slipFrom v = none → workUnfinished v = true →
          u.stw.state = .halted ∧ u.stw.haltCause = 2) ∧
        (holdInForce v = false → slipFrom v = none → workUnfinished v = false →
          u.stw.state = s.stw.state ∧ u.stw.run = 0))) ∧
  (∀ (p : Nat) (f : Flight) (s : State), (s.part p).flight = some f →
    ((s.part p).state = .running ∨ (s.part p).state = .draining →
      ((advanceFlights .normal s).part p).flight = some { f with pos := f.pos + 1 }) ∧
    (∀ k, k ≠ .normal → advanceFlights k s = s))

/-- BUDGET_EVALUATION: past the slip deadline, or while Halted, nothing is announced; before it a core, descriptor, layer or
sequence slot at risk announces a slip for the coming riser, once and with its cause, and with nothing at risk and no hold to
announce only the time moves and stalls are noted (R42 to R45, R49, R270, R307). -/
def Obligations.RiskAnnouncesASlip : Prop :=
  ∀ (us : Nat) (l : List Progress) (s u : State),
    u = noteStalls l { s with time := { s.time with ref := max s.time.ref (s.time.riserAt + 1400 * us) } } →
    s.serves = true →
    (s.time.period < us + 2 ∨ s.stw.state = .halted → Machine.exec (.budgetEvaluation us l) s = .next u) ∧
    (us + 2 ≤ s.time.period → s.stw.state ≠ .halted →
      tickRisks us l u ≠ [] ∨ mintRisks us l u ≠ [] ∨ seqRisks us l u ≠ [] →
      ∃ t c, Machine.exec (.budgetEvaluation us l) s = .next t ∧
        (BitVec.ofNat 48 (comingRiser s), c, fabAddr s) ∈ t.stw.slips ∧
        ((∀ x ∈ s.stw.slips, x.1 = BitVec.ofNat 48 (comingRiser s) → x.2.2 ≠ fabAddr s) →
          c = slipCause (tickRisks us l u) u ∧
          t.stw.slips = s.stw.slips ++ [(BitVec.ofNat 48 (comingRiser s), c, fabAddr s)]) ∧
        s.sameStores t ∧ t.programs = u.programs ∧ t.work = s.work) ∧
    (us + 2 ≤ s.time.period → s.stw.state ≠ .halted → tickRisks us l u = [] → mintRisks us l u = [] → seqRisks us l u = [] →
      (∀ e ∈ s.parts, partHolds e.2 = false) → Machine.exec (.budgetEvaluation us l) s = .next u)

/-! ## The fabric (R314 to R326, R330, R334 to R336) -/

/-- A link that greets sends its HELLO. A HELLO that passes the MAC counts for its sender, the second in a row from an address
makes the neighbour up where the link greets, and one with another boot epoch ends every connection to the address; 300 µs
without one make the neighbour down (R314, R321). The frame is sent under MACsec where no other link greets, so that none uses
up a packet number before it. -/
def Obligations.HelloesMakeNeighbours : Prop :=
  (∀ s : State, s.serves = true → ∃ t, Machine.exec .helloSend s = .next t ∧ t.apartFromSending = s.apartFromSending ∧
    (∀ n, n < 64 → greets n s = true → s.fab.enable = true → (s.link n).paused.contains 7 = false →
      (s.port (n / 4)).macsec = false ∨ (∀ m, m < 64 → greets m s = true → m = n) →
      Output.frame n (etherOf n (helloFrame n s) s) (helloFrame n s) ∈ t.out)) ∧
  (∀ (l : LinkNo) (f : Frame) (a : Half) (epoch : Word) (x : Neighbour) (k : Nat) (s : State), s.serves = true →
    (Instr.helloReceived l f).wellFormed = true → macPasses l f s = true → s.fab.enable = true → f.version = 1 →
    a = BitVec.ofNat 16 (u16 f.payload 0) → epoch = BitVec.ofNat 32 (u32 f.payload 4) → x = neighbourOf l s →
    k = (if x.addr = a then min 2 (x.hellos + 1) else 1) →
    (knownEpoch a s = none ∨ knownEpoch a s = some epoch →
      ∃ t, Machine.exec (.helloReceived l f) s = .next t ∧ t.apartFromSending = s.apartFromSending ∧
        (x.up = false ∨ (2 ≤ k ∧ greets l s = true) → neighbourOf l t =
          { addr := a, mac := f.rx.source, peerLink := byteAt f.payload 2, epoch := epoch, hellos := k,
            up := decide (2 ≤ k) && greets l s })) ∧
    (∀ e, knownEpoch a s = some e → e ≠ epoch → x.up = false →
      ∃ t, Machine.exec (.helloReceived l f) s = .next t ∧ ∀ c ∈ t.fab.conns, c.id.peer ≠ a)) ∧
  (∀ (l : LinkNo) (s : State), s.serves = true → ∃ t, Machine.exec (.neighbourTimeout l) s = .next t ∧
    (neighbourOf l t).up = false ∧ (neighbourOf l t).hellos = 0 ∧ t.apartFromSending = s.apartFromSending)

/-- Acknowledgements: an ACK that advances ends the frames before its number, one that repeats is counted, the timer sends what
is owed, and a connection whose frames stay unacknowledged sends them again: three times on a link, then on the next link, and
where no link is left, or none was up for four times RTO, it fails (R320, R321). A frame for another address goes on with one
hop less, and without a hop left is dropped (R316). -/
def Obligations.ConnectionsAcknowledgeAndResend : Prop :=
  (∀ (l : LinkNo) (f : Frame) (c : Conn) (left : List Sent) (s : State), s.serves = true →
    (Instr.ackReceived l f).wellFormed = true → s.hears l f = true → c = connOf (connIn f) s →
    left = c.unacked.filter (fun u => !newer f.ack u.frame.seq) →
    (left.length < c.unacked.length →
      ∃ u, Machine.exec (.ackReceived l f) s = .next (clearsRun u) ∧ u.apartFromSending = s.apartFromSending ∧
        (connOf (connIn f) u).lastAck = f.ack ∧ left <+: (connOf (connIn f) u).unacked ∧
        (c.queued = [] → connOf (connIn f) u =
          { c with unacked := left, lastAck := f.ack, repeats := 0, resends := 0, idle := 0, tried := [] })) ∧
    (left = c.unacked → c.unacked ≠ [] → f.ack = c.lastAck → c.repeats < 2 →
      ∃ u, Machine.exec (.ackReceived l f) s = .next (clearsRun u) ∧
        connOf (connIn f) u = { c with repeats := c.repeats + 1 } ∧ u.apartFromSending = s.apartFromSending)) ∧
  (∀ (id : ConnId) (s : State), s.serves = true →
    ((connOf id s).owed = 0 → Machine.exec (.ackTimer id) s = .next s) ∧
    ((connOf id s).owed ≠ 0 → ∃ t, Machine.exec (.ackTimer id) s = .next t ∧ (connOf id t).owed = 0 ∧
      t.apartFromSending = s.apartFromSending)) ∧
  (∀ (id : ConnId) (c : Conn) (s : State), s.serves = true → c = connOf id s →
    (c.unacked = [] → Machine.exec (.resendTimeout id) s = .next (clearsRun s)) ∧
    (c.unacked ≠ [] → id.peer = fabAddr s → Machine.exec (.resendTimeout id) s = .next (clearsRun (resendAll id s))) ∧
    (c.unacked ≠ [] → id.peer ≠ fabAddr s → linksTo id.peer s = [] →
      (c.idle < 3 → Machine.exec (.resendTimeout id) s = .next (clearsRun (setConn { c with idle := c.idle + 1 } s))) ∧
      (3 ≤ c.idle → Machine.exec (.resendTimeout id) s = .next (clearsRun (failConn id s)))) ∧
    (∀ n, c.unacked ≠ [] → id.peer ≠ fabAddr s → c.link = some n → n ∈ linksTo id.peer s →
      (c.resends < 3 →
        ∃ u, Machine.exec (.resendTimeout id) s = .next (clearsRun u) ∧ (connOf id u).unacked = c.unacked ∧
          u.apartFromSending = s.apartFromSending ∧
          ((s.port (n / 4)).macsec = false → (connOf id u).resends = c.resends + 1 ∧ (connOf id u).link = some n)) ∧
      (∀ m, 3 ≤ c.resends → nextLink n c.tried (linksTo id.peer s) = some m →
        ∃ u, Machine.exec (.resendTimeout id) s = .next (clearsRun u) ∧ (connOf id u).unacked = c.unacked ∧
          u.apartFromSending = s.apartFromSending ∧
          ((s.port (m / 4)).macsec = false → (connOf id u).resends = 0 ∧ (connOf id u).link = some m)) ∧
      (3 ≤ c.resends → nextLink n c.tried (linksTo id.peer s) = none →
        Machine.exec (.resendTimeout id) s = .next (clearsRun (failConn id s))))) ∧
  (∀ (l : LinkNo) (f g : Frame) (s : State), s.serves = true → (Instr.frameRelay l f).wellFormed = true →
    macPasses l f s = true → s.fab.enable = true → f.dst ≠ fabAddr s → f.version = 1 → routed f.dst s = true →
    g = { f with hops := f.hops - 1, rx := noEther } →
    (f.hops = 0 → ∃ t, Machine.exec (.frameRelay l f) s = .next t ∧ t.apartFromSending = s.apartFromSending ∧
      t.out = s.out) ∧
    (∀ m, f.hops ≠ 0 → pickLink { peer := f.dst, cls := f.cls, stripe := f.stripe } (linksTo f.dst s) = some m →
      (s.link m).paused.contains (classPriority f.cls) = false →
      ∃ (t : State) (h : Ether), Machine.exec (.frameRelay l f) s = .next t ∧ t.apartFromSending = s.apartFromSending ∧
        Output.frame m h g ∈ t.out ∧
        ((s.port (m / 4)).macsec = false → h = etherOf m g s ∧ t.out = s.out ++ [.frame m h g])))

/-- REQs are executed once: a remote ADD of an open tally adds and keeps its answer, one of a closed tally or of none changes no
tally and keeps the answer NOT_OWNER, a REQ that is answered already is not executed again, and READY and COUNT reach the started
CLEAR of their group, rank and tag or are kept until it starts; one of a group that no partition has ends a CLEAR that names its
tag with another group's digest, or changes nothing; a RESP ends the request that waits under its tag (R106, R322, R326, R329,
R330, R333, R336; which CLEAR a foreign digest ends is the model's choice, assumption log 14). -/
def Obligations.RequestsAreExecutedOnce : Prop :=
  (∀ (l : LinkNo) (f : Frame) (k : Nat) (s : State), s.serves = true → (Instr.remoteAddReq l f).wellFormed = true →
    k = u16 f.payload 0 →
    (s.takesRequest l f = true → k < 8192 → (s.tally k).open_ = true →
      ∃ (u : State) (v : Word), Machine.exec (.remoteAddReq l f) s = .next (tallyWakes u) ∧
        v = (s.tally k).value + BitVec.ofNat 32 (u32 f.payload 8) ∧ u.tally k = { value := v, open_ := true } ∧
        (∀ j, j ≠ k → u.tally j = s.tally j) ∧ (f.txn, 0, v.toNat) ∈ (connOf (connIn f) u).kept ∧ s.sameStores u) ∧
    (s.takesRequest l f = true → 8192 ≤ k ∨ (s.tally k).open_ = false →
      ∃ u, Machine.exec (.remoteAddReq l f) s = .next (tallyWakes u) ∧ u.tallies = s.tallies ∧
        (f.txn, 0x12, 0) ∈ (connOf (connIn f) u).kept ∧ s.sameStores u) ∧
    (s.takesInOrder l f = true → (connOf (connIn f) s).kept.any (fun e => e.1 == f.txn) = true →
      ∃ u, Machine.exec (.remoteAddReq l f) s = .next (tallyWakes u) ∧ u.apartFromSending = s.apartFromSending)) ∧
  (∀ (l : LinkNo) (f : Frame) (count : Bool) (c : Instr) (digest : Word) (sender rank : Nat) (s : State), s.serves = true →
    (count = false ∧ c = .readyReq l f) ∨ (count = true ∧ c = .countReq l f) → c.wellFormed = true →
    s.takesRequest l f = true → digest = BitVec.ofNat 32 (u32 f.payload 4) → sender = byteAt f.payload 1 →
    rank = byteAt f.payload 2 →
    (∀ p w, groupIn digest rank s = some p → clearOf digest rank f.operation s = some w →
      ∃ (u : State) (v : Work), Machine.exec c s = .next (clearsRun u) ∧ u.work? w.id = some v ∧
        v = (if count then { w with counts := tset w.counts sender (u64 f.payload 8) }
          else if w.opcode = 0x32 ∧ w.gather = false ∧ (tget? w.readys sender).isSome = true then
            { w with readys2 := tset w.readys2 sender (u64 f.payload 8) }
          else { w with readys := tset w.readys sender (u64 f.payload 8) }) ∧
        u.parts = s.parts ∧ s.sameStores u) ∧
    (∀ p, groupIn digest rank s = some p → clearOf digest rank f.operation s = none →
      ∃ u, Machine.exec c s = .next (clearsRun u) ∧ (u.part p).early = (s.part p).early ++
        [{ digest := digest, tag := f.operation, rank := sender, count := count, value := u64 f.payload 8 }] ∧
        u.work = s.work ∧ s.sameStores u) ∧
    (groupIn digest rank s = none → mismatched f.operation digest f.src sender rank s = none →
      ∃ u, Machine.exec c s = .next (clearsRun u) ∧ u.apartFromSending = s.apartFromSending) ∧
    (∀ w, groupIn digest rank s = none → mismatched f.operation digest f.src sender rank s = some w →
      ∃ u, Machine.exec c s = .next (clearsRun u) ∧ u.work? w.id = none ∧ u.parts = s.parts ∧ s.sameStores u)) ∧
  (∀ (l : LinkNo) (f : Frame) (s : State), s.serves = true → (Instr.respReceived l f).wellFormed = true →
    s.takesInOrder l f = true →
    (∀ r, s.fab.requests.find? (fun r => r.txn == f.txn && r.conn == reqConn f.src && !r.fenced) = some r →
      ∃ u, Machine.exec (.respReceived l f) s = .next (clearsRun (endRequest r (byteAt f.payload 0)
          (if byteAt f.payload 0 = 0 then 0 else respDetail r.waiter (leNat (sub f.payload 1 8)))
          (leNat (sub f.payload 1 8)) u)) ∧
        u.fab.requests = s.fab.requests ∧ u.apartFromSending = s.apartFromSending) ∧
    (s.fab.requests.find? (fun r => r.txn == f.txn && r.conn == reqConn f.src && !r.fenced) = none →
      ∃ u, Machine.exec (.respReceived l f) s = .next (clearsRun u) ∧ u.apartFromSending = s.apartFromSending))

/-- DATA of a collective lands at the address that this member named for its sender and counts for its rank, and without a started
CLEAR changes no memory; DATA of a queue fills the slot of its push, which is complete with a frame shorter than 8,192 bytes or
a full entry; a CREDIT gives its sender credits, at most the depth (R330, R333 to R335). The end of a queue message, and of
several partitions the one that a queue frame is for, are the model's choices (assumption log 14). -/
def Obligations.DataLandsWhereItWasNamed : Prop :=
  (∀ (l : LinkNo) (f : Frame) (p : Nat) (s : State), s.serves = true →
    (Instr.collectiveData l f).wellFormed = true → s.takesInOrder l f = true →
    groupIn f.txn f.receiverRank s = some p →
    (∀ w, clearOf f.txn f.receiverRank f.operation s = some w →
      ∃ u, Machine.exec (.collectiveData l f) s = .next (clearsRun u) ∧
        u.hbm = s.hbm.write (landAddress w (groupOf w s) f.senderRank + 64 * f.offset.toNat) f.payload ∧
        u.work? w.id = some { w with
          arrived := tset w.arrived f.senderRank (tget 0 w.arrived f.senderRank + f.payload.length) } ∧
        u.parts = s.parts ∧ u.pads = s.pads) ∧
    (clearOf f.txn f.receiverRank f.operation s = none →
      ∃ u, Machine.exec (.collectiveData l f) s = .next (clearsRun u) ∧ u.apartFromSending = s.apartFromSending)) ∧
  (∀ (l : LinkNo) (f : Frame) (p n : Nat) (x : Queue) (s : State), s.serves = true →
    (Instr.queueData l f).wellFormed = true → s.takesInOrder l f = true → n = f.operation.toNat →
    queueIn true f (takeAck (connIn f) f.ack (macReceive l f s)) = some (p, x) → queueOf p n s = some x →
    ∃ (u : State) (y : Queue), Machine.exec (.queueData l f) s = .next (clearsRun u) ∧ queueOf p n u = some y ∧
      u.hbm = s.hbm.write (x.buffer + (x.begun + x.complete.length) % x.depth * x.entryBytes + 64 * f.offset.toNat)
        f.payload ∧
      (f.payload.length < 8192 ∨ x.arrived + f.payload.length = x.entryBytes →
        y.arrived = 0 ∧ y.complete = x.complete ++ [x.arrived + f.payload.length]) ∧
      (8192 ≤ f.payload.length → x.arrived + f.payload.length ≠ x.entryBytes →
        y.arrived = x.arrived + f.payload.length ∧ y.complete = x.complete)) ∧
  (∀ (l : LinkNo) (f : Frame) (p n : Nat) (x : Queue) (s : State), s.serves = true →
    (Instr.creditReceived l f).wellFormed = true → s.takesInOrder l f = true → n = f.operation.toNat →
    queueIn false f (takeAck (connIn f) f.ack (macReceive l f s)) = some (p, x) → queueOf p n s = some x →
    ∃ u, Machine.exec (.creditReceived l f) s = .next (clearsRun u) ∧
      queueOf p n u = some { x with credits := min x.depth (x.credits + u32 f.payload 0) } ∧ s.sameStores u)

/-! ## Ports and links (R343 to R350, R353, R357, R358) -/

/-- The bring-up of a link goes from light to lock to up, and a loss of cause 1 to 4 ends it; an interval of 1 ms leaves its power
readings, and on a link that has lock FEC_DEGRADE and a loss above the threshold; the lasers of an engine take its ports with
them; MAC_PORT_CTL enables and disables a port and changes its mode only while it is disabled; clearing VALID of a channel in use
removes it (R343 to R345, R353, R358, R362; Tables 12-3, 12-9 and 15-4). -/
def Obligations.PortsAndLinksFollowTheirEvents : Prop :=
  (∀ (n : LinkNo) (s : State), s.serves = true →
    ((s.link n).stage = .waiting →
      Machine.exec (.signalDetected n) s = .next (s.modLink n (fun l => { l with stage := .signal }))) ∧
    ((s.link n).stage = .signal →
      Machine.exec (.alignmentMarkerLock n) s =
        .next (s.modLink n (fun l => { l with stage := .locked, localFault := false }))) ∧
    ((s.link n).stage = .locked →
      ∃ t, Machine.exec (.linkUp n) s = .next t ∧
        t.link n = { s.link n with stage := .up, remoteFault := false } ∧ (∀ m, m ≠ n.val → t.link m = s.link m) ∧
        t.apartFromSending = s.apartFromSending) ∧
    (∀ (cause : Fin 5) (lane : Option (Fin 4)), cause ≠ 0 → (s.link n).stage ≠ .dark → (s.link n).stage ≠ .waiting →
      ∃ t, Machine.exec (.linkDown n cause lane) s = .next t ∧
        ((t.link n).stage = .dark ∨ (t.link n).stage = .waiting) ∧
        ((s.link n).stage = .up → (neighbourOf n t).up = false) ∧
        s.sameStores t ∧ t.parts = s.parts ∧ t.work = s.work) ∧
    (∀ (cor unc : Nat) (symbols : List Nat) (powers : List (Half × Half)) (remote : Bool),
      symbols.length = 4 → powers.length ≤ 4 →
      ((s.link n).stage = .locked ∨ (s.link n).stage = .up →
        ∃ t, Machine.exec (.fecInterval n cor unc symbols powers remote) s = .next t ∧ (t.link n).powers = powers ∧
          (t.link n).fecDegrade = (decide ((s.port (n / 4)).fecUnc.toNat < unc) ||
            symbols.any (fun x => decide ((s.port (n / 4)).fecSym.toNat < x))) ∧
          ((s.port (n / 4)).fecUnc.toNat < unc → (t.link n).stage = .dark ∨ (t.link n).stage = .waiting) ∧
          s.sameStores t ∧ t.parts = s.parts) ∧
      ((s.link n).stage ≠ .locked → (s.link n).stage ≠ .up →
        Machine.exec (.fecInterval n cor unc symbols powers remote) s =
          .next (s.modLink n (fun l => { l with powers := powers, remoteFault := remote && l.stage != .dark }))))) ∧
  (∀ (e : Fin 4) (temp : Half) (s : State), s.powered = true →
    (s.pwr.opticsOff.contains e.val = false →
      ∃ t, Machine.exec (.opticsOff e temp) s = .next t ∧
        t.pwr = { s.pwr with opticsOff := addOnce s.pwr.opticsOff e, emergSince := true } ∧
        (∀ n ∈ engineLinks e, (t.link n).stage = .dark) ∧
        t.apartFromSending = ({ s with pwr := t.pwr }).apartFromSending) ∧
    (s.pwr.opticsOff.contains e.val = true →
      ∃ t, Machine.exec (.opticsOn e temp) s = .next t ∧
        t.pwr = { s.pwr with opticsOff := dropAll s.pwr.opticsOff e } ∧
        (∀ n ∈ engineLinks e, (t.link n).stage =
          if (s.port (n / 4)).enable && linkExists n s then .waiting else .dark) ∧
        t.apartFromSending = ({ s with pwr := t.pwr }).apartFromSending)) ∧
  (∀ (q : PortNo) (v : Word) (c : Instr) (s : State), c ∈ [Instr.portEnable q v, .portDisable q v] →
    s.dev.unbound = false → cxlUp s = true → portsTrained s = true → bits v.toNat 24 8 = 0 → bits v.toNat 12 8 = 0 →
    bits v.toNat 6 3 = 0 → bits v.toNat 2 2 = 0 →
    ∃ t, Machine.exec c s = .next t ∧ (t.port q).enable = bit v.toNat 0 ∧ (t.port q).wdEn = bit v.toNat 5 ∧
      ((s.port q).enable = true → (t.port q).breakout = (s.port q).breakout ∧ (t.port q).macsec = (s.port q).macsec ∧
        (t.port q).flow = (s.port q).flow) ∧
      ((s.port q).enable = false → (t.port q).breakout = bit v.toNat 4 ∧ (t.port q).macsec = bit v.toNat 9 ∧
        (bits v.toNat 10 2 ≠ 3 → (t.port q).flow = bits v.toNat 10 2)) ∧
      ((s.port q).enable = true → bit v.toNat 0 = false → ∀ n ∈ portLinks q, (t.link n).stage = .dark) ∧
      ((s.port q).enable = false → bit v.toNat 0 = true → ∀ n ∈ portLinks q, (t.link n).stage =
        if linkExists n t && engineOn n s then .waiting else .dark) ∧
      t.apartFromSending = s.apartFromSending) ∧
  (∀ (q : PortNo) (i : Fin 16) (v : Word) (s : State), s.dev.unbound = false → cxlUp s = true → portsTrained s = true →
    (channelOf q i s).valid = true → bit v.toNat 31 = false → bits v.toNat 16 9 = 0 → bits v.toNat 0 4 = 0 →
    ∃ t, Machine.exec (.secureChannelRemove q i v) s = .next t ∧ channelOf q i t = removedChannel (channelOf q i s) ∧
      t.apartFromSending = s.apartFromSending)

/-- PAUSE under FLOW 1 and PFC under FLOW 2 stop and resume priorities, except those in storm; the pause time ends a pause; a
port whose buffer reaches XOFF, or stays above XON after it, sends its flow-control frame on every link that is up, and one with
quanta 0 once it falls to XON; a pause that lasts puts its priorities in storm, from which 10 ms without a pause bring them
back. LLDPDUs are sent, kept and forgotten. A frame that fails a check of Table 12-4 changes counters only, that of its first
failing check by one (R346 to R350, R357; the occupancy comes with the command, assumption log 111). -/
def Obligations.FlowControlAndFrameChecks : Prop :=
  (∀ (n : LinkNo) (quanta : Half) (s : State), s.serves = true →
    ((s.port (n / 4)).flow ≠ 1 →
      Machine.exec (.pauseFrame n quanta) s = .next ((countRx n 64 s).bump (kLink n 0x84))) ∧
    ((s.port (n / 4)).flow = 1 → ∃ t, Machine.exec (.pauseFrame n quanta) s = .next t ∧
      (quanta ≠ 0 → t.out = s.out ∧
        ∀ p, p < 8 → (p ∈ (t.link n).paused ↔ p ∈ (s.link n).paused ∨ p ∉ (s.link n).storm)) ∧
      (quanta = 0 → ∀ p, p < 8 → p ∉ (t.link n).paused) ∧ t.apartFromSending = s.apartFromSending)) ∧
  (∀ (n : LinkNo) (enable : Byte) (quanta : List Half) (s : State), s.serves = true → quanta.length = 8 →
    ((s.port (n / 4)).flow ≠ 2 →
      Machine.exec (.pfcFrame n enable quanta) s = .next ((countRx n 64 s).bump (kLink n 0x84))) ∧
    ((s.port (n / 4)).flow = 2 → ∃ t, Machine.exec (.pfcFrame n enable quanta) s = .next t ∧
      (∀ p, p < 8 → bit enable.toNat p = false → (p ∈ (t.link n).paused ↔ p ∈ (s.link n).paused)) ∧
      (∀ p, p < 8 → bit enable.toNat p = true → quanta.getD p 0 = 0 → p ∉ (t.link n).paused) ∧
      (∀ p, p < 8 → bit enable.toNat p = true → quanta.getD p 0 ≠ 0 →
        (p ∈ (t.link n).paused ↔ p ∈ (s.link n).paused ∨ p ∉ (s.link n).storm)) ∧
      t.apartFromSending = s.apartFromSending)) ∧
  (∀ (n : LinkNo) (p : Fin 8) (s : State), s.serves = true →
    (∃ t, Machine.exec (.pauseExpired n p) s = .next t ∧
      (∀ x, x ∈ (t.link n).paused ↔ x ∈ (s.link n).paused ∧ x ∉ pauseSet n p s) ∧
      t.apartFromSending = s.apartFromSending) ∧
    ((s.port (n / 4)).wdEn = true → p.val ∈ (s.link n).paused →
      ∃ t, Machine.exec (.pauseStorm n p) s = .next t ∧
        (∀ x ∈ pauseSet n p s, x ∈ (t.link n).storm ∧ x ∉ (t.link n).paused) ∧ (neighbourOf n t).up = false ∧
        t.apartFromSending = s.apartFromSending) ∧
    Machine.exec (.stormEnd n p) s =
      .next (s.modLink n (fun l => { l with storm := l.storm.filter (fun x => !(pauseSet n p s).contains x) }))) ∧
  (∀ (q : PortNo) (occupancy : Nat) (p : Port) (full : Nat) (on : Bool) (s : State), s.serves = true → p = s.port q →
    full = min occupancy bufferBytes →
    on = (if p.xoffSent then decide (1024 * p.xon.toNat < full) else decide (1024 * p.xoff.toNat ≤ full)) →
    ∃ t, Machine.exec (.xoffRepeat q occupancy) s = .next t ∧ (t.port q).occupancy = full ∧
      (p.flow ≠ 0 → (t.port q).xoffSent = on) ∧
      t.out = s.out ++ (if p.flow = 0 ∨ (on = false ∧ p.xoffSent = false) then [] else
        ((portLinks q).filter (fun n => (s.link n).stage == .up)).map (fun n =>
          .flowControl n (p.flow == 2) (if p.flow = 2 then [4, 5, 6] else []) (if on then 0xFFFF else 0))) ∧
      { t with out := s.out, cnt := s.cnt, ports := s.ports } = s) ∧
  (∀ (n : LinkNo) (s : State), s.serves = true →
    ((s.link n).lldpTx = true → (s.link n).stage = .up → ∃ t, Machine.exec (.lldpSend n) s = .next t ∧
      t.out = s.out ++ [.lldpdu n (lldpdu n)] ∧ { t with out := s.out, cnt := s.cnt } = s) ∧
    ((s.link n).lldpTx = false ∨ (s.link n).stage ≠ .up → Machine.exec (.lldpSend n) s = .next s) ∧
    (∀ bytes, ∃ t, Machine.exec (.lldpduReceived n bytes) s = .next t ∧ (t.link n).lldpLen = min 1536 bytes.length ∧
      (t.link n).lldp.take (min 1536 bytes.length) = bytes.take 1536 ∧ (∀ m, m ≠ n.val → t.link m = s.link m) ∧
      { t with links := s.links, cnt := s.cnt } = s) ∧
    Machine.exec (.lldpTtlExpiry n) s = .next (s.modLink n (fun l => { l with lldpLen := 0 }))) ∧
  (∀ (n : LinkNo) (f : EthFrame) (s : State), s.serves = true →
    ∃ t, Machine.exec (.frameDrop n f) s = .next t ∧ { t with cnt := s.cnt } = s ∧
      (f.length < 64 → t.counter (kLink n 0x7C) = s.counter (kLink n 0x7C) + 1) ∧
      (9216 < f.length → t.counter (kLink n 0x80) = s.counter (kLink n 0x80) + 1) ∧
      (64 ≤ f.length → f.length ≤ 9216 → f.fcsOk = false → t.counter (kLink n 0x78) = s.counter (kLink n 0x78) + 1) ∧
      (∀ off, dropCounter n f s = some off → t.counter (kLink n off) = s.counter (kLink n off) + 1) ∧
      (dropCounter n f s = none → t = s))

/-! ## The host attachment (R396, R397, R402 to R405) -/

/-- A module trains in Boot with the half-modules whose lane tests pass; one with more replays than RETRY_LIM, or with an
error on its sideband, retrains where it may and comes back at the width that the tests leave. A snoop is answered; the HDM
range reads and writes HBM once its decoder is committed, and drops a write to HBM that is out of service (R396, R397, R402 to
R405, R471). -/
def Obligations.HostModulesTrainAndReachHbm : Prop :=
  (∀ (m : ModuleNo) (h0 h1 : Bool) (s : State), s.dev.unbound = false →
    (∀ h ∈ moduleHalves m, { type := 5, index := h } ∉ s.flt.retired.map Retired.res) →
    (s.dev.state = .boot → moduleWidth m s = 0 →
      ∃ t, Machine.exec (.ucieTrainingEnd m h0 h1) s = .next t ∧ (2 * m.val ∈ t.host.halves ↔ h0 = true) ∧
        (2 * m.val + 1 ∈ t.host.halves ↔ h1 = true) ∧ s.sameStores t ∧ t.parts = s.parts) ∧
    (∀ w, tget? s.host.retraining m = some w →
      ∃ t, Machine.exec (.ucieRetrainEnd m h0 h1) s = .next t ∧ tget? t.host.retraining m = none ∧
        (2 * m.val ∈ t.host.halves ↔ h0 = true) ∧ (2 * m.val + 1 ∈ t.host.halves ↔ h1 = true) ∧ s.sameStores t ∧
        t.parts = s.parts)) ∧
  (∀ (m : ModuleNo) (replays : Nat) (err lanes0 lanes1 : Bool) (s : State), s.dev.unbound = false →
    (mayRetrain m s = true → err = true ∨ (s.regs.hstRetryLim ≠ 0 ∧ s.regs.hstRetryLim.toNat < replays) →
      ∃ t, Machine.exec (.ucieRetrain m replays err lanes0 lanes1) s = .next t ∧ moduleWidth m t = 0 ∧
        tget? t.host.retraining m = some (moduleWidth m s) ∧ s.sameStores t ∧ t.parts = s.parts) ∧
    (mayRetrain m s = false ∨ (err = false ∧ (s.regs.hstRetryLim = 0 ∨ replays ≤ s.regs.hstRetryLim.toNat)) →
      Machine.exec (.ucieRetrain m replays err lanes0 lanes1) s = .next (s.bump 0x0B0010 replays))) ∧
  (∀ (line : Nat) (s : State), s.dev.unbound = false → cxlUp s = true →
    Machine.exec (.hostSnoop line) s = .next (s.emit (.snoopAnswer line))) ∧
  (∀ (base : Option Nat) (s : State), s.dev.unbound = false → cxlUp s = true →
    Machine.exec (.hdmDecoderCommit base) s = .next { s with host := { s.host with hdm := base } }) ∧
  (∀ (a base : Nat) (s : State), s.dev.unbound = false → memoryActive s = true → s.host.hdm = some base → base % 64 = 0 →
    a % 64 = 0 → a < 2 ^ 40 →
    (∃ t, Machine.exec (.hdmAccess (base + a) none) s = .next t ∧
      t.out = s.out ++ [.hdmData (hbmRead a 64 s) (hbmPoisoned a 64 s)] ∧ a / 64 ∈ t.host.hostLines ∧
      { t with out := s.out, host := s.host } = s) ∧
    (∀ bs : Bytes, bs.length = 64 → a + 64 ≤ hbmUsable s →
      ∃ t, Machine.exec (.hdmAccess (base + a) (some bs)) s = .next t ∧ t.hbm = s.hbm.write a bs ∧
        hbmPoisoned a 64 t = false ∧ t.host = s.host ∧ t.out = s.out ∧ t.vault = s.vault ∧ t.pads = s.pads ∧
        t.bufs = s.bufs ∧ t.parts = s.parts) ∧
    (∀ bs : Bytes, bs.length = 64 → hbmUsable s < a + 64 →
      Machine.exec (.hdmAccess (base + a) (some bs)) s = .next s))

/-! ## Temperature, droop and power (R419 to R423, R426) -/

/-- Stretches and throttles begin and end for their gallery or unit; a change of the stretch level that no droop covers, and the
end of a droop stretch, make the gallery's active arrays ramp up again, which is counted; a droop stretch is counted, not
announced; an estimate is kept with its peaks, and new gains lie between 0.80 and 1.25 (R147, R419 to R423). -/
def Obligations.ReflexesStretchAndThrottle : Prop :=
  (∀ (g : GalleryNo) (s : State), s.powered = true →
    (s.pwr.tempStretch.contains g.val = false → Machine.exec (.galleryTempStretch g) s =
      .next (throttleEvent g true 1 (changeStretch g (fun p => { p with
        tempStretch := addOnce p.tempStretch g, stretched := true, emergSince := true,
        touched := addOnce p.touched g }) s))) ∧
    (s.pwr.currentStretch.contains g.val = false → Machine.exec (.galleryCurrentStretch g) s =
      .next (throttleEvent g true 2 (changeStretch g (fun p => { p with
        currentStretch := addOnce p.currentStretch g, stretched := true, emergSince := true,
        touched := addOnce p.touched g }) s))) ∧
    (∀ (f : Power → Power) (n : Nat), n = (s.cores.filter (fun c => c.2.active && galleryOfCore c.1 == g.val)).length →
      (changeStretch g f s).pwr = f s.pwr ∧ { changeStretch g f s with pwr := s.pwr, cnt := s.cnt } = s ∧
      (changeStretch g f s).counter (kGal 4 3 (2048 * g)) = s.counter (kGal 4 3 (2048 * g)) +
        (if s.pwr.droopStretch.contains g.val || stretchedAt g s.pwr == stretchedAt g (f s.pwr) then 0 else n)) ∧
    (s.pwr.droopStretch.contains g.val = false → ∃ t, Machine.exec (.droopStretch g) s = .next t ∧
      t.pwr.droopStretch = addOnce s.pwr.droopStretch g ∧ t.counter (0x0C0020 + 4 * g.val) =
        s.counter (0x0C0020 + 4 * g.val) + 1 ∧ { t with pwr := s.pwr, cnt := s.cnt } = s) ∧
    (s.pwr.droopStretch.contains g.val = true → ∃ t, Machine.exec (.droopStretchEnd g) s = .next t ∧
      t.pwr = { s.pwr with droopStretch := dropAll s.pwr.droopStretch g } ∧ t.counter (kGal 4 3 (2048 * g)) =
        s.counter (kGal 4 3 (2048 * g)) +
          (s.cores.filter (fun c => c.2.active && galleryOfCore c.1 == g.val)).length ∧
      { t with pwr := s.pwr, cnt := s.cnt } = s) ∧
    (s.pwr.droopStretch.contains g.val = false → Machine.exec (.droopStretchEnd g) s = .next s) ∧
    (∀ us, s.pwr.tempStretch.contains g.val = true → ∃ t, Machine.exec (.stretchEnd g false us) s = .next t ∧
      t.pwr = { s.pwr with tempStretch := dropAll s.pwr.tempStretch g } ∧
      t.apartFromReports = ({ s with pwr := t.pwr }).apartFromReports) ∧
    (∀ us, s.pwr.currentStretch.contains g.val = true → ∃ t, Machine.exec (.stretchEnd g true us) s = .next t ∧
      t.pwr = { s.pwr with currentStretch := dropAll s.pwr.currentStretch g } ∧
      t.apartFromReports = ({ s with pwr := t.pwr }).apartFromReports)) ∧
  (∀ s : State, s.powered = true →
    (s.pwr.mintThrottle = false → Machine.exec .mintDieThrottle s =
      .next (throttleEvent 2 true 1 { s with pwr := { s.pwr with mintThrottle := true, emergSince := true } })) ∧
    (s.pwr.mintThrottle = true → Machine.exec (.throttleEnd 0) s =
      .next (throttleEvent 2 false 1 { s with pwr := { s.pwr with mintThrottle := false } })) ∧
    (∀ n : Fin 8, s.pwr.hbmThrottle.contains n.val = false → Machine.exec (.memoryStackThrottle false n) s =
      .next (throttleEvent (0x10 + n) true 1 { s with pwr := { s.pwr with
        hbmThrottle := addOnce s.pwr.hbmThrottle n, emergSince := true } })) ∧
    (∀ n : Fin 8, s.pwr.vaultThrottle.contains n.val = false → Machine.exec (.memoryStackThrottle true n) s =
      .next (throttleEvent (0x20 + n) true 1 { s with pwr := { s.pwr with
        vaultThrottle := addOnce s.pwr.vaultThrottle n, emergSince := true } })) ∧
    (∀ (u : Fin 17) (n : Fin 8), u.val = n.val + 1 → s.pwr.hbmThrottle.contains n.val = true →
      Machine.exec (.throttleEnd u) s = .next (throttleEvent (0x10 + n) false 1 { s with pwr := { s.pwr with
        hbmThrottle := dropAll s.pwr.hbmThrottle n } })) ∧
    (∀ (u : Fin 17) (n : Fin 8), u.val = n.val + 9 → s.pwr.vaultThrottle.contains n.val = true →
      Machine.exec (.throttleEnd u) s = .next (throttleEvent (0x20 + n) false 1 { s with pwr := { s.pwr with
        vaultThrottle := dropAll s.pwr.vaultThrottle n } }))) ∧
  (∀ (e : PowerEstimate) (s : State), s.powered = true → e.temps.length = 92 →
    ∃ t, Machine.exec (.estimateTick e) s = .next t ∧ t.pwr.last = e ∧ { t with pwr := s.pwr } = s ∧
      (∀ i, i < 92 → tget 0 t.pwr.temps i = e.temps.getD i 0) ∧ t.pwr.peakOther = max s.pwr.peakOther (1000 * e.other) ∧
      t.pwr.vf = s.pwr.vf ∧ t.pwr.gains = s.pwr.gains) ∧
  (∀ (a b : Nat) (s : State), s.serves = true → s.fw.tellerDown = false → s.fw.tellerRestarting = false →
    s.fw.handover = none → s.pwr.newGains.length = 2 →
    ∃ t, Machine.exec (.calibrationWindow a b) s = .next t ∧
      t.pwr = { s.pwr with newGains := [max 800 (min 1250 a), max 800 (min 1250 b)] } ∧
      t.apartFromReports = ({ s with pwr := t.pwr }).apartFromReports)

/-! ## Firmware and identity (R434 to R458) -/

/-- FW_LOAD makes its slot Loading with the image's bytes once a module is up to read them, and the check makes it Valid or Invalid; a handover that reports
ready makes the new image Active and the boot image, one that does not leaves the slot Invalid and brings the gains back. The
third watchdog expiry within one hour leaves the teller down, an earlier one restarts it (R434, R437, R443, R445, R446). -/
def Obligations.FirmwareImagesAndTeller : Prop :=
  (∀ (n : RingNo) (f : Fetched) (k : Nat) (image : Bytes) (s : State), s.serves = true → headOf 0x87 n s = some f →
    k = byteAt f.bytes 16 → touchesHdm (u64 f.bytes 24) (u32 f.bytes 32) s = false →
    (slotLoads (slotOf k s) = true → s.fw.tellerDown = false → s.host.halves = [] →
      Machine.exec (.fwLoad n image) s = .next s) ∧
    (slotLoads (slotOf k s) = true → s.fw.tellerDown = false → image.length = u32 f.bytes 32 → s.host.halves ≠ [] →
      ∃ t, Machine.exec (.fwLoad n image) s = .next t ∧ slotOf k t = { state := .loading, image := image } ∧
        (k, n.val, f.tag) ∈ t.fw.loading ∧ s.sameStores t ∧ t.parts = s.parts) ∧
    (slotLoads (slotOf k s) = false →
      Machine.exec (.fwLoad n image) s = .next (rejectHead n f (badState (slotOf k s).state.code) s)) ∧
    (slotLoads (slotOf k s) = true → s.fw.tellerDown = true →
      Machine.exec (.fwLoad n image) s = .next (finish n f.tag 0x3F 0x10 0 0 (popHead n s)))) ∧
  (∀ (k : Fin 2) (rn : Nat) (tag : Word) (writeOk sigOk : Bool) (s : State), s.serves = true →
    s.fw.loading.find? (fun e => e.1 == k.val) = some (k.val, rn, tag) → tellerUp s = true → s.fw.handover = none →
    ∃ t, Machine.exec (.fwImageChecked k writeOk sigOk) s = .next t ∧ (slotOf k t).image = (slotOf k s).image ∧
      (slotOf k t).state =
        (if writeOk = true ∧ imageReason (slotOf k s).image sigOk s = 0 then .valid else .invalid) ∧
      (∀ e ∈ t.fw.loading, e.1 ≠ k.val) ∧ s.sameStores t ∧ t.parts = s.parts) ∧
  (∀ (k : Fin 2) (rn : Nat) (tag : Word) (s : State), s.serves = true → s.fw.handover = some (k.val, rn, tag) →
    (warmReason k s = 0 →
      ∃ t, Machine.exec .handoverReady s = .next t ∧ (slotOf k t).state = .active ∧ t.fw.active = some k.val ∧
        t.fw.bootSlot = k ∧ t.fw.handover = none ∧
        (∀ a : Fin 2, s.fw.active = some a.val → a ≠ k → (slotOf a t).state = .valid) ∧ s.sameStores t ∧
        t.parts = s.parts) ∧
    ∃ t, Machine.exec .handoverTimeout s = .next t ∧ (slotOf k t).state = .invalid ∧ t.fw.handover = none ∧
      t.pwr = { s.pwr with gains := s.fw.handoverBlock } ∧ t.fw.active = s.fw.active ∧ s.sameStores t ∧
      t.parts = s.parts) ∧
  (∀ s : State, s.serves = true → tellerUp s = true →
    ∃ t, Machine.exec .tellerWatchdogExpiry s = .next t ∧ s.sameStores t ∧
      ((s.fw.restarts.filter (fun x => operatingNow s < x + 3600000)).length < 2 →
        t.fw.tellerRestarting = true ∧ t.fw.tellerDown = false ∧ t.fw.loading = s.fw.loading) ∧
      (2 ≤ (s.fw.restarts.filter (fun x => operatingNow s < x + 3600000)).length →
        t.fw.tellerDown = true ∧ t.fw.tellerRestarting = false ∧ t.fw.loading = [])) ∧
  (∀ s : State, s.serves = true → s.fw.tellerRestarting = true →
    ∃ t, Machine.exec .tellerRestartDone s = .next t ∧ t.fw.tellerRestarting = false ∧ s.sameStores t ∧ t.parts = s.parts)

/-- FW_QUOTE joins the batch while a leaf is left; a batch closes with up to 64 quotes and their entries; its signature takes
the next leaf, which both copies of the counter hold, and its quotes go to HBM or to the host, where they wait while no module
is up; a failed counter write releases none; while the traversal state is rebuilt nothing is signed (R400, R453 to R458). -/
def Obligations.QuotesAreSignedOnceEach : Prop :=
  (∀ (n : RingNo) (f : Fetched) (s : State), s.serves = true → headOf 0x8A n s = some f →
    (∀ i, leafIndex s = some i → i < leafCount →
      ∃ t, Machine.exec (.fwQuote n) s = .next t ∧ t.fw = { s.fw with batch := s.fw.batch ++ [{
        ring := n, tag := f.tag, part := (s.ring n).owner, nonce := sub f.bytes 16 32,
        addr := BitVec.ofNat 64 (u64 f.bytes 48) }] } ∧ { t with fw := s.fw } = popHead n s) ∧
    (∀ i, leafIndex s = some i → leafCount ≤ i →
      Machine.exec (.fwQuote n) s = .next (finish n f.tag 0x32 1 0 0 (popHead n s))) ∧
    (leafIndex s = none → Machine.exec (.fwQuote n) s = .next (finish n f.tag 0x32 2 0 0 (popHead n s)))) ∧
  (∀ s : State, s.serves = true →
    (s.fw.batch ≠ [] → s.fw.handover = none → s.fw.traversalOk = true → s.fw.closed = [] →
      Machine.exec .quoteBatchClose s = .next { s with fw := { s.fw with
        batch := s.fw.batch.drop 64, closed := (s.fw.batch.take 64).map (fun q => (q, quoteEntry q s)) } }) ∧
    (s.fw.batch = [] ∨ s.fw.handover ≠ none ∨ s.fw.traversalOk = false ∨ s.fw.closed ≠ [] →
      Machine.exec .quoteBatchClose s = .next s)) ∧
  (∀ (i : Nat) (q : Quote) (entry : Bytes) (rest : List (Quote × Bytes)) (s : State), s.serves = true →
    s.fw.traversalOk = true → s.fw.closed = (q, entry) :: rest → leafIndex s = some i → i < leafCount →
    (∃ (t : State) (record : Bytes), Machine.exec (.batchSigned true) s = .next t ∧ t.fw.leafA = (i + 1, true) ∧
      t.fw.leafB = (i + 1, true) ∧ t.fw.closed = [] ∧ record.take entry.length = entry ∧
      (quoteInHbm q.part q.addr.toNat s = false → s.host.halves ≠ [] →
        .hostWrite q.addr.toNat record false ∈ t.out) ∧
      (quoteInHbm q.part q.addr.toNat s = false → s.host.halves = [] →
        .hostWrite q.addr.toNat record false ∈ t.hostWaits) ∧
      (quoteInHbm q.part q.addr.toNat s = true → rest = [] → t.hbm = s.hbm.write q.addr.toNat record) ∧
      t.parts = s.parts) ∧
    ∃ t, Machine.exec (.batchSigned false) s = .next t ∧ t.fw.leafA = (i + 1, false) ∧ t.fw.leafB = s.fw.leafB ∧
      t.fw.closed = [] ∧ t.parts = s.parts ∧ s.sameStores t) ∧
  (∀ s : State, s.serves = true →
    (s.fw.traversalOk = false → s.fw.closed = [] → Machine.exec .traversalRebuildEnd s =
      .next { s with fw := { s.fw with traversalOk := true } }) ∧
    (s.fw.traversalOk = false → s.fw.closed ≠ [] → Machine.exec .traversalRebuildEnd s =
      Machine.exec (.batchSigned true) { s with fw := { s.fw with traversalOk := true } }) ∧
    (s.fw.traversalOk = true → Machine.exec .traversalRebuildEnd s = .next s) ∧
    (s.fw.traversalOk = false → s.fw.closed = [] → Machine.exec (.batchSigned true) s = .next s))
end

