-- ==== Sys2Proof/Laws/State.lean ====
section
/-!
SUPPORT. What each named update of Machine/Ops.lean leaves alone, field by field, so that no later proof unfolds a record
update; and what the changed part reads as afterwards.
-/
namespace Sys2Proof.Machine

/-! ## State.setRing -/

@[simp] theorem State.setRing_dev (s : State) (n : Nat) (r : Ring) : (s.setRing n r).dev = s.dev := rfl
@[simp] theorem State.setRing_porter (s : State) (n : Nat) (r : Ring) : (s.setRing n r).porter = s.porter := rfl
@[simp] theorem State.setRing_regs (s : State) (n : Nat) (r : Ring) : (s.setRing n r).regs = s.regs := rfl
@[simp] theorem State.setRing_cnt (s : State) (n : Nat) (r : Ring) : (s.setRing n r).cnt = s.cnt := rfl
@[simp] theorem State.setRing_time (s : State) (n : Nat) (r : Ring) : (s.setRing n r).time = s.time := rfl
@[simp] theorem State.setRing_stw (s : State) (n : Nat) (r : Ring) : (s.setRing n r).stw = s.stw := rfl
@[simp] theorem State.setRing_owners (s : State) (n : Nat) (r : Ring) : (s.setRing n r).owners = s.owners := rfl
@[simp] theorem State.setRing_tallies (s : State) (n : Nat) (r : Ring) : (s.setRing n r).tallies = s.tallies := rfl
@[simp] theorem State.setRing_vectors (s : State) (n : Nat) (r : Ring) : (s.setRing n r).vectors = s.vectors := rfl
@[simp] theorem State.setRing_parts (s : State) (n : Nat) (r : Ring) : (s.setRing n r).parts = s.parts := rfl
@[simp] theorem State.setRing_settings (s : State) (n : Nat) (r : Ring) : (s.setRing n r).settings = s.settings := rfl
@[simp] theorem State.setRing_hbm (s : State) (n : Nat) (r : Ring) : (s.setRing n r).hbm = s.hbm := rfl
@[simp] theorem State.setRing_vault (s : State) (n : Nat) (r : Ring) : (s.setRing n r).vault = s.vault := rfl
@[simp] theorem State.setRing_pads (s : State) (n : Nat) (r : Ring) : (s.setRing n r).pads = s.pads := rfl
@[simp] theorem State.setRing_bufs (s : State) (n : Nat) (r : Ring) : (s.setRing n r).bufs = s.bufs := rfl
@[simp] theorem State.setRing_hbmPoison (s : State) (n : Nat) (r : Ring) : (s.setRing n r).hbmPoison = s.hbmPoison := rfl
@[simp] theorem State.setRing_vaultPoison (s : State) (n : Nat) (r : Ring) : (s.setRing n r).vaultPoison = s.vaultPoison := rfl
@[simp] theorem State.setRing_padPoison (s : State) (n : Nat) (r : Ring) : (s.setRing n r).padPoison = s.padPoison := rfl
@[simp] theorem State.setRing_cores (s : State) (n : Nat) (r : Ring) : (s.setRing n r).cores = s.cores := rfl
@[simp] theorem State.setRing_halls (s : State) (n : Nat) (r : Ring) : (s.setRing n r).halls = s.halls := rfl
@[simp] theorem State.setRing_programs (s : State) (n : Nat) (r : Ring) : (s.setRing n r).programs = s.programs := rfl
@[simp] theorem State.setRing_work (s : State) (n : Nat) (r : Ring) : (s.setRing n r).work = s.work := rfl
@[simp] theorem State.setRing_nextId (s : State) (n : Nat) (r : Ring) : (s.setRing n r).nextId = s.nextId := rfl
@[simp] theorem State.setRing_fab (s : State) (n : Nat) (r : Ring) : (s.setRing n r).fab = s.fab := rfl
@[simp] theorem State.setRing_ports (s : State) (n : Nat) (r : Ring) : (s.setRing n r).ports = s.ports := rfl
@[simp] theorem State.setRing_links (s : State) (n : Nat) (r : Ring) : (s.setRing n r).links = s.links := rfl
@[simp] theorem State.setRing_host (s : State) (n : Nat) (r : Ring) : (s.setRing n r).host = s.host := rfl
@[simp] theorem State.setRing_pwr (s : State) (n : Nat) (r : Ring) : (s.setRing n r).pwr = s.pwr := rfl
@[simp] theorem State.setRing_fw (s : State) (n : Nat) (r : Ring) : (s.setRing n r).fw = s.fw := rfl
@[simp] theorem State.setRing_flt (s : State) (n : Nat) (r : Ring) : (s.setRing n r).flt = s.flt := rfl
@[simp] theorem State.setRing_out (s : State) (n : Nat) (r : Ring) : (s.setRing n r).out = s.out := rfl
@[simp] theorem State.setRing_free (s : State) (n : Nat) (r : Ring) : (s.setRing n r).free = s.free := rfl
@[simp] theorem State.setRing_hostWaits (s : State) (n : Nat) (r : Ring) : (s.setRing n r).hostWaits = s.hostWaits := rfl
@[simp] theorem State.setRing_mintParams (s : State) (n : Nat) (r : Ring) : (s.setRing n r).mintParams = s.mintParams := rfl
@[simp] theorem State.setRing_pending (s : State) (n : Nat) (r : Ring) : (s.setRing n r).pending = s.pending := rfl

/-! ## State.modRing -/

@[simp] theorem State.modRing_dev (s : State) (n : Nat) (f : Ring → Ring) : (s.modRing n f).dev = s.dev := rfl
@[simp] theorem State.modRing_porter (s : State) (n : Nat) (f : Ring → Ring) : (s.modRing n f).porter = s.porter := rfl
@[simp] theorem State.modRing_regs (s : State) (n : Nat) (f : Ring → Ring) : (s.modRing n f).regs = s.regs := rfl
@[simp] theorem State.modRing_cnt (s : State) (n : Nat) (f : Ring → Ring) : (s.modRing n f).cnt = s.cnt := rfl
@[simp] theorem State.modRing_time (s : State) (n : Nat) (f : Ring → Ring) : (s.modRing n f).time = s.time := rfl
@[simp] theorem State.modRing_stw (s : State) (n : Nat) (f : Ring → Ring) : (s.modRing n f).stw = s.stw := rfl
@[simp] theorem State.modRing_owners (s : State) (n : Nat) (f : Ring → Ring) : (s.modRing n f).owners = s.owners := rfl
@[simp] theorem State.modRing_tallies (s : State) (n : Nat) (f : Ring → Ring) : (s.modRing n f).tallies = s.tallies := rfl
@[simp] theorem State.modRing_vectors (s : State) (n : Nat) (f : Ring → Ring) : (s.modRing n f).vectors = s.vectors := rfl
@[simp] theorem State.modRing_parts (s : State) (n : Nat) (f : Ring → Ring) : (s.modRing n f).parts = s.parts := rfl
@[simp] theorem State.modRing_settings (s : State) (n : Nat) (f : Ring → Ring) : (s.modRing n f).settings = s.settings := rfl
@[simp] theorem State.modRing_hbm (s : State) (n : Nat) (f : Ring → Ring) : (s.modRing n f).hbm = s.hbm := rfl
@[simp] theorem State.modRing_vault (s : State) (n : Nat) (f : Ring → Ring) : (s.modRing n f).vault = s.vault := rfl
@[simp] theorem State.modRing_pads (s : State) (n : Nat) (f : Ring → Ring) : (s.modRing n f).pads = s.pads := rfl
@[simp] theorem State.modRing_bufs (s : State) (n : Nat) (f : Ring → Ring) : (s.modRing n f).bufs = s.bufs := rfl
@[simp] theorem State.modRing_hbmPoison (s : State) (n : Nat) (f : Ring → Ring) : (s.modRing n f).hbmPoison = s.hbmPoison := rfl
@[simp] theorem State.modRing_vaultPoison (s : State) (n : Nat) (f : Ring → Ring) : (s.modRing n f).vaultPoison = s.vaultPoison := rfl
@[simp] theorem State.modRing_padPoison (s : State) (n : Nat) (f : Ring → Ring) : (s.modRing n f).padPoison = s.padPoison := rfl
@[simp] theorem State.modRing_cores (s : State) (n : Nat) (f : Ring → Ring) : (s.modRing n f).cores = s.cores := rfl
@[simp] theorem State.modRing_halls (s : State) (n : Nat) (f : Ring → Ring) : (s.modRing n f).halls = s.halls := rfl
@[simp] theorem State.modRing_programs (s : State) (n : Nat) (f : Ring → Ring) : (s.modRing n f).programs = s.programs := rfl
@[simp] theorem State.modRing_work (s : State) (n : Nat) (f : Ring → Ring) : (s.modRing n f).work = s.work := rfl
@[simp] theorem State.modRing_nextId (s : State) (n : Nat) (f : Ring → Ring) : (s.modRing n f).nextId = s.nextId := rfl
@[simp] theorem State.modRing_fab (s : State) (n : Nat) (f : Ring → Ring) : (s.modRing n f).fab = s.fab := rfl
@[simp] theorem State.modRing_ports (s : State) (n : Nat) (f : Ring → Ring) : (s.modRing n f).ports = s.ports := rfl
@[simp] theorem State.modRing_links (s : State) (n : Nat) (f : Ring → Ring) : (s.modRing n f).links = s.links := rfl
@[simp] theorem State.modRing_host (s : State) (n : Nat) (f : Ring → Ring) : (s.modRing n f).host = s.host := rfl
@[simp] theorem State.modRing_pwr (s : State) (n : Nat) (f : Ring → Ring) : (s.modRing n f).pwr = s.pwr := rfl
@[simp] theorem State.modRing_fw (s : State) (n : Nat) (f : Ring → Ring) : (s.modRing n f).fw = s.fw := rfl
@[simp] theorem State.modRing_flt (s : State) (n : Nat) (f : Ring → Ring) : (s.modRing n f).flt = s.flt := rfl
@[simp] theorem State.modRing_out (s : State) (n : Nat) (f : Ring → Ring) : (s.modRing n f).out = s.out := rfl
@[simp] theorem State.modRing_free (s : State) (n : Nat) (f : Ring → Ring) : (s.modRing n f).free = s.free := rfl
@[simp] theorem State.modRing_hostWaits (s : State) (n : Nat) (f : Ring → Ring) : (s.modRing n f).hostWaits = s.hostWaits := rfl
@[simp] theorem State.modRing_mintParams (s : State) (n : Nat) (f : Ring → Ring) : (s.modRing n f).mintParams = s.mintParams := rfl
@[simp] theorem State.modRing_pending (s : State) (n : Nat) (f : Ring → Ring) : (s.modRing n f).pending = s.pending := rfl

/-! ## State.setPart -/

@[simp] theorem State.setPart_dev (s : State) (n : Nat) (q : Partition) : (s.setPart n q).dev = s.dev := rfl
@[simp] theorem State.setPart_porter (s : State) (n : Nat) (q : Partition) : (s.setPart n q).porter = s.porter := rfl
@[simp] theorem State.setPart_regs (s : State) (n : Nat) (q : Partition) : (s.setPart n q).regs = s.regs := rfl
@[simp] theorem State.setPart_cnt (s : State) (n : Nat) (q : Partition) : (s.setPart n q).cnt = s.cnt := rfl
@[simp] theorem State.setPart_time (s : State) (n : Nat) (q : Partition) : (s.setPart n q).time = s.time := rfl
@[simp] theorem State.setPart_stw (s : State) (n : Nat) (q : Partition) : (s.setPart n q).stw = s.stw := rfl
@[simp] theorem State.setPart_rings (s : State) (n : Nat) (q : Partition) : (s.setPart n q).rings = s.rings := rfl
@[simp] theorem State.setPart_owners (s : State) (n : Nat) (q : Partition) : (s.setPart n q).owners = s.owners := rfl
@[simp] theorem State.setPart_tallies (s : State) (n : Nat) (q : Partition) : (s.setPart n q).tallies = s.tallies := rfl
@[simp] theorem State.setPart_vectors (s : State) (n : Nat) (q : Partition) : (s.setPart n q).vectors = s.vectors := rfl
@[simp] theorem State.setPart_settings (s : State) (n : Nat) (q : Partition) : (s.setPart n q).settings = s.settings := rfl
@[simp] theorem State.setPart_hbm (s : State) (n : Nat) (q : Partition) : (s.setPart n q).hbm = s.hbm := rfl
@[simp] theorem State.setPart_vault (s : State) (n : Nat) (q : Partition) : (s.setPart n q).vault = s.vault := rfl
@[simp] theorem State.setPart_pads (s : State) (n : Nat) (q : Partition) : (s.setPart n q).pads = s.pads := rfl
@[simp] theorem State.setPart_bufs (s : State) (n : Nat) (q : Partition) : (s.setPart n q).bufs = s.bufs := rfl
@[simp] theorem State.setPart_hbmPoison (s : State) (n : Nat) (q : Partition) : (s.setPart n q).hbmPoison = s.hbmPoison := rfl
@[simp] theorem State.setPart_vaultPoison (s : State) (n : Nat) (q : Partition) : (s.setPart n q).vaultPoison = s.vaultPoison := rfl
@[simp] theorem State.setPart_padPoison (s : State) (n : Nat) (q : Partition) : (s.setPart n q).padPoison = s.padPoison := rfl
@[simp] theorem State.setPart_cores (s : State) (n : Nat) (q : Partition) : (s.setPart n q).cores = s.cores := rfl
@[simp] theorem State.setPart_halls (s : State) (n : Nat) (q : Partition) : (s.setPart n q).halls = s.halls := rfl
@[simp] theorem State.setPart_programs (s : State) (n : Nat) (q : Partition) : (s.setPart n q).programs = s.programs := rfl
@[simp] theorem State.setPart_work (s : State) (n : Nat) (q : Partition) : (s.setPart n q).work = s.work := rfl
@[simp] theorem State.setPart_nextId (s : State) (n : Nat) (q : Partition) : (s.setPart n q).nextId = s.nextId := rfl
@[simp] theorem State.setPart_fab (s : State) (n : Nat) (q : Partition) : (s.setPart n q).fab = s.fab := rfl
@[simp] theorem State.setPart_ports (s : State) (n : Nat) (q : Partition) : (s.setPart n q).ports = s.ports := rfl
@[simp] theorem State.setPart_links (s : State) (n : Nat) (q : Partition) : (s.setPart n q).links = s.links := rfl
@[simp] theorem State.setPart_host (s : State) (n : Nat) (q : Partition) : (s.setPart n q).host = s.host := rfl
@[simp] theorem State.setPart_pwr (s : State) (n : Nat) (q : Partition) : (s.setPart n q).pwr = s.pwr := rfl
@[simp] theorem State.setPart_fw (s : State) (n : Nat) (q : Partition) : (s.setPart n q).fw = s.fw := rfl
@[simp] theorem State.setPart_flt (s : State) (n : Nat) (q : Partition) : (s.setPart n q).flt = s.flt := rfl
@[simp] theorem State.setPart_out (s : State) (n : Nat) (q : Partition) : (s.setPart n q).out = s.out := rfl
@[simp] theorem State.setPart_free (s : State) (n : Nat) (q : Partition) : (s.setPart n q).free = s.free := rfl
@[simp] theorem State.setPart_hostWaits (s : State) (n : Nat) (q : Partition) : (s.setPart n q).hostWaits = s.hostWaits := rfl
@[simp] theorem State.setPart_mintParams (s : State) (n : Nat) (q : Partition) : (s.setPart n q).mintParams = s.mintParams := rfl
@[simp] theorem State.setPart_pending (s : State) (n : Nat) (q : Partition) : (s.setPart n q).pending = s.pending := rfl

/-! ## State.modPart -/

@[simp] theorem State.modPart_dev (s : State) (n : Nat) (f : Partition → Partition) : (s.modPart n f).dev = s.dev := rfl
@[simp] theorem State.modPart_porter (s : State) (n : Nat) (f : Partition → Partition) : (s.modPart n f).porter = s.porter := rfl
@[simp] theorem State.modPart_regs (s : State) (n : Nat) (f : Partition → Partition) : (s.modPart n f).regs = s.regs := rfl
@[simp] theorem State.modPart_cnt (s : State) (n : Nat) (f : Partition → Partition) : (s.modPart n f).cnt = s.cnt := rfl
@[simp] theorem State.modPart_time (s : State) (n : Nat) (f : Partition → Partition) : (s.modPart n f).time = s.time := rfl
@[simp] theorem State.modPart_stw (s : State) (n : Nat) (f : Partition → Partition) : (s.modPart n f).stw = s.stw := rfl
@[simp] theorem State.modPart_rings (s : State) (n : Nat) (f : Partition → Partition) : (s.modPart n f).rings = s.rings := rfl
@[simp] theorem State.modPart_owners (s : State) (n : Nat) (f : Partition → Partition) : (s.modPart n f).owners = s.owners := rfl
@[simp] theorem State.modPart_tallies (s : State) (n : Nat) (f : Partition → Partition) : (s.modPart n f).tallies = s.tallies := rfl
@[simp] theorem State.modPart_vectors (s : State) (n : Nat) (f : Partition → Partition) : (s.modPart n f).vectors = s.vectors := rfl
@[simp] theorem State.modPart_settings (s : State) (n : Nat) (f : Partition → Partition) : (s.modPart n f).settings = s.settings := rfl
@[simp] theorem State.modPart_hbm (s : State) (n : Nat) (f : Partition → Partition) : (s.modPart n f).hbm = s.hbm := rfl
@[simp] theorem State.modPart_vault (s : State) (n : Nat) (f : Partition → Partition) : (s.modPart n f).vault = s.vault := rfl
@[simp] theorem State.modPart_pads (s : State) (n : Nat) (f : Partition → Partition) : (s.modPart n f).pads = s.pads := rfl
@[simp] theorem State.modPart_bufs (s : State) (n : Nat) (f : Partition → Partition) : (s.modPart n f).bufs = s.bufs := rfl
@[simp] theorem State.modPart_hbmPoison (s : State) (n : Nat) (f : Partition → Partition) : (s.modPart n f).hbmPoison = s.hbmPoison := rfl
@[simp] theorem State.modPart_vaultPoison (s : State) (n : Nat) (f : Partition → Partition) : (s.modPart n f).vaultPoison = s.vaultPoison := rfl
@[simp] theorem State.modPart_padPoison (s : State) (n : Nat) (f : Partition → Partition) : (s.modPart n f).padPoison = s.padPoison := rfl
@[simp] theorem State.modPart_cores (s : State) (n : Nat) (f : Partition → Partition) : (s.modPart n f).cores = s.cores := rfl
@[simp] theorem State.modPart_halls (s : State) (n : Nat) (f : Partition → Partition) : (s.modPart n f).halls = s.halls := rfl
@[simp] theorem State.modPart_programs (s : State) (n : Nat) (f : Partition → Partition) : (s.modPart n f).programs = s.programs := rfl
@[simp] theorem State.modPart_work (s : State) (n : Nat) (f : Partition → Partition) : (s.modPart n f).work = s.work := rfl
@[simp] theorem State.modPart_nextId (s : State) (n : Nat) (f : Partition → Partition) : (s.modPart n f).nextId = s.nextId := rfl
@[simp] theorem State.modPart_fab (s : State) (n : Nat) (f : Partition → Partition) : (s.modPart n f).fab = s.fab := rfl
@[simp] theorem State.modPart_ports (s : State) (n : Nat) (f : Partition → Partition) : (s.modPart n f).ports = s.ports := rfl
@[simp] theorem State.modPart_links (s : State) (n : Nat) (f : Partition → Partition) : (s.modPart n f).links = s.links := rfl
@[simp] theorem State.modPart_host (s : State) (n : Nat) (f : Partition → Partition) : (s.modPart n f).host = s.host := rfl
@[simp] theorem State.modPart_pwr (s : State) (n : Nat) (f : Partition → Partition) : (s.modPart n f).pwr = s.pwr := rfl
@[simp] theorem State.modPart_fw (s : State) (n : Nat) (f : Partition → Partition) : (s.modPart n f).fw = s.fw := rfl
@[simp] theorem State.modPart_flt (s : State) (n : Nat) (f : Partition → Partition) : (s.modPart n f).flt = s.flt := rfl
@[simp] theorem State.modPart_out (s : State) (n : Nat) (f : Partition → Partition) : (s.modPart n f).out = s.out := rfl
@[simp] theorem State.modPart_free (s : State) (n : Nat) (f : Partition → Partition) : (s.modPart n f).free = s.free := rfl
@[simp] theorem State.modPart_hostWaits (s : State) (n : Nat) (f : Partition → Partition) : (s.modPart n f).hostWaits = s.hostWaits := rfl
@[simp] theorem State.modPart_mintParams (s : State) (n : Nat) (f : Partition → Partition) : (s.modPart n f).mintParams = s.mintParams := rfl
@[simp] theorem State.modPart_pending (s : State) (n : Nat) (f : Partition → Partition) : (s.modPart n f).pending = s.pending := rfl

/-! ## State.setCore -/

@[simp] theorem State.setCore_dev (s : State) (n : Nat) (x : Core) : (s.setCore n x).dev = s.dev := rfl
@[simp] theorem State.setCore_porter (s : State) (n : Nat) (x : Core) : (s.setCore n x).porter = s.porter := rfl
@[simp] theorem State.setCore_regs (s : State) (n : Nat) (x : Core) : (s.setCore n x).regs = s.regs := rfl
@[simp] theorem State.setCore_cnt (s : State) (n : Nat) (x : Core) : (s.setCore n x).cnt = s.cnt := rfl
@[simp] theorem State.setCore_time (s : State) (n : Nat) (x : Core) : (s.setCore n x).time = s.time := rfl
@[simp] theorem State.setCore_stw (s : State) (n : Nat) (x : Core) : (s.setCore n x).stw = s.stw := rfl
@[simp] theorem State.setCore_rings (s : State) (n : Nat) (x : Core) : (s.setCore n x).rings = s.rings := rfl
@[simp] theorem State.setCore_owners (s : State) (n : Nat) (x : Core) : (s.setCore n x).owners = s.owners := rfl
@[simp] theorem State.setCore_tallies (s : State) (n : Nat) (x : Core) : (s.setCore n x).tallies = s.tallies := rfl
@[simp] theorem State.setCore_vectors (s : State) (n : Nat) (x : Core) : (s.setCore n x).vectors = s.vectors := rfl
@[simp] theorem State.setCore_parts (s : State) (n : Nat) (x : Core) : (s.setCore n x).parts = s.parts := rfl
@[simp] theorem State.setCore_settings (s : State) (n : Nat) (x : Core) : (s.setCore n x).settings = s.settings := rfl
@[simp] theorem State.setCore_hbm (s : State) (n : Nat) (x : Core) : (s.setCore n x).hbm = s.hbm := rfl
@[simp] theorem State.setCore_vault (s : State) (n : Nat) (x : Core) : (s.setCore n x).vault = s.vault := rfl
@[simp] theorem State.setCore_pads (s : State) (n : Nat) (x : Core) : (s.setCore n x).pads = s.pads := rfl
@[simp] theorem State.setCore_bufs (s : State) (n : Nat) (x : Core) : (s.setCore n x).bufs = s.bufs := rfl
@[simp] theorem State.setCore_hbmPoison (s : State) (n : Nat) (x : Core) : (s.setCore n x).hbmPoison = s.hbmPoison := rfl
@[simp] theorem State.setCore_vaultPoison (s : State) (n : Nat) (x : Core) : (s.setCore n x).vaultPoison = s.vaultPoison := rfl
@[simp] theorem State.setCore_padPoison (s : State) (n : Nat) (x : Core) : (s.setCore n x).padPoison = s.padPoison := rfl
@[simp] theorem State.setCore_halls (s : State) (n : Nat) (x : Core) : (s.setCore n x).halls = s.halls := rfl
@[simp] theorem State.setCore_programs (s : State) (n : Nat) (x : Core) : (s.setCore n x).programs = s.programs := rfl
@[simp] theorem State.setCore_work (s : State) (n : Nat) (x : Core) : (s.setCore n x).work = s.work := rfl
@[simp] theorem State.setCore_nextId (s : State) (n : Nat) (x : Core) : (s.setCore n x).nextId = s.nextId := rfl
@[simp] theorem State.setCore_fab (s : State) (n : Nat) (x : Core) : (s.setCore n x).fab = s.fab := rfl
@[simp] theorem State.setCore_ports (s : State) (n : Nat) (x : Core) : (s.setCore n x).ports = s.ports := rfl
@[simp] theorem State.setCore_links (s : State) (n : Nat) (x : Core) : (s.setCore n x).links = s.links := rfl
@[simp] theorem State.setCore_host (s : State) (n : Nat) (x : Core) : (s.setCore n x).host = s.host := rfl
@[simp] theorem State.setCore_pwr (s : State) (n : Nat) (x : Core) : (s.setCore n x).pwr = s.pwr := rfl
@[simp] theorem State.setCore_fw (s : State) (n : Nat) (x : Core) : (s.setCore n x).fw = s.fw := rfl
@[simp] theorem State.setCore_flt (s : State) (n : Nat) (x : Core) : (s.setCore n x).flt = s.flt := rfl
@[simp] theorem State.setCore_out (s : State) (n : Nat) (x : Core) : (s.setCore n x).out = s.out := rfl
@[simp] theorem State.setCore_free (s : State) (n : Nat) (x : Core) : (s.setCore n x).free = s.free := rfl
@[simp] theorem State.setCore_hostWaits (s : State) (n : Nat) (x : Core) : (s.setCore n x).hostWaits = s.hostWaits := rfl
@[simp] theorem State.setCore_mintParams (s : State) (n : Nat) (x : Core) : (s.setCore n x).mintParams = s.mintParams := rfl
@[simp] theorem State.setCore_pending (s : State) (n : Nat) (x : Core) : (s.setCore n x).pending = s.pending := rfl

/-! ## State.modCore -/

@[simp] theorem State.modCore_dev (s : State) (n : Nat) (f : Core → Core) : (s.modCore n f).dev = s.dev := rfl
@[simp] theorem State.modCore_porter (s : State) (n : Nat) (f : Core → Core) : (s.modCore n f).porter = s.porter := rfl
@[simp] theorem State.modCore_regs (s : State) (n : Nat) (f : Core → Core) : (s.modCore n f).regs = s.regs := rfl
@[simp] theorem State.modCore_cnt (s : State) (n : Nat) (f : Core → Core) : (s.modCore n f).cnt = s.cnt := rfl
@[simp] theorem State.modCore_time (s : State) (n : Nat) (f : Core → Core) : (s.modCore n f).time = s.time := rfl
@[simp] theorem State.modCore_stw (s : State) (n : Nat) (f : Core → Core) : (s.modCore n f).stw = s.stw := rfl
@[simp] theorem State.modCore_rings (s : State) (n : Nat) (f : Core → Core) : (s.modCore n f).rings = s.rings := rfl
@[simp] theorem State.modCore_owners (s : State) (n : Nat) (f : Core → Core) : (s.modCore n f).owners = s.owners := rfl
@[simp] theorem State.modCore_tallies (s : State) (n : Nat) (f : Core → Core) : (s.modCore n f).tallies = s.tallies := rfl
@[simp] theorem State.modCore_vectors (s : State) (n : Nat) (f : Core → Core) : (s.modCore n f).vectors = s.vectors := rfl
@[simp] theorem State.modCore_parts (s : State) (n : Nat) (f : Core → Core) : (s.modCore n f).parts = s.parts := rfl
@[simp] theorem State.modCore_settings (s : State) (n : Nat) (f : Core → Core) : (s.modCore n f).settings = s.settings := rfl
@[simp] theorem State.modCore_hbm (s : State) (n : Nat) (f : Core → Core) : (s.modCore n f).hbm = s.hbm := rfl
@[simp] theorem State.modCore_vault (s : State) (n : Nat) (f : Core → Core) : (s.modCore n f).vault = s.vault := rfl
@[simp] theorem State.modCore_pads (s : State) (n : Nat) (f : Core → Core) : (s.modCore n f).pads = s.pads := rfl
@[simp] theorem State.modCore_bufs (s : State) (n : Nat) (f : Core → Core) : (s.modCore n f).bufs = s.bufs := rfl
@[simp] theorem State.modCore_hbmPoison (s : State) (n : Nat) (f : Core → Core) : (s.modCore n f).hbmPoison = s.hbmPoison := rfl
@[simp] theorem State.modCore_vaultPoison (s : State) (n : Nat) (f : Core → Core) : (s.modCore n f).vaultPoison = s.vaultPoison := rfl
@[simp] theorem State.modCore_padPoison (s : State) (n : Nat) (f : Core → Core) : (s.modCore n f).padPoison = s.padPoison := rfl
@[simp] theorem State.modCore_halls (s : State) (n : Nat) (f : Core → Core) : (s.modCore n f).halls = s.halls := rfl
@[simp] theorem State.modCore_programs (s : State) (n : Nat) (f : Core → Core) : (s.modCore n f).programs = s.programs := rfl
@[simp] theorem State.modCore_work (s : State) (n : Nat) (f : Core → Core) : (s.modCore n f).work = s.work := rfl
@[simp] theorem State.modCore_nextId (s : State) (n : Nat) (f : Core → Core) : (s.modCore n f).nextId = s.nextId := rfl
@[simp] theorem State.modCore_fab (s : State) (n : Nat) (f : Core → Core) : (s.modCore n f).fab = s.fab := rfl
@[simp] theorem State.modCore_ports (s : State) (n : Nat) (f : Core → Core) : (s.modCore n f).ports = s.ports := rfl
@[simp] theorem State.modCore_links (s : State) (n : Nat) (f : Core → Core) : (s.modCore n f).links = s.links := rfl
@[simp] theorem State.modCore_host (s : State) (n : Nat) (f : Core → Core) : (s.modCore n f).host = s.host := rfl
@[simp] theorem State.modCore_pwr (s : State) (n : Nat) (f : Core → Core) : (s.modCore n f).pwr = s.pwr := rfl
@[simp] theorem State.modCore_fw (s : State) (n : Nat) (f : Core → Core) : (s.modCore n f).fw = s.fw := rfl
@[simp] theorem State.modCore_flt (s : State) (n : Nat) (f : Core → Core) : (s.modCore n f).flt = s.flt := rfl
@[simp] theorem State.modCore_out (s : State) (n : Nat) (f : Core → Core) : (s.modCore n f).out = s.out := rfl
@[simp] theorem State.modCore_free (s : State) (n : Nat) (f : Core → Core) : (s.modCore n f).free = s.free := rfl
@[simp] theorem State.modCore_hostWaits (s : State) (n : Nat) (f : Core → Core) : (s.modCore n f).hostWaits = s.hostWaits := rfl
@[simp] theorem State.modCore_mintParams (s : State) (n : Nat) (f : Core → Core) : (s.modCore n f).mintParams = s.mintParams := rfl
@[simp] theorem State.modCore_pending (s : State) (n : Nat) (f : Core → Core) : (s.modCore n f).pending = s.pending := rfl

/-! ## State.modHall -/

@[simp] theorem State.modHall_dev (s : State) (n : Nat) (f : Hall → Hall) : (s.modHall n f).dev = s.dev := rfl
@[simp] theorem State.modHall_porter (s : State) (n : Nat) (f : Hall → Hall) : (s.modHall n f).porter = s.porter := rfl
@[simp] theorem State.modHall_regs (s : State) (n : Nat) (f : Hall → Hall) : (s.modHall n f).regs = s.regs := rfl
@[simp] theorem State.modHall_cnt (s : State) (n : Nat) (f : Hall → Hall) : (s.modHall n f).cnt = s.cnt := rfl
@[simp] theorem State.modHall_time (s : State) (n : Nat) (f : Hall → Hall) : (s.modHall n f).time = s.time := rfl
@[simp] theorem State.modHall_stw (s : State) (n : Nat) (f : Hall → Hall) : (s.modHall n f).stw = s.stw := rfl
@[simp] theorem State.modHall_rings (s : State) (n : Nat) (f : Hall → Hall) : (s.modHall n f).rings = s.rings := rfl
@[simp] theorem State.modHall_owners (s : State) (n : Nat) (f : Hall → Hall) : (s.modHall n f).owners = s.owners := rfl
@[simp] theorem State.modHall_tallies (s : State) (n : Nat) (f : Hall → Hall) : (s.modHall n f).tallies = s.tallies := rfl
@[simp] theorem State.modHall_vectors (s : State) (n : Nat) (f : Hall → Hall) : (s.modHall n f).vectors = s.vectors := rfl
@[simp] theorem State.modHall_parts (s : State) (n : Nat) (f : Hall → Hall) : (s.modHall n f).parts = s.parts := rfl
@[simp] theorem State.modHall_settings (s : State) (n : Nat) (f : Hall → Hall) : (s.modHall n f).settings = s.settings := rfl
@[simp] theorem State.modHall_hbm (s : State) (n : Nat) (f : Hall → Hall) : (s.modHall n f).hbm = s.hbm := rfl
@[simp] theorem State.modHall_vault (s : State) (n : Nat) (f : Hall → Hall) : (s.modHall n f).vault = s.vault := rfl
@[simp] theorem State.modHall_pads (s : State) (n : Nat) (f : Hall → Hall) : (s.modHall n f).pads = s.pads := rfl
@[simp] theorem State.modHall_bufs (s : State) (n : Nat) (f : Hall → Hall) : (s.modHall n f).bufs = s.bufs := rfl
@[simp] theorem State.modHall_hbmPoison (s : State) (n : Nat) (f : Hall → Hall) : (s.modHall n f).hbmPoison = s.hbmPoison := rfl
@[simp] theorem State.modHall_vaultPoison (s : State) (n : Nat) (f : Hall → Hall) : (s.modHall n f).vaultPoison = s.vaultPoison := rfl
@[simp] theorem State.modHall_padPoison (s : State) (n : Nat) (f : Hall → Hall) : (s.modHall n f).padPoison = s.padPoison := rfl
@[simp] theorem State.modHall_cores (s : State) (n : Nat) (f : Hall → Hall) : (s.modHall n f).cores = s.cores := rfl
@[simp] theorem State.modHall_programs (s : State) (n : Nat) (f : Hall → Hall) : (s.modHall n f).programs = s.programs := rfl
@[simp] theorem State.modHall_work (s : State) (n : Nat) (f : Hall → Hall) : (s.modHall n f).work = s.work := rfl
@[simp] theorem State.modHall_nextId (s : State) (n : Nat) (f : Hall → Hall) : (s.modHall n f).nextId = s.nextId := rfl
@[simp] theorem State.modHall_fab (s : State) (n : Nat) (f : Hall → Hall) : (s.modHall n f).fab = s.fab := rfl
@[simp] theorem State.modHall_ports (s : State) (n : Nat) (f : Hall → Hall) : (s.modHall n f).ports = s.ports := rfl
@[simp] theorem State.modHall_links (s : State) (n : Nat) (f : Hall → Hall) : (s.modHall n f).links = s.links := rfl
@[simp] theorem State.modHall_host (s : State) (n : Nat) (f : Hall → Hall) : (s.modHall n f).host = s.host := rfl
@[simp] theorem State.modHall_pwr (s : State) (n : Nat) (f : Hall → Hall) : (s.modHall n f).pwr = s.pwr := rfl
@[simp] theorem State.modHall_fw (s : State) (n : Nat) (f : Hall → Hall) : (s.modHall n f).fw = s.fw := rfl
@[simp] theorem State.modHall_flt (s : State) (n : Nat) (f : Hall → Hall) : (s.modHall n f).flt = s.flt := rfl
@[simp] theorem State.modHall_out (s : State) (n : Nat) (f : Hall → Hall) : (s.modHall n f).out = s.out := rfl
@[simp] theorem State.modHall_free (s : State) (n : Nat) (f : Hall → Hall) : (s.modHall n f).free = s.free := rfl
@[simp] theorem State.modHall_hostWaits (s : State) (n : Nat) (f : Hall → Hall) : (s.modHall n f).hostWaits = s.hostWaits := rfl
@[simp] theorem State.modHall_mintParams (s : State) (n : Nat) (f : Hall → Hall) : (s.modHall n f).mintParams = s.mintParams := rfl
@[simp] theorem State.modHall_pending (s : State) (n : Nat) (f : Hall → Hall) : (s.modHall n f).pending = s.pending := rfl

/-! ## State.setTally -/

@[simp] theorem State.setTally_dev (s : State) (n : Nat) (v : Tally) : (s.setTally n v).dev = s.dev := rfl
@[simp] theorem State.setTally_porter (s : State) (n : Nat) (v : Tally) : (s.setTally n v).porter = s.porter := rfl
@[simp] theorem State.setTally_regs (s : State) (n : Nat) (v : Tally) : (s.setTally n v).regs = s.regs := rfl
@[simp] theorem State.setTally_cnt (s : State) (n : Nat) (v : Tally) : (s.setTally n v).cnt = s.cnt := rfl
@[simp] theorem State.setTally_time (s : State) (n : Nat) (v : Tally) : (s.setTally n v).time = s.time := rfl
@[simp] theorem State.setTally_stw (s : State) (n : Nat) (v : Tally) : (s.setTally n v).stw = s.stw := rfl
@[simp] theorem State.setTally_rings (s : State) (n : Nat) (v : Tally) : (s.setTally n v).rings = s.rings := rfl
@[simp] theorem State.setTally_owners (s : State) (n : Nat) (v : Tally) : (s.setTally n v).owners = s.owners := rfl
@[simp] theorem State.setTally_vectors (s : State) (n : Nat) (v : Tally) : (s.setTally n v).vectors = s.vectors := rfl
@[simp] theorem State.setTally_parts (s : State) (n : Nat) (v : Tally) : (s.setTally n v).parts = s.parts := rfl
@[simp] theorem State.setTally_settings (s : State) (n : Nat) (v : Tally) : (s.setTally n v).settings = s.settings := rfl
@[simp] theorem State.setTally_hbm (s : State) (n : Nat) (v : Tally) : (s.setTally n v).hbm = s.hbm := rfl
@[simp] theorem State.setTally_vault (s : State) (n : Nat) (v : Tally) : (s.setTally n v).vault = s.vault := rfl
@[simp] theorem State.setTally_pads (s : State) (n : Nat) (v : Tally) : (s.setTally n v).pads = s.pads := rfl
@[simp] theorem State.setTally_bufs (s : State) (n : Nat) (v : Tally) : (s.setTally n v).bufs = s.bufs := rfl
@[simp] theorem State.setTally_hbmPoison (s : State) (n : Nat) (v : Tally) : (s.setTally n v).hbmPoison = s.hbmPoison := rfl
@[simp] theorem State.setTally_vaultPoison (s : State) (n : Nat) (v : Tally) : (s.setTally n v).vaultPoison = s.vaultPoison := rfl
@[simp] theorem State.setTally_padPoison (s : State) (n : Nat) (v : Tally) : (s.setTally n v).padPoison = s.padPoison := rfl
@[simp] theorem State.setTally_cores (s : State) (n : Nat) (v : Tally) : (s.setTally n v).cores = s.cores := rfl
@[simp] theorem State.setTally_halls (s : State) (n : Nat) (v : Tally) : (s.setTally n v).halls = s.halls := rfl
@[simp] theorem State.setTally_programs (s : State) (n : Nat) (v : Tally) : (s.setTally n v).programs = s.programs := rfl
@[simp] theorem State.setTally_work (s : State) (n : Nat) (v : Tally) : (s.setTally n v).work = s.work := rfl
@[simp] theorem State.setTally_nextId (s : State) (n : Nat) (v : Tally) : (s.setTally n v).nextId = s.nextId := rfl
@[simp] theorem State.setTally_fab (s : State) (n : Nat) (v : Tally) : (s.setTally n v).fab = s.fab := rfl
@[simp] theorem State.setTally_ports (s : State) (n : Nat) (v : Tally) : (s.setTally n v).ports = s.ports := rfl
@[simp] theorem State.setTally_links (s : State) (n : Nat) (v : Tally) : (s.setTally n v).links = s.links := rfl
@[simp] theorem State.setTally_host (s : State) (n : Nat) (v : Tally) : (s.setTally n v).host = s.host := rfl
@[simp] theorem State.setTally_pwr (s : State) (n : Nat) (v : Tally) : (s.setTally n v).pwr = s.pwr := rfl
@[simp] theorem State.setTally_fw (s : State) (n : Nat) (v : Tally) : (s.setTally n v).fw = s.fw := rfl
@[simp] theorem State.setTally_flt (s : State) (n : Nat) (v : Tally) : (s.setTally n v).flt = s.flt := rfl
@[simp] theorem State.setTally_out (s : State) (n : Nat) (v : Tally) : (s.setTally n v).out = s.out := rfl
@[simp] theorem State.setTally_free (s : State) (n : Nat) (v : Tally) : (s.setTally n v).free = s.free := rfl
@[simp] theorem State.setTally_hostWaits (s : State) (n : Nat) (v : Tally) : (s.setTally n v).hostWaits = s.hostWaits := rfl
@[simp] theorem State.setTally_mintParams (s : State) (n : Nat) (v : Tally) : (s.setTally n v).mintParams = s.mintParams := rfl
@[simp] theorem State.setTally_pending (s : State) (n : Nat) (v : Tally) : (s.setTally n v).pending = s.pending := rfl

/-! ## State.setVector -/

@[simp] theorem State.setVector_dev (s : State) (n : Nat) (x : Vector) : (s.setVector n x).dev = s.dev := rfl
@[simp] theorem State.setVector_porter (s : State) (n : Nat) (x : Vector) : (s.setVector n x).porter = s.porter := rfl
@[simp] theorem State.setVector_regs (s : State) (n : Nat) (x : Vector) : (s.setVector n x).regs = s.regs := rfl
@[simp] theorem State.setVector_cnt (s : State) (n : Nat) (x : Vector) : (s.setVector n x).cnt = s.cnt := rfl
@[simp] theorem State.setVector_time (s : State) (n : Nat) (x : Vector) : (s.setVector n x).time = s.time := rfl
@[simp] theorem State.setVector_stw (s : State) (n : Nat) (x : Vector) : (s.setVector n x).stw = s.stw := rfl
@[simp] theorem State.setVector_rings (s : State) (n : Nat) (x : Vector) : (s.setVector n x).rings = s.rings := rfl
@[simp] theorem State.setVector_owners (s : State) (n : Nat) (x : Vector) : (s.setVector n x).owners = s.owners := rfl
@[simp] theorem State.setVector_tallies (s : State) (n : Nat) (x : Vector) : (s.setVector n x).tallies = s.tallies := rfl
@[simp] theorem State.setVector_parts (s : State) (n : Nat) (x : Vector) : (s.setVector n x).parts = s.parts := rfl
@[simp] theorem State.setVector_settings (s : State) (n : Nat) (x : Vector) : (s.setVector n x).settings = s.settings := rfl
@[simp] theorem State.setVector_hbm (s : State) (n : Nat) (x : Vector) : (s.setVector n x).hbm = s.hbm := rfl
@[simp] theorem State.setVector_vault (s : State) (n : Nat) (x : Vector) : (s.setVector n x).vault = s.vault := rfl
@[simp] theorem State.setVector_pads (s : State) (n : Nat) (x : Vector) : (s.setVector n x).pads = s.pads := rfl
@[simp] theorem State.setVector_bufs (s : State) (n : Nat) (x : Vector) : (s.setVector n x).bufs = s.bufs := rfl
@[simp] theorem State.setVector_hbmPoison (s : State) (n : Nat) (x : Vector) : (s.setVector n x).hbmPoison = s.hbmPoison := rfl
@[simp] theorem State.setVector_vaultPoison (s : State) (n : Nat) (x : Vector) : (s.setVector n x).vaultPoison = s.vaultPoison := rfl
@[simp] theorem State.setVector_padPoison (s : State) (n : Nat) (x : Vector) : (s.setVector n x).padPoison = s.padPoison := rfl
@[simp] theorem State.setVector_cores (s : State) (n : Nat) (x : Vector) : (s.setVector n x).cores = s.cores := rfl
@[simp] theorem State.setVector_halls (s : State) (n : Nat) (x : Vector) : (s.setVector n x).halls = s.halls := rfl
@[simp] theorem State.setVector_programs (s : State) (n : Nat) (x : Vector) : (s.setVector n x).programs = s.programs := rfl
@[simp] theorem State.setVector_work (s : State) (n : Nat) (x : Vector) : (s.setVector n x).work = s.work := rfl
@[simp] theorem State.setVector_nextId (s : State) (n : Nat) (x : Vector) : (s.setVector n x).nextId = s.nextId := rfl
@[simp] theorem State.setVector_fab (s : State) (n : Nat) (x : Vector) : (s.setVector n x).fab = s.fab := rfl
@[simp] theorem State.setVector_ports (s : State) (n : Nat) (x : Vector) : (s.setVector n x).ports = s.ports := rfl
@[simp] theorem State.setVector_links (s : State) (n : Nat) (x : Vector) : (s.setVector n x).links = s.links := rfl
@[simp] theorem State.setVector_host (s : State) (n : Nat) (x : Vector) : (s.setVector n x).host = s.host := rfl
@[simp] theorem State.setVector_pwr (s : State) (n : Nat) (x : Vector) : (s.setVector n x).pwr = s.pwr := rfl
@[simp] theorem State.setVector_fw (s : State) (n : Nat) (x : Vector) : (s.setVector n x).fw = s.fw := rfl
@[simp] theorem State.setVector_flt (s : State) (n : Nat) (x : Vector) : (s.setVector n x).flt = s.flt := rfl
@[simp] theorem State.setVector_out (s : State) (n : Nat) (x : Vector) : (s.setVector n x).out = s.out := rfl
@[simp] theorem State.setVector_free (s : State) (n : Nat) (x : Vector) : (s.setVector n x).free = s.free := rfl
@[simp] theorem State.setVector_hostWaits (s : State) (n : Nat) (x : Vector) : (s.setVector n x).hostWaits = s.hostWaits := rfl
@[simp] theorem State.setVector_mintParams (s : State) (n : Nat) (x : Vector) : (s.setVector n x).mintParams = s.mintParams := rfl
@[simp] theorem State.setVector_pending (s : State) (n : Nat) (x : Vector) : (s.setVector n x).pending = s.pending := rfl

/-! ## State.modPort -/

@[simp] theorem State.modPort_dev (s : State) (n : Nat) (f : Port → Port) : (s.modPort n f).dev = s.dev := rfl
@[simp] theorem State.modPort_porter (s : State) (n : Nat) (f : Port → Port) : (s.modPort n f).porter = s.porter := rfl
@[simp] theorem State.modPort_regs (s : State) (n : Nat) (f : Port → Port) : (s.modPort n f).regs = s.regs := rfl
@[simp] theorem State.modPort_cnt (s : State) (n : Nat) (f : Port → Port) : (s.modPort n f).cnt = s.cnt := rfl
@[simp] theorem State.modPort_time (s : State) (n : Nat) (f : Port → Port) : (s.modPort n f).time = s.time := rfl
@[simp] theorem State.modPort_stw (s : State) (n : Nat) (f : Port → Port) : (s.modPort n f).stw = s.stw := rfl
@[simp] theorem State.modPort_rings (s : State) (n : Nat) (f : Port → Port) : (s.modPort n f).rings = s.rings := rfl
@[simp] theorem State.modPort_owners (s : State) (n : Nat) (f : Port → Port) : (s.modPort n f).owners = s.owners := rfl
@[simp] theorem State.modPort_tallies (s : State) (n : Nat) (f : Port → Port) : (s.modPort n f).tallies = s.tallies := rfl
@[simp] theorem State.modPort_vectors (s : State) (n : Nat) (f : Port → Port) : (s.modPort n f).vectors = s.vectors := rfl
@[simp] theorem State.modPort_parts (s : State) (n : Nat) (f : Port → Port) : (s.modPort n f).parts = s.parts := rfl
@[simp] theorem State.modPort_settings (s : State) (n : Nat) (f : Port → Port) : (s.modPort n f).settings = s.settings := rfl
@[simp] theorem State.modPort_hbm (s : State) (n : Nat) (f : Port → Port) : (s.modPort n f).hbm = s.hbm := rfl
@[simp] theorem State.modPort_vault (s : State) (n : Nat) (f : Port → Port) : (s.modPort n f).vault = s.vault := rfl
@[simp] theorem State.modPort_pads (s : State) (n : Nat) (f : Port → Port) : (s.modPort n f).pads = s.pads := rfl
@[simp] theorem State.modPort_bufs (s : State) (n : Nat) (f : Port → Port) : (s.modPort n f).bufs = s.bufs := rfl
@[simp] theorem State.modPort_hbmPoison (s : State) (n : Nat) (f : Port → Port) : (s.modPort n f).hbmPoison = s.hbmPoison := rfl
@[simp] theorem State.modPort_vaultPoison (s : State) (n : Nat) (f : Port → Port) : (s.modPort n f).vaultPoison = s.vaultPoison := rfl
@[simp] theorem State.modPort_padPoison (s : State) (n : Nat) (f : Port → Port) : (s.modPort n f).padPoison = s.padPoison := rfl
@[simp] theorem State.modPort_cores (s : State) (n : Nat) (f : Port → Port) : (s.modPort n f).cores = s.cores := rfl
@[simp] theorem State.modPort_halls (s : State) (n : Nat) (f : Port → Port) : (s.modPort n f).halls = s.halls := rfl
@[simp] theorem State.modPort_programs (s : State) (n : Nat) (f : Port → Port) : (s.modPort n f).programs = s.programs := rfl
@[simp] theorem State.modPort_work (s : State) (n : Nat) (f : Port → Port) : (s.modPort n f).work = s.work := rfl
@[simp] theorem State.modPort_nextId (s : State) (n : Nat) (f : Port → Port) : (s.modPort n f).nextId = s.nextId := rfl
@[simp] theorem State.modPort_fab (s : State) (n : Nat) (f : Port → Port) : (s.modPort n f).fab = s.fab := rfl
@[simp] theorem State.modPort_links (s : State) (n : Nat) (f : Port → Port) : (s.modPort n f).links = s.links := rfl
@[simp] theorem State.modPort_host (s : State) (n : Nat) (f : Port → Port) : (s.modPort n f).host = s.host := rfl
@[simp] theorem State.modPort_pwr (s : State) (n : Nat) (f : Port → Port) : (s.modPort n f).pwr = s.pwr := rfl
@[simp] theorem State.modPort_fw (s : State) (n : Nat) (f : Port → Port) : (s.modPort n f).fw = s.fw := rfl
@[simp] theorem State.modPort_flt (s : State) (n : Nat) (f : Port → Port) : (s.modPort n f).flt = s.flt := rfl
@[simp] theorem State.modPort_out (s : State) (n : Nat) (f : Port → Port) : (s.modPort n f).out = s.out := rfl
@[simp] theorem State.modPort_free (s : State) (n : Nat) (f : Port → Port) : (s.modPort n f).free = s.free := rfl
@[simp] theorem State.modPort_hostWaits (s : State) (n : Nat) (f : Port → Port) : (s.modPort n f).hostWaits = s.hostWaits := rfl
@[simp] theorem State.modPort_mintParams (s : State) (n : Nat) (f : Port → Port) : (s.modPort n f).mintParams = s.mintParams := rfl
@[simp] theorem State.modPort_pending (s : State) (n : Nat) (f : Port → Port) : (s.modPort n f).pending = s.pending := rfl

/-! ## State.modLink -/

@[simp] theorem State.modLink_dev (s : State) (n : Nat) (f : Link → Link) : (s.modLink n f).dev = s.dev := rfl
@[simp] theorem State.modLink_porter (s : State) (n : Nat) (f : Link → Link) : (s.modLink n f).porter = s.porter := rfl
@[simp] theorem State.modLink_regs (s : State) (n : Nat) (f : Link → Link) : (s.modLink n f).regs = s.regs := rfl
@[simp] theorem State.modLink_cnt (s : State) (n : Nat) (f : Link → Link) : (s.modLink n f).cnt = s.cnt := rfl
@[simp] theorem State.modLink_time (s : State) (n : Nat) (f : Link → Link) : (s.modLink n f).time = s.time := rfl
@[simp] theorem State.modLink_stw (s : State) (n : Nat) (f : Link → Link) : (s.modLink n f).stw = s.stw := rfl
@[simp] theorem State.modLink_rings (s : State) (n : Nat) (f : Link → Link) : (s.modLink n f).rings = s.rings := rfl
@[simp] theorem State.modLink_owners (s : State) (n : Nat) (f : Link → Link) : (s.modLink n f).owners = s.owners := rfl
@[simp] theorem State.modLink_tallies (s : State) (n : Nat) (f : Link → Link) : (s.modLink n f).tallies = s.tallies := rfl
@[simp] theorem State.modLink_vectors (s : State) (n : Nat) (f : Link → Link) : (s.modLink n f).vectors = s.vectors := rfl
@[simp] theorem State.modLink_parts (s : State) (n : Nat) (f : Link → Link) : (s.modLink n f).parts = s.parts := rfl
@[simp] theorem State.modLink_settings (s : State) (n : Nat) (f : Link → Link) : (s.modLink n f).settings = s.settings := rfl
@[simp] theorem State.modLink_hbm (s : State) (n : Nat) (f : Link → Link) : (s.modLink n f).hbm = s.hbm := rfl
@[simp] theorem State.modLink_vault (s : State) (n : Nat) (f : Link → Link) : (s.modLink n f).vault = s.vault := rfl
@[simp] theorem State.modLink_pads (s : State) (n : Nat) (f : Link → Link) : (s.modLink n f).pads = s.pads := rfl
@[simp] theorem State.modLink_bufs (s : State) (n : Nat) (f : Link → Link) : (s.modLink n f).bufs = s.bufs := rfl
@[simp] theorem State.modLink_hbmPoison (s : State) (n : Nat) (f : Link → Link) : (s.modLink n f).hbmPoison = s.hbmPoison := rfl
@[simp] theorem State.modLink_vaultPoison (s : State) (n : Nat) (f : Link → Link) : (s.modLink n f).vaultPoison = s.vaultPoison := rfl
@[simp] theorem State.modLink_padPoison (s : State) (n : Nat) (f : Link → Link) : (s.modLink n f).padPoison = s.padPoison := rfl
@[simp] theorem State.modLink_cores (s : State) (n : Nat) (f : Link → Link) : (s.modLink n f).cores = s.cores := rfl
@[simp] theorem State.modLink_halls (s : State) (n : Nat) (f : Link → Link) : (s.modLink n f).halls = s.halls := rfl
@[simp] theorem State.modLink_programs (s : State) (n : Nat) (f : Link → Link) : (s.modLink n f).programs = s.programs := rfl
@[simp] theorem State.modLink_work (s : State) (n : Nat) (f : Link → Link) : (s.modLink n f).work = s.work := rfl
@[simp] theorem State.modLink_nextId (s : State) (n : Nat) (f : Link → Link) : (s.modLink n f).nextId = s.nextId := rfl
@[simp] theorem State.modLink_fab (s : State) (n : Nat) (f : Link → Link) : (s.modLink n f).fab = s.fab := rfl
@[simp] theorem State.modLink_ports (s : State) (n : Nat) (f : Link → Link) : (s.modLink n f).ports = s.ports := rfl
@[simp] theorem State.modLink_host (s : State) (n : Nat) (f : Link → Link) : (s.modLink n f).host = s.host := rfl
@[simp] theorem State.modLink_pwr (s : State) (n : Nat) (f : Link → Link) : (s.modLink n f).pwr = s.pwr := rfl
@[simp] theorem State.modLink_fw (s : State) (n : Nat) (f : Link → Link) : (s.modLink n f).fw = s.fw := rfl
@[simp] theorem State.modLink_flt (s : State) (n : Nat) (f : Link → Link) : (s.modLink n f).flt = s.flt := rfl
@[simp] theorem State.modLink_out (s : State) (n : Nat) (f : Link → Link) : (s.modLink n f).out = s.out := rfl
@[simp] theorem State.modLink_free (s : State) (n : Nat) (f : Link → Link) : (s.modLink n f).free = s.free := rfl
@[simp] theorem State.modLink_hostWaits (s : State) (n : Nat) (f : Link → Link) : (s.modLink n f).hostWaits = s.hostWaits := rfl
@[simp] theorem State.modLink_mintParams (s : State) (n : Nat) (f : Link → Link) : (s.modLink n f).mintParams = s.mintParams := rfl
@[simp] theorem State.modLink_pending (s : State) (n : Nat) (f : Link → Link) : (s.modLink n f).pending = s.pending := rfl

/-! ## State.setOwnerBacklog -/

@[simp] theorem State.setOwnerBacklog_dev (s : State) (n : Nat) (b : Backlog) : (s.setOwnerBacklog n b).dev = s.dev := rfl
@[simp] theorem State.setOwnerBacklog_porter (s : State) (n : Nat) (b : Backlog) : (s.setOwnerBacklog n b).porter = s.porter := rfl
@[simp] theorem State.setOwnerBacklog_regs (s : State) (n : Nat) (b : Backlog) : (s.setOwnerBacklog n b).regs = s.regs := rfl
@[simp] theorem State.setOwnerBacklog_cnt (s : State) (n : Nat) (b : Backlog) : (s.setOwnerBacklog n b).cnt = s.cnt := rfl
@[simp] theorem State.setOwnerBacklog_time (s : State) (n : Nat) (b : Backlog) : (s.setOwnerBacklog n b).time = s.time := rfl
@[simp] theorem State.setOwnerBacklog_stw (s : State) (n : Nat) (b : Backlog) : (s.setOwnerBacklog n b).stw = s.stw := rfl
@[simp] theorem State.setOwnerBacklog_rings (s : State) (n : Nat) (b : Backlog) : (s.setOwnerBacklog n b).rings = s.rings := rfl
@[simp] theorem State.setOwnerBacklog_tallies (s : State) (n : Nat) (b : Backlog) : (s.setOwnerBacklog n b).tallies = s.tallies := rfl
@[simp] theorem State.setOwnerBacklog_vectors (s : State) (n : Nat) (b : Backlog) : (s.setOwnerBacklog n b).vectors = s.vectors := rfl
@[simp] theorem State.setOwnerBacklog_parts (s : State) (n : Nat) (b : Backlog) : (s.setOwnerBacklog n b).parts = s.parts := rfl
@[simp] theorem State.setOwnerBacklog_settings (s : State) (n : Nat) (b : Backlog) : (s.setOwnerBacklog n b).settings = s.settings := rfl
@[simp] theorem State.setOwnerBacklog_hbm (s : State) (n : Nat) (b : Backlog) : (s.setOwnerBacklog n b).hbm = s.hbm := rfl
@[simp] theorem State.setOwnerBacklog_vault (s : State) (n : Nat) (b : Backlog) : (s.setOwnerBacklog n b).vault = s.vault := rfl
@[simp] theorem State.setOwnerBacklog_pads (s : State) (n : Nat) (b : Backlog) : (s.setOwnerBacklog n b).pads = s.pads := rfl
@[simp] theorem State.setOwnerBacklog_bufs (s : State) (n : Nat) (b : Backlog) : (s.setOwnerBacklog n b).bufs = s.bufs := rfl
@[simp] theorem State.setOwnerBacklog_hbmPoison (s : State) (n : Nat) (b : Backlog) : (s.setOwnerBacklog n b).hbmPoison = s.hbmPoison := rfl
@[simp] theorem State.setOwnerBacklog_vaultPoison (s : State) (n : Nat) (b : Backlog) : (s.setOwnerBacklog n b).vaultPoison = s.vaultPoison := rfl
@[simp] theorem State.setOwnerBacklog_padPoison (s : State) (n : Nat) (b : Backlog) : (s.setOwnerBacklog n b).padPoison = s.padPoison := rfl
@[simp] theorem State.setOwnerBacklog_cores (s : State) (n : Nat) (b : Backlog) : (s.setOwnerBacklog n b).cores = s.cores := rfl
@[simp] theorem State.setOwnerBacklog_halls (s : State) (n : Nat) (b : Backlog) : (s.setOwnerBacklog n b).halls = s.halls := rfl
@[simp] theorem State.setOwnerBacklog_programs (s : State) (n : Nat) (b : Backlog) : (s.setOwnerBacklog n b).programs = s.programs := rfl
@[simp] theorem State.setOwnerBacklog_work (s : State) (n : Nat) (b : Backlog) : (s.setOwnerBacklog n b).work = s.work := rfl
@[simp] theorem State.setOwnerBacklog_nextId (s : State) (n : Nat) (b : Backlog) : (s.setOwnerBacklog n b).nextId = s.nextId := rfl
@[simp] theorem State.setOwnerBacklog_fab (s : State) (n : Nat) (b : Backlog) : (s.setOwnerBacklog n b).fab = s.fab := rfl
@[simp] theorem State.setOwnerBacklog_ports (s : State) (n : Nat) (b : Backlog) : (s.setOwnerBacklog n b).ports = s.ports := rfl
@[simp] theorem State.setOwnerBacklog_links (s : State) (n : Nat) (b : Backlog) : (s.setOwnerBacklog n b).links = s.links := rfl
@[simp] theorem State.setOwnerBacklog_host (s : State) (n : Nat) (b : Backlog) : (s.setOwnerBacklog n b).host = s.host := rfl
@[simp] theorem State.setOwnerBacklog_pwr (s : State) (n : Nat) (b : Backlog) : (s.setOwnerBacklog n b).pwr = s.pwr := rfl
@[simp] theorem State.setOwnerBacklog_fw (s : State) (n : Nat) (b : Backlog) : (s.setOwnerBacklog n b).fw = s.fw := rfl
@[simp] theorem State.setOwnerBacklog_flt (s : State) (n : Nat) (b : Backlog) : (s.setOwnerBacklog n b).flt = s.flt := rfl
@[simp] theorem State.setOwnerBacklog_out (s : State) (n : Nat) (b : Backlog) : (s.setOwnerBacklog n b).out = s.out := rfl
@[simp] theorem State.setOwnerBacklog_free (s : State) (n : Nat) (b : Backlog) : (s.setOwnerBacklog n b).free = s.free := rfl
@[simp] theorem State.setOwnerBacklog_hostWaits (s : State) (n : Nat) (b : Backlog) : (s.setOwnerBacklog n b).hostWaits = s.hostWaits := rfl
@[simp] theorem State.setOwnerBacklog_mintParams (s : State) (n : Nat) (b : Backlog) : (s.setOwnerBacklog n b).mintParams = s.mintParams := rfl
@[simp] theorem State.setOwnerBacklog_pending (s : State) (n : Nat) (b : Backlog) : (s.setOwnerBacklog n b).pending = s.pending := rfl

/-! ## State.emit -/

@[simp] theorem State.emit_dev (s : State) (o : Output) : (s.emit o).dev = s.dev := rfl
@[simp] theorem State.emit_porter (s : State) (o : Output) : (s.emit o).porter = s.porter := rfl
@[simp] theorem State.emit_regs (s : State) (o : Output) : (s.emit o).regs = s.regs := rfl
@[simp] theorem State.emit_cnt (s : State) (o : Output) : (s.emit o).cnt = s.cnt := rfl
@[simp] theorem State.emit_time (s : State) (o : Output) : (s.emit o).time = s.time := rfl
@[simp] theorem State.emit_stw (s : State) (o : Output) : (s.emit o).stw = s.stw := rfl
@[simp] theorem State.emit_rings (s : State) (o : Output) : (s.emit o).rings = s.rings := rfl
@[simp] theorem State.emit_owners (s : State) (o : Output) : (s.emit o).owners = s.owners := rfl
@[simp] theorem State.emit_tallies (s : State) (o : Output) : (s.emit o).tallies = s.tallies := rfl
@[simp] theorem State.emit_vectors (s : State) (o : Output) : (s.emit o).vectors = s.vectors := rfl
@[simp] theorem State.emit_parts (s : State) (o : Output) : (s.emit o).parts = s.parts := rfl
@[simp] theorem State.emit_settings (s : State) (o : Output) : (s.emit o).settings = s.settings := rfl
@[simp] theorem State.emit_hbm (s : State) (o : Output) : (s.emit o).hbm = s.hbm := rfl
@[simp] theorem State.emit_vault (s : State) (o : Output) : (s.emit o).vault = s.vault := rfl
@[simp] theorem State.emit_pads (s : State) (o : Output) : (s.emit o).pads = s.pads := rfl
@[simp] theorem State.emit_bufs (s : State) (o : Output) : (s.emit o).bufs = s.bufs := rfl
@[simp] theorem State.emit_hbmPoison (s : State) (o : Output) : (s.emit o).hbmPoison = s.hbmPoison := rfl
@[simp] theorem State.emit_vaultPoison (s : State) (o : Output) : (s.emit o).vaultPoison = s.vaultPoison := rfl
@[simp] theorem State.emit_padPoison (s : State) (o : Output) : (s.emit o).padPoison = s.padPoison := rfl
@[simp] theorem State.emit_cores (s : State) (o : Output) : (s.emit o).cores = s.cores := rfl
@[simp] theorem State.emit_halls (s : State) (o : Output) : (s.emit o).halls = s.halls := rfl
@[simp] theorem State.emit_programs (s : State) (o : Output) : (s.emit o).programs = s.programs := rfl
@[simp] theorem State.emit_work (s : State) (o : Output) : (s.emit o).work = s.work := rfl
@[simp] theorem State.emit_nextId (s : State) (o : Output) : (s.emit o).nextId = s.nextId := rfl
@[simp] theorem State.emit_fab (s : State) (o : Output) : (s.emit o).fab = s.fab := rfl
@[simp] theorem State.emit_ports (s : State) (o : Output) : (s.emit o).ports = s.ports := rfl
@[simp] theorem State.emit_links (s : State) (o : Output) : (s.emit o).links = s.links := rfl
@[simp] theorem State.emit_host (s : State) (o : Output) : (s.emit o).host = s.host := rfl
@[simp] theorem State.emit_pwr (s : State) (o : Output) : (s.emit o).pwr = s.pwr := rfl
@[simp] theorem State.emit_fw (s : State) (o : Output) : (s.emit o).fw = s.fw := rfl
@[simp] theorem State.emit_flt (s : State) (o : Output) : (s.emit o).flt = s.flt := rfl
@[simp] theorem State.emit_free (s : State) (o : Output) : (s.emit o).free = s.free := rfl
@[simp] theorem State.emit_hostWaits (s : State) (o : Output) : (s.emit o).hostWaits = s.hostWaits := rfl
@[simp] theorem State.emit_mintParams (s : State) (o : Output) : (s.emit o).mintParams = s.mintParams := rfl
@[simp] theorem State.emit_pending (s : State) (o : Output) : (s.emit o).pending = s.pending := rfl

/-! ## State.setProgram -/

@[simp] theorem State.setProgram_dev (s : State) (g : Program) : (s.setProgram g).dev = s.dev := rfl
@[simp] theorem State.setProgram_porter (s : State) (g : Program) : (s.setProgram g).porter = s.porter := rfl
@[simp] theorem State.setProgram_regs (s : State) (g : Program) : (s.setProgram g).regs = s.regs := rfl
@[simp] theorem State.setProgram_cnt (s : State) (g : Program) : (s.setProgram g).cnt = s.cnt := rfl
@[simp] theorem State.setProgram_time (s : State) (g : Program) : (s.setProgram g).time = s.time := rfl
@[simp] theorem State.setProgram_stw (s : State) (g : Program) : (s.setProgram g).stw = s.stw := rfl
@[simp] theorem State.setProgram_rings (s : State) (g : Program) : (s.setProgram g).rings = s.rings := rfl
@[simp] theorem State.setProgram_owners (s : State) (g : Program) : (s.setProgram g).owners = s.owners := rfl
@[simp] theorem State.setProgram_tallies (s : State) (g : Program) : (s.setProgram g).tallies = s.tallies := rfl
@[simp] theorem State.setProgram_vectors (s : State) (g : Program) : (s.setProgram g).vectors = s.vectors := rfl
@[simp] theorem State.setProgram_parts (s : State) (g : Program) : (s.setProgram g).parts = s.parts := rfl
@[simp] theorem State.setProgram_settings (s : State) (g : Program) : (s.setProgram g).settings = s.settings := rfl
@[simp] theorem State.setProgram_hbm (s : State) (g : Program) : (s.setProgram g).hbm = s.hbm := rfl
@[simp] theorem State.setProgram_vault (s : State) (g : Program) : (s.setProgram g).vault = s.vault := rfl
@[simp] theorem State.setProgram_pads (s : State) (g : Program) : (s.setProgram g).pads = s.pads := rfl
@[simp] theorem State.setProgram_bufs (s : State) (g : Program) : (s.setProgram g).bufs = s.bufs := rfl
@[simp] theorem State.setProgram_hbmPoison (s : State) (g : Program) : (s.setProgram g).hbmPoison = s.hbmPoison := rfl
@[simp] theorem State.setProgram_vaultPoison (s : State) (g : Program) : (s.setProgram g).vaultPoison = s.vaultPoison := rfl
@[simp] theorem State.setProgram_padPoison (s : State) (g : Program) : (s.setProgram g).padPoison = s.padPoison := rfl
@[simp] theorem State.setProgram_cores (s : State) (g : Program) : (s.setProgram g).cores = s.cores := rfl
@[simp] theorem State.setProgram_halls (s : State) (g : Program) : (s.setProgram g).halls = s.halls := rfl
@[simp] theorem State.setProgram_work (s : State) (g : Program) : (s.setProgram g).work = s.work := rfl
@[simp] theorem State.setProgram_nextId (s : State) (g : Program) : (s.setProgram g).nextId = s.nextId := rfl
@[simp] theorem State.setProgram_fab (s : State) (g : Program) : (s.setProgram g).fab = s.fab := rfl
@[simp] theorem State.setProgram_ports (s : State) (g : Program) : (s.setProgram g).ports = s.ports := rfl
@[simp] theorem State.setProgram_links (s : State) (g : Program) : (s.setProgram g).links = s.links := rfl
@[simp] theorem State.setProgram_host (s : State) (g : Program) : (s.setProgram g).host = s.host := rfl
@[simp] theorem State.setProgram_pwr (s : State) (g : Program) : (s.setProgram g).pwr = s.pwr := rfl
@[simp] theorem State.setProgram_fw (s : State) (g : Program) : (s.setProgram g).fw = s.fw := rfl
@[simp] theorem State.setProgram_flt (s : State) (g : Program) : (s.setProgram g).flt = s.flt := rfl
@[simp] theorem State.setProgram_out (s : State) (g : Program) : (s.setProgram g).out = s.out := rfl
@[simp] theorem State.setProgram_free (s : State) (g : Program) : (s.setProgram g).free = s.free := rfl
@[simp] theorem State.setProgram_hostWaits (s : State) (g : Program) : (s.setProgram g).hostWaits = s.hostWaits := rfl
@[simp] theorem State.setProgram_mintParams (s : State) (g : Program) : (s.setProgram g).mintParams = s.mintParams := rfl
@[simp] theorem State.setProgram_pending (s : State) (g : Program) : (s.setProgram g).pending = s.pending := rfl

/-! ## State.setWork -/

@[simp] theorem State.setWork_dev (s : State) (w : Work) : (s.setWork w).dev = s.dev := rfl
@[simp] theorem State.setWork_porter (s : State) (w : Work) : (s.setWork w).porter = s.porter := rfl
@[simp] theorem State.setWork_regs (s : State) (w : Work) : (s.setWork w).regs = s.regs := rfl
@[simp] theorem State.setWork_cnt (s : State) (w : Work) : (s.setWork w).cnt = s.cnt := rfl
@[simp] theorem State.setWork_time (s : State) (w : Work) : (s.setWork w).time = s.time := rfl
@[simp] theorem State.setWork_stw (s : State) (w : Work) : (s.setWork w).stw = s.stw := rfl
@[simp] theorem State.setWork_rings (s : State) (w : Work) : (s.setWork w).rings = s.rings := rfl
@[simp] theorem State.setWork_owners (s : State) (w : Work) : (s.setWork w).owners = s.owners := rfl
@[simp] theorem State.setWork_tallies (s : State) (w : Work) : (s.setWork w).tallies = s.tallies := rfl
@[simp] theorem State.setWork_vectors (s : State) (w : Work) : (s.setWork w).vectors = s.vectors := rfl
@[simp] theorem State.setWork_parts (s : State) (w : Work) : (s.setWork w).parts = s.parts := rfl
@[simp] theorem State.setWork_settings (s : State) (w : Work) : (s.setWork w).settings = s.settings := rfl
@[simp] theorem State.setWork_hbm (s : State) (w : Work) : (s.setWork w).hbm = s.hbm := rfl
@[simp] theorem State.setWork_vault (s : State) (w : Work) : (s.setWork w).vault = s.vault := rfl
@[simp] theorem State.setWork_pads (s : State) (w : Work) : (s.setWork w).pads = s.pads := rfl
@[simp] theorem State.setWork_bufs (s : State) (w : Work) : (s.setWork w).bufs = s.bufs := rfl
@[simp] theorem State.setWork_hbmPoison (s : State) (w : Work) : (s.setWork w).hbmPoison = s.hbmPoison := rfl
@[simp] theorem State.setWork_vaultPoison (s : State) (w : Work) : (s.setWork w).vaultPoison = s.vaultPoison := rfl
@[simp] theorem State.setWork_padPoison (s : State) (w : Work) : (s.setWork w).padPoison = s.padPoison := rfl
@[simp] theorem State.setWork_cores (s : State) (w : Work) : (s.setWork w).cores = s.cores := rfl
@[simp] theorem State.setWork_halls (s : State) (w : Work) : (s.setWork w).halls = s.halls := rfl
@[simp] theorem State.setWork_programs (s : State) (w : Work) : (s.setWork w).programs = s.programs := rfl
@[simp] theorem State.setWork_nextId (s : State) (w : Work) : (s.setWork w).nextId = s.nextId := rfl
@[simp] theorem State.setWork_fab (s : State) (w : Work) : (s.setWork w).fab = s.fab := rfl
@[simp] theorem State.setWork_ports (s : State) (w : Work) : (s.setWork w).ports = s.ports := rfl
@[simp] theorem State.setWork_links (s : State) (w : Work) : (s.setWork w).links = s.links := rfl
@[simp] theorem State.setWork_host (s : State) (w : Work) : (s.setWork w).host = s.host := rfl
@[simp] theorem State.setWork_pwr (s : State) (w : Work) : (s.setWork w).pwr = s.pwr := rfl
@[simp] theorem State.setWork_fw (s : State) (w : Work) : (s.setWork w).fw = s.fw := rfl
@[simp] theorem State.setWork_flt (s : State) (w : Work) : (s.setWork w).flt = s.flt := rfl
@[simp] theorem State.setWork_out (s : State) (w : Work) : (s.setWork w).out = s.out := rfl
@[simp] theorem State.setWork_free (s : State) (w : Work) : (s.setWork w).free = s.free := rfl
@[simp] theorem State.setWork_hostWaits (s : State) (w : Work) : (s.setWork w).hostWaits = s.hostWaits := rfl
@[simp] theorem State.setWork_mintParams (s : State) (w : Work) : (s.setWork w).mintParams = s.mintParams := rfl
@[simp] theorem State.setWork_pending (s : State) (w : Work) : (s.setWork w).pending = s.pending := rfl

/-! ## State.dropWork -/

@[simp] theorem State.dropWork_dev (s : State) (id : Nat) : (s.dropWork id).dev = s.dev := rfl
@[simp] theorem State.dropWork_porter (s : State) (id : Nat) : (s.dropWork id).porter = s.porter := rfl
@[simp] theorem State.dropWork_regs (s : State) (id : Nat) : (s.dropWork id).regs = s.regs := rfl
@[simp] theorem State.dropWork_cnt (s : State) (id : Nat) : (s.dropWork id).cnt = s.cnt := rfl
@[simp] theorem State.dropWork_time (s : State) (id : Nat) : (s.dropWork id).time = s.time := rfl
@[simp] theorem State.dropWork_stw (s : State) (id : Nat) : (s.dropWork id).stw = s.stw := rfl
@[simp] theorem State.dropWork_rings (s : State) (id : Nat) : (s.dropWork id).rings = s.rings := rfl
@[simp] theorem State.dropWork_owners (s : State) (id : Nat) : (s.dropWork id).owners = s.owners := rfl
@[simp] theorem State.dropWork_tallies (s : State) (id : Nat) : (s.dropWork id).tallies = s.tallies := rfl
@[simp] theorem State.dropWork_vectors (s : State) (id : Nat) : (s.dropWork id).vectors = s.vectors := rfl
@[simp] theorem State.dropWork_parts (s : State) (id : Nat) : (s.dropWork id).parts = s.parts := rfl
@[simp] theorem State.dropWork_settings (s : State) (id : Nat) : (s.dropWork id).settings = s.settings := rfl
@[simp] theorem State.dropWork_hbm (s : State) (id : Nat) : (s.dropWork id).hbm = s.hbm := rfl
@[simp] theorem State.dropWork_vault (s : State) (id : Nat) : (s.dropWork id).vault = s.vault := rfl
@[simp] theorem State.dropWork_pads (s : State) (id : Nat) : (s.dropWork id).pads = s.pads := rfl
@[simp] theorem State.dropWork_bufs (s : State) (id : Nat) : (s.dropWork id).bufs = s.bufs := rfl
@[simp] theorem State.dropWork_hbmPoison (s : State) (id : Nat) : (s.dropWork id).hbmPoison = s.hbmPoison := rfl
@[simp] theorem State.dropWork_vaultPoison (s : State) (id : Nat) : (s.dropWork id).vaultPoison = s.vaultPoison := rfl
@[simp] theorem State.dropWork_padPoison (s : State) (id : Nat) : (s.dropWork id).padPoison = s.padPoison := rfl
@[simp] theorem State.dropWork_cores (s : State) (id : Nat) : (s.dropWork id).cores = s.cores := rfl
@[simp] theorem State.dropWork_halls (s : State) (id : Nat) : (s.dropWork id).halls = s.halls := rfl
@[simp] theorem State.dropWork_programs (s : State) (id : Nat) : (s.dropWork id).programs = s.programs := rfl
@[simp] theorem State.dropWork_nextId (s : State) (id : Nat) : (s.dropWork id).nextId = s.nextId := rfl
@[simp] theorem State.dropWork_fab (s : State) (id : Nat) : (s.dropWork id).fab = s.fab := rfl
@[simp] theorem State.dropWork_ports (s : State) (id : Nat) : (s.dropWork id).ports = s.ports := rfl
@[simp] theorem State.dropWork_links (s : State) (id : Nat) : (s.dropWork id).links = s.links := rfl
@[simp] theorem State.dropWork_host (s : State) (id : Nat) : (s.dropWork id).host = s.host := rfl
@[simp] theorem State.dropWork_pwr (s : State) (id : Nat) : (s.dropWork id).pwr = s.pwr := rfl
@[simp] theorem State.dropWork_fw (s : State) (id : Nat) : (s.dropWork id).fw = s.fw := rfl
@[simp] theorem State.dropWork_flt (s : State) (id : Nat) : (s.dropWork id).flt = s.flt := rfl
@[simp] theorem State.dropWork_out (s : State) (id : Nat) : (s.dropWork id).out = s.out := rfl
@[simp] theorem State.dropWork_free (s : State) (id : Nat) : (s.dropWork id).free = s.free := rfl
@[simp] theorem State.dropWork_hostWaits (s : State) (id : Nat) : (s.dropWork id).hostWaits = s.hostWaits := rfl
@[simp] theorem State.dropWork_mintParams (s : State) (id : Nat) : (s.dropWork id).mintParams = s.mintParams := rfl
@[simp] theorem State.dropWork_pending (s : State) (id : Nat) : (s.dropWork id).pending = s.pending := rfl

/-! ## State.bump -/

@[simp] theorem State.bump_dev (s : State) (key n : Nat) : (s.bump key n).dev = s.dev := by unfold State.bump; split <;> rfl
@[simp] theorem State.bump_porter (s : State) (key n : Nat) : (s.bump key n).porter = s.porter := by unfold State.bump; split <;> rfl
@[simp] theorem State.bump_regs (s : State) (key n : Nat) : (s.bump key n).regs = s.regs := by unfold State.bump; split <;> rfl
@[simp] theorem State.bump_time (s : State) (key n : Nat) : (s.bump key n).time = s.time := by unfold State.bump; split <;> rfl
@[simp] theorem State.bump_stw (s : State) (key n : Nat) : (s.bump key n).stw = s.stw := by unfold State.bump; split <;> rfl
@[simp] theorem State.bump_rings (s : State) (key n : Nat) : (s.bump key n).rings = s.rings := by unfold State.bump; split <;> rfl
@[simp] theorem State.bump_owners (s : State) (key n : Nat) : (s.bump key n).owners = s.owners := by unfold State.bump; split <;> rfl
@[simp] theorem State.bump_tallies (s : State) (key n : Nat) : (s.bump key n).tallies = s.tallies := by unfold State.bump; split <;> rfl
@[simp] theorem State.bump_vectors (s : State) (key n : Nat) : (s.bump key n).vectors = s.vectors := by unfold State.bump; split <;> rfl
@[simp] theorem State.bump_parts (s : State) (key n : Nat) : (s.bump key n).parts = s.parts := by unfold State.bump; split <;> rfl
@[simp] theorem State.bump_settings (s : State) (key n : Nat) : (s.bump key n).settings = s.settings := by unfold State.bump; split <;> rfl
@[simp] theorem State.bump_hbm (s : State) (key n : Nat) : (s.bump key n).hbm = s.hbm := by unfold State.bump; split <;> rfl
@[simp] theorem State.bump_vault (s : State) (key n : Nat) : (s.bump key n).vault = s.vault := by unfold State.bump; split <;> rfl
@[simp] theorem State.bump_pads (s : State) (key n : Nat) : (s.bump key n).pads = s.pads := by unfold State.bump; split <;> rfl
@[simp] theorem State.bump_bufs (s : State) (key n : Nat) : (s.bump key n).bufs = s.bufs := by unfold State.bump; split <;> rfl
@[simp] theorem State.bump_hbmPoison (s : State) (key n : Nat) : (s.bump key n).hbmPoison = s.hbmPoison := by unfold State.bump; split <;> rfl
@[simp] theorem State.bump_vaultPoison (s : State) (key n : Nat) : (s.bump key n).vaultPoison = s.vaultPoison := by unfold State.bump; split <;> rfl
@[simp] theorem State.bump_padPoison (s : State) (key n : Nat) : (s.bump key n).padPoison = s.padPoison := by unfold State.bump; split <;> rfl
@[simp] theorem State.bump_cores (s : State) (key n : Nat) : (s.bump key n).cores = s.cores := by unfold State.bump; split <;> rfl
@[simp] theorem State.bump_halls (s : State) (key n : Nat) : (s.bump key n).halls = s.halls := by unfold State.bump; split <;> rfl
@[simp] theorem State.bump_programs (s : State) (key n : Nat) : (s.bump key n).programs = s.programs := by unfold State.bump; split <;> rfl
@[simp] theorem State.bump_work (s : State) (key n : Nat) : (s.bump key n).work = s.work := by unfold State.bump; split <;> rfl
@[simp] theorem State.bump_nextId (s : State) (key n : Nat) : (s.bump key n).nextId = s.nextId := by unfold State.bump; split <;> rfl
@[simp] theorem State.bump_fab (s : State) (key n : Nat) : (s.bump key n).fab = s.fab := by unfold State.bump; split <;> rfl
@[simp] theorem State.bump_ports (s : State) (key n : Nat) : (s.bump key n).ports = s.ports := by unfold State.bump; split <;> rfl
@[simp] theorem State.bump_links (s : State) (key n : Nat) : (s.bump key n).links = s.links := by unfold State.bump; split <;> rfl
@[simp] theorem State.bump_host (s : State) (key n : Nat) : (s.bump key n).host = s.host := by unfold State.bump; split <;> rfl
@[simp] theorem State.bump_pwr (s : State) (key n : Nat) : (s.bump key n).pwr = s.pwr := by unfold State.bump; split <;> rfl
@[simp] theorem State.bump_fw (s : State) (key n : Nat) : (s.bump key n).fw = s.fw := by unfold State.bump; split <;> rfl
@[simp] theorem State.bump_flt (s : State) (key n : Nat) : (s.bump key n).flt = s.flt := by unfold State.bump; split <;> rfl
@[simp] theorem State.bump_out (s : State) (key n : Nat) : (s.bump key n).out = s.out := by unfold State.bump; split <;> rfl
@[simp] theorem State.bump_free (s : State) (key n : Nat) : (s.bump key n).free = s.free := by unfold State.bump; split <;> rfl
@[simp] theorem State.bump_hostWaits (s : State) (key n : Nat) : (s.bump key n).hostWaits = s.hostWaits := by unfold State.bump; split <;> rfl
@[simp] theorem State.bump_mintParams (s : State) (key n : Nat) : (s.bump key n).mintParams = s.mintParams := by unfold State.bump; split <;> rfl
@[simp] theorem State.bump_pending (s : State) (key n : Nat) : (s.bump key n).pending = s.pending := by unfold State.bump; split <;> rfl

end Sys2Proof.Machine
end

