-- ==== Sys2Proof/Laws/Store.lean ====
section
/-!
SUPPORT. Laws of the sparse tables and byte memories: a read after a write, what a write leaves alone, and that every memory
operation keeps the canonical form of `Memory.wf`.
-/
namespace Sys2Proof.Machine

/-! ## Tables -/

/-- A key below every listed key has no value. -/
theorem tget?_eq_none_of_lt {α : Type} (t : Table α) (k : Nat) (h : ∀ e ∈ t, k < e.1) : tget? t k = none := by
  induction t with
  | nil => rfl
  | cons e t ih =>
    have h1 := h e (by simp)
    have h2 := ih (fun x hx => h x (by simp [hx]))
    obtain ⟨j, v⟩ := e
    simp only [tget?]
    rw [if_neg (by simp at h1; omega)]
    exact h2

/-- A value just written is read back. -/
@[simp] theorem tget?_tset_same {α : Type} (t : Table α) (k : Nat) (v : α) : tget? (tset t k v) k = some v := by
  induction t with
  | nil => simp [tset, tget?]
  | cons e t ih =>
    obtain ⟨j, w⟩ := e
    simp only [tset]
    split
    · simp [tget?]
    · split
      · simp [tget?]
      · rename_i h1 h2
        simp [tget?, h2, ih]

/-- A write leaves every other key alone. -/
theorem tget?_tset_ne {α : Type} (t : Table α) {k j : Nat} (v : α) (h : j ≠ k) : tget? (tset t k v) j = tget? t j := by
  induction t with
  | nil => simp [tset, tget?, Ne.symm h]
  | cons e t ih =>
    obtain ⟨i, w⟩ := e
    simp only [tset]
    split
    · simp [tget?, Ne.symm h]
    · split
      · rename_i h1 h2
        subst h2
        simp [tget?, Ne.symm h]
      · simp [tget?, ih]

/-- A value just written is read back, whatever the default. -/
@[simp] theorem tget_tset_same {α : Type} (d : α) (t : Table α) (k : Nat) (v : α) : tget d (tset t k v) k = v := by
  simp [tget]

/-- A write leaves every other key's value alone. -/
theorem tget_tset_ne {α : Type} (d : α) (t : Table α) {k j : Nat} (v : α) (h : j ≠ k) :
    tget d (tset t k v) j = tget d t j := by
  simp [tget, tget?_tset_ne t v h]

/-- A deleted key has no value. -/
@[simp] theorem tget?_tdel_same {α : Type} (t : Table α) (k : Nat) : tget? (tdel t k) k = none := by
  induction t with
  | nil => rfl
  | cons e t ih =>
    obtain ⟨j, v⟩ := e
    simp only [tdel, List.filter] at *
    split
    · rename_i h
      simp only [bne_iff_ne, ne_eq] at h
      simp [tget?, h, ih]
    · exact ih

/-- A deletion leaves every other key alone. -/
theorem tget?_tdel_ne {α : Type} (t : Table α) {k j : Nat} (h : j ≠ k) : tget? (tdel t k) j = tget? t j := by
  induction t with
  | nil => rfl
  | cons e t ih =>
    obtain ⟨i, v⟩ := e
    simp only [tdel, List.filter] at *
    split
    · simp [tget?, ih]
    · rename_i h2
      simp only [bne_eq_false_iff_eq] at h2
      rw [ih]
      simp [tget?, h2, Ne.symm h]

/-! ## Byte memories: reads after writes -/

/-- The byte just set is read back. -/
@[simp] theorem Memory.get_set_same (m : Memory) (a : Nat) (b : Byte) : (m.set a b).get a = b := by
  simp only [Memory.set, Memory.get]
  split
  · simp_all [tget]
  · simp

/-- Setting a byte leaves every other address alone. -/
theorem Memory.get_set_ne (m : Memory) {a x : Nat} (b : Byte) (h : x ≠ a) : (m.set a b).get x = m.get x := by
  simp only [Memory.set, Memory.get]
  split
  · simp [tget, tget?_tdel_ne m h]
  · exact tget_tset_ne 0 m b h

/-- A write leaves every address outside its bytes alone. -/
theorem Memory.get_write_outside (m : Memory) (a : Nat) (bs : Bytes) (x : Nat) (h : x < a ∨ a + bs.length ≤ x) :
    (m.write a bs).get x = m.get x := by
  induction bs generalizing m a with
  | nil => rfl
  | cons b bs ih =>
    simp only [Memory.write, List.length_cons] at *
    rw [ih (m.set a b) (a + 1) (by omega), Memory.get_set_ne m b (by omega)]

/-- A write puts byte i of its bytes at address a + i. -/
theorem Memory.get_write_inside (m : Memory) (a : Nat) (bs : Bytes) (i : Nat) (h : i < bs.length) :
    (m.write a bs).get (a + i) = bs.getD i 0 := by
  induction bs generalizing m a i with
  | nil => simp at h
  | cons b bs ih =>
    simp only [Memory.write]
    cases i with
    | zero =>
      rw [Memory.get_write_outside _ _ _ _ (by omega)]
      simp
    | succ i =>
      have h2 := ih (m.set a b) (a + 1) i (by simpa using h)
      rw [show a + (i + 1) = a + 1 + i by omega, h2]
      simp

/-- Reading back the bytes just written. -/
theorem Memory.read_write_same (m : Memory) (a : Nat) (bs : Bytes) : (m.write a bs).read a bs.length = bs := by
  induction bs generalizing m a with
  | nil => rfl
  | cons b bs ih =>
    simp only [Memory.write, List.length_cons, Memory.read]
    rw [ih, Memory.get_write_outside _ _ _ _ (by omega)]
    simp

/-! ## Byte memories: the canonical form -/

/-- The canonical form as two facts about the list: rising addresses, and no zero byte. -/
theorem Memory.wf_iff (m : Memory) : m.wf = true ↔ m.Pairwise (fun c d => c.1 < d.1) ∧ ∀ c ∈ m, c.2 ≠ 0 := by
  induction m with
  | nil => simp [Memory.wf]
  | cons c m ih =>
    obtain ⟨a, b⟩ := c
    cases m with
    | nil => simp [Memory.wf]
    | cons d t =>
      obtain ⟨x, y⟩ := d
      simp only [Memory.wf, Bool.and_eq_true, bne_iff_ne, ne_eq, decide_eq_true_eq, ih, List.pairwise_cons,
        List.mem_cons, forall_eq_or_imp]
      constructor
      · rintro ⟨⟨h1, h2⟩, ⟨h3, h4⟩, h5⟩
        exact ⟨⟨⟨h2, fun e he => Nat.lt_trans h2 (h3 e he)⟩, h3, h4⟩, h1, h5⟩
      · rintro ⟨⟨⟨h1, h2⟩, h3, h4⟩, h5, h6⟩
        exact ⟨⟨h5, h1⟩, ⟨h3, h4⟩, h6⟩

/-- The empty memory is canonical. -/
@[simp] theorem Memory.wf_nil : Memory.wf [] = true := rfl

/-- Leaving cells out keeps the canonical form. -/
theorem Memory.wf_filter (m : Memory) (p : Host.Cell → Bool) (h : m.wf = true) : Memory.wf (m.filter p) = true := by
  rw [Memory.wf_iff] at *
  exact ⟨h.1.filter p, fun c hc => h.2 c (List.mem_filter.mp hc).1⟩

/-- What `tset` lists: the new pair, and pairs that were listed. -/
theorem mem_tset {α : Type} (t : Table α) (k : Nat) (v : α) (e : Nat × α) (h : e ∈ tset t k v) :
    e = (k, v) ∨ e ∈ t := by
  induction t with
  | nil => simp [tset] at h; exact Or.inl h
  | cons d t ih =>
    obtain ⟨j, w⟩ := d
    simp only [tset] at h
    split at h
    · rcases List.mem_cons.mp h with h | h
      · exact Or.inl h
      · exact Or.inr h
    · split at h
      · rcases List.mem_cons.mp h with h | h
        · exact Or.inl h
        · exact Or.inr (List.mem_cons_of_mem _ h)
      · rcases List.mem_cons.mp h with h | h
        · exact Or.inr (by simp [h])
        · rcases ih h with h | h
          · exact Or.inl h
          · exact Or.inr (List.mem_cons_of_mem _ h)

/-- A write keeps a table's keys rising. -/
theorem pairwise_tset {α : Type} (t : Table α) (k : Nat) (v : α) (h : t.Pairwise (fun c d => c.1 < d.1)) :
    (tset t k v).Pairwise (fun c d => c.1 < d.1) := by
  induction t with
  | nil => simp [tset]
  | cons d t ih =>
    obtain ⟨j, w⟩ := d
    rw [List.pairwise_cons] at h
    simp only [tset]
    split
    · rename_i h1
      rw [List.pairwise_cons, List.pairwise_cons]
      refine ⟨?_, h⟩
      intro e he
      rcases List.mem_cons.mp he with he | he
      · subst he; exact h1
      · exact Nat.lt_trans h1 (h.1 e he)
    · split
      · rename_i h1 h2
        subst h2
        rw [List.pairwise_cons]
        exact h
      · rename_i h1 h2
        rw [List.pairwise_cons]
        refine ⟨?_, ih h.2⟩
        intro e he
        rcases mem_tset t k v e he with he | he
        · subst he; show j < k; omega
        · exact h.1 e he

/-- Setting a byte keeps the canonical form. -/
theorem Memory.wf_set (m : Memory) (a : Nat) (b : Byte) (h : m.wf = true) : (m.set a b).wf = true := by
  unfold Memory.set
  split
  · exact Memory.wf_filter m _ h
  · rename_i hb
    rw [Memory.wf_iff] at *
    refine ⟨pairwise_tset m a b h.1, ?_⟩
    intro c hc
    rcases mem_tset m a b c hc with hc | hc
    · subst hc; exact hb
    · exact h.2 c hc

/-- Writing bytes keeps the canonical form. -/
theorem Memory.wf_write (m : Memory) (a : Nat) (bs : Bytes) (h : m.wf = true) : (m.write a bs).wf = true := by
  induction bs generalizing m a with
  | nil => exact h
  | cons b bs ih => exact ih _ _ (Memory.wf_set m a b h)

/-- Filling bytes keeps the canonical form. -/
theorem Memory.wf_fill (m : Memory) (a : Nat) (f : Nat → Byte) (n : Nat) (h : m.wf = true) :
    (m.fill a f n).wf = true := by
  induction n generalizing m with
  | zero => exact h
  | succ n ih => exact ih _ (Memory.wf_set m _ _ h)

/-- Filling bytes leaves every address outside them alone. -/
theorem Memory.get_fill_outside (m : Memory) (a : Nat) (f : Nat → Byte) (n x : Nat) (h : x < a ∨ a + n ≤ x) :
    (m.fill a f n).get x = m.get x := by
  induction n generalizing m with
  | zero => rfl
  | succ n ih =>
    simp only [Memory.fill]
    rw [ih _ (by omega), Memory.get_set_ne m _ (by omega)]

/-- Filling bytes puts byte i of them at address a + i. -/
theorem Memory.get_fill_inside (m : Memory) (a : Nat) (f : Nat → Byte) (n i : Nat) (h : i < n) :
    (m.fill a f n).get (a + i) = f i := by
  induction n generalizing m with
  | zero => omega
  | succ n ih =>
    simp only [Memory.fill]
    rcases Nat.lt_succ_iff_lt_or_eq.mp h with k | k
    · exact ih _ k
    · subst k
      rw [Memory.get_fill_outside _ _ _ _ _ (by omega)]
      simp

/-- Zeroing a range keeps the canonical form. -/
theorem Memory.wf_zero (m : Memory) (a n : Nat) (h : m.wf = true) : (m.zero a n).wf = true :=
  Memory.wf_filter m _ h

/-- A slice of a canonical memory is canonical. -/
theorem Memory.wf_slice (m : Memory) (a n : Nat) (h : m.wf = true) : (m.slice a n).wf = true := by
  have h2 := Memory.wf_filter m (fun c => a ≤ c.1 && c.1 < a + n) h
  unfold Memory.slice
  rw [Memory.wf_iff] at *
  refine ⟨?_, ?_⟩
  · rw [List.pairwise_map]
    refine h2.1.imp_of_mem ?_
    intro c d hc hd hcd
    simp only [List.mem_filter, Bool.and_eq_true, decide_eq_true_eq] at hc hd
    show c.1 - a < d.1 - a
    omega
  · intro c hc
    obtain ⟨d, hd, rfl⟩ := List.mem_map.mp hc
    exact h2.2 d hd

/-- Setting the bytes of any list of cells keeps the canonical form. -/
theorem Memory.wf_foldl_set (l : List Host.Cell) (f : Host.Cell → Nat) (m : Memory) (h : m.wf = true) :
    Memory.wf (l.foldl (fun acc c => acc.set (f c) c.2) m) = true := by
  induction l generalizing m with
  | nil => exact h
  | cons c l ih => exact ih _ (Memory.wf_set m _ _ h)

/-- Pasting keeps the canonical form, whatever is pasted. -/
theorem Memory.wf_paste (m : Memory) (a n : Nat) (src : Memory) (h : m.wf = true) : (m.paste a n src).wf = true :=
  Memory.wf_foldl_set _ (fun c => a + c.1) _ (Memory.wf_zero m a n h)

end Sys2Proof.Machine
end

