-- ==== Sys2Proof/Laws/Ops.lean ====
section
/-!
SUPPORT. What each shared operation of Machine/Ops.lean can do: the gates of a command, the reads after named updates, what
posting a completion or an event leaves alone, and that neither touches the queue or a memory.
-/
namespace Sys2Proof.Machine

/-! ## Gates -/

/-- A bound block runs the effect of a command with no other condition. -/
theorem whenBound_bound {s : State} (f : State → State) (h : s.dev.unbound = false) : whenBound s f = .next (f s) := by
  simp [whenBound, h]

/-- An unbound block stops with `testControl`. -/
theorem whenBound_unbound {s : State} (f : State → State) (h : s.dev.unbound = true) :
    whenBound s f = .fault .testControl := by
  simp [whenBound, h]

/-- A gated command answers a state only on a bound block, and that state is the effect's. -/
theorem whenBound_next {s t : State} {f : State → State} (h : whenBound s f = .next t) :
    s.dev.unbound = false ∧ t = f s := by
  unfold whenBound at h
  split at h
  · cases h
  · cases h; exact ⟨by simp_all, rfl⟩

/-- A bound block that is Ready or Running runs the effect. -/
theorem whenUp_up {s : State} (f : State → State) (h : s.dev.unbound = false) (hu : s.isUp = true) :
    whenUp s f = .next (f s) := by
  simp [whenUp, whenBound, h, hu]

/-- In the other device states the command changes nothing. -/
theorem whenUp_down {s : State} (f : State → State) (h : s.dev.unbound = false) (hu : s.isUp = false) :
    whenUp s f = .next s := by
  simp [whenUp, whenBound, h, hu]

/-- What a command of Ready and Running answers. -/
theorem whenUp_next {s t : State} {f : State → State} (h : whenUp s f = .next t) :
    s.dev.unbound = false ∧ (t = f s ∨ t = s) := by
  obtain ⟨h1, h2⟩ := whenBound_next h
  refine ⟨h1, ?_⟩
  cases hu : s.isUp
  · exact Or.inr (by simpa [hu] using h2)
  · exact Or.inl (by simpa [hu] using h2)

/-- A bound block in Boot, Ready or Running runs the effect. -/
theorem whenOn_on {s : State} (f : State → State) (h : s.dev.unbound = false) (hu : s.isOn = true) :
    whenOn s f = .next (f s) := by
  simp [whenOn, whenBound, h, hu]

/-- What a command of Boot, Ready and Running answers. -/
theorem whenOn_next {s t : State} {f : State → State} (h : whenOn s f = .next t) :
    s.dev.unbound = false ∧ (t = f s ∨ t = s) := by
  obtain ⟨h1, h2⟩ := whenBound_next h
  refine ⟨h1, ?_⟩
  cases hu : s.isOn
  · exact Or.inr (by simpa [hu] using h2)
  · exact Or.inl (by simpa [hu] using h2)

/-- A command with well-formed data runs as one without. -/
theorem whenUpWf_wf {s : State} {ok : Bool} (m : String) (f : State → State) (h : ok = true) :
    whenUpWf ok m s f = whenUp s f := by
  simp [whenUpWf, h]

/-- What a command with data from outside answers. -/
theorem whenUpWf_next {s t : State} {ok : Bool} {m : String} {f : State → State} (h : whenUpWf ok m s f = .next t) :
    ok = true ∧ s.dev.unbound = false ∧ (t = f s ∨ t = s) := by
  cases ok with
  | false => simp [whenUpWf] at h
  | true => exact ⟨rfl, whenUp_next (by simpa [whenUpWf] using h)⟩

/-! ## Reads after named updates -/

@[simp] theorem State.ring_setRing_same (s : State) (n : Nat) (r : Ring) : (s.setRing n r).ring n = r := by
  simp [State.ring, State.setRing]

theorem State.ring_setRing_ne (s : State) {n m : Nat} (r : Ring) (h : m ≠ n) : (s.setRing n r).ring m = s.ring m := by
  simp [State.ring, State.setRing, tget_tset_ne _ _ _ h]

@[simp] theorem State.ring_modRing_same (s : State) (n : Nat) (f : Ring → Ring) : (s.modRing n f).ring n = f (s.ring n) := by
  simp [State.modRing]

theorem State.ring_modRing_ne (s : State) {n m : Nat} (f : Ring → Ring) (h : m ≠ n) :
    (s.modRing n f).ring m = s.ring m := by
  simp [State.modRing, State.ring_setRing_ne _ _ h]

@[simp] theorem State.part_setPart_same (s : State) (p : Nat) (q : Partition) : (s.setPart p q).part p = q := by
  simp [State.part, State.setPart]

theorem State.part_setPart_ne (s : State) {p o : Nat} (q : Partition) (h : o ≠ p) :
    (s.setPart p q).part o = s.part o := by
  simp [State.part, State.setPart, tget_tset_ne _ _ _ h]

@[simp] theorem State.part_modPart_same (s : State) (p : Nat) (f : Partition → Partition) :
    (s.modPart p f).part p = f (s.part p) := by
  simp [State.modPart]

@[simp] theorem State.core_setCore_same (s : State) (c : Nat) (x : Core) : (s.setCore c x).core c = x := by
  simp [State.core, State.setCore]

@[simp] theorem State.tally_setTally_same (s : State) (k : Nat) (v : Tally) : (s.setTally k v).tally k = v := by
  simp [State.tally, State.setTally]

theorem State.tally_setTally_ne (s : State) {k j : Nat} (v : Tally) (h : j ≠ k) :
    (s.setTally k v).tally j = s.tally j := by
  simp [State.tally, State.setTally, tget_tset_ne _ _ _ h]

@[simp] theorem State.vector_setVector_same (s : State) (v : Nat) (x : Vector) : (s.setVector v x).vector v = x := by
  simp [State.vector, State.setVector]

@[simp] theorem State.link_modLink_same (s : State) (n : Nat) (f : Link → Link) : (s.modLink n f).link n = f (s.link n) := by
  simp [State.link, State.modLink]

@[simp] theorem State.port_modPort_same (s : State) (n : Nat) (f : Port → Port) : (s.modPort n f).port n = f (s.port n) := by
  simp [State.port, State.modPort]

/-- A counter that counts n more. -/
theorem State.counter_bump_same (s : State) (k n : Nat) : (s.bump k n).counter k = s.counter k + BitVec.ofNat 32 n := by
  unfold State.bump
  split
  · rename_i h; subst h; simp
  · simp [State.counter]

/-- Another counter does not move. -/
theorem State.counter_bump_ne (s : State) {k j : Nat} (n : Nat) (h : j ≠ k) : (s.bump k n).counter j = s.counter j := by
  unfold State.bump
  split
  · rfl
  · simp [State.counter, tget_tset_ne _ _ _ h]

/-! ## What posting a completion leaves alone -/

@[simp] theorem apartFromCompletions_setRing (s : State) (n : Nat) (r : Ring) :
    (s.setRing n r).apartFromCompletions = s.apartFromCompletions := rfl

@[simp] theorem apartFromCompletions_modRing (s : State) (n : Nat) (f : Ring → Ring) :
    (s.modRing n f).apartFromCompletions = s.apartFromCompletions := rfl

@[simp] theorem apartFromCompletions_setVector (s : State) (v : Nat) (x : Vector) :
    (s.setVector v x).apartFromCompletions = s.apartFromCompletions := rfl

@[simp] theorem apartFromCompletions_emit (s : State) (o : Output) :
    (s.emit o).apartFromCompletions = s.apartFromCompletions := rfl

/-- What goes to the host is out, or waits to go. -/
@[simp] theorem apartFromCompletions_sendHost (o : Output) (s : State) :
    (sendHost o s).apartFromCompletions = s.apartFromCompletions := by
  unfold sendHost; split <;> rfl

@[simp] theorem apartFromCompletions_toHost (a : Nat) (bs : Bytes) (p : Bool) (s : State) :
    (toHost a bs p s).apartFromCompletions = s.apartFromCompletions := apartFromCompletions_sendHost _ s

@[simp] theorem apartFromCompletions_flushHost (s : State) :
    (flushHost s).apartFromCompletions = s.apartFromCompletions := by
  unfold flushHost; split <;> rfl

@[simp] theorem apartFromCompletions_setOwnerBacklog (s : State) (o : Nat) (b : Backlog) :
    (s.setOwnerBacklog o b).apartFromCompletions = s.apartFromCompletions := rfl

@[simp] theorem apartFromCompletions_fireVector (v : Nat) (s : State) :
    (fireVector v s).apartFromCompletions = s.apartFromCompletions := by
  unfold fireVector; dsimp only; split <;> simp

@[simp] theorem apartFromCompletions_tellBlock (n : Nat) (s : State) :
    (tellBlock n s).apartFromCompletions = s.apartFromCompletions := by
  simp [tellBlock]

/-- A change told in the control block leaves alone what the change leaves alone. -/
theorem apartFromCompletions_telling (n : Nat) (f : State → State) (s : State)
    (h : (f s).apartFromCompletions = s.apartFromCompletions) :
    (telling n f s).apartFromCompletions = s.apartFromCompletions := by
  unfold telling; dsimp only; split
  · exact h
  · rw [apartFromCompletions_tellBlock, h]

@[simp] theorem apartFromCompletions_writeRec (n : Nat) (x : Rec) (s : State) :
    (writeRec n x s).apartFromCompletions = s.apartFromCompletions := by
  simp [writeRec]

@[simp] theorem apartFromCompletions_countEntry (n : Nat) (s : State) :
    (countEntry n s).apartFromCompletions = s.apartFromCompletions := by
  unfold countEntry; dsimp only; split <;> simp

@[simp] theorem apartFromCompletions_writeCpl (n : Nat) (c : Cpl) (s : State) :
    (writeCpl n c s).apartFromCompletions = s.apartFromCompletions := by
  unfold writeCpl; dsimp only; split <;> simp

@[simp] theorem apartFromCompletions_drainCpls (n fuel : Nat) (s : State) :
    (drainCpls n fuel s).apartFromCompletions = s.apartFromCompletions := by
  induction fuel generalizing s with
  | zero => rfl
  | succ k ih =>
    unfold drainCpls
    dsimp only
    split
    · split
      · rw [ih]; simp
      · rfl
    · rfl

@[simp] theorem apartFromCompletions_postCpl (n : Nat) (c : Cpl) (s : State) :
    (postCpl n c s).apartFromCompletions = s.apartFromCompletions := by
  simp [postCpl]

@[simp] theorem apartFromCompletions_postFor (rn : Nat) (tag : Word) (st d res aux : Nat) (b : Bool) (s : State) :
    (postFor rn tag st d res aux b s).apartFromCompletions = s.apartFromCompletions := by
  simp [postFor]

@[simp] theorem apartFromCompletions_releaseSlots (n k : Nat) (s : State) :
    (releaseSlots n k s).apartFromCompletions = s.apartFromCompletions := by
  simp [releaseSlots]

@[simp] theorem apartFromCompletions_postReplay (rn : Nat) (w : Final) (s : State) (l : Live) :
    (postReplay rn w s l).apartFromCompletions = s.apartFromCompletions := by
  simp [postReplay]

/-- A fold of operations that each leave a view alone leaves it alone. -/
theorem foldl_keeps {α β γ : Type} (view : α → γ) (f : α → β → α) (h : ∀ a b, view (f a b) = view a) (l : List β) (a : α) :
    view (l.foldl f a) = view a := by
  induction l generalizing a with
  | nil => rfl
  | cons b l ih => rw [List.foldl_cons, ih, h]

@[simp] theorem apartFromCompletions_finishOne (rn : Nat) (tag : Word) (st d res aux : Nat) (s : State) :
    (finishOne rn tag st d res aux s).apartFromCompletions = s.apartFromCompletions := by
  unfold finishOne
  dsimp only
  split
  · rfl
  · rw [foldl_keeps State.apartFromCompletions _ (fun a b => apartFromCompletions_postReplay rn _ a b)]
    simp

@[simp] theorem apartFromCompletions_closeRing (n : Nat) (s : State) :
    (closeRing n s).apartFromCompletions = s.apartFromCompletions := by
  unfold closeRing
  dsimp only
  split
  · rfl
  · split
    · exact apartFromCompletions_telling _ _ _ rfl
    · rw [apartFromCompletions_finishOne]; exact apartFromCompletions_telling _ _ _ rfl

@[simp] theorem apartFromCompletions_writeEvent (n : Nat) (e : Evt) (s : State) :
    (writeEvent n e s).apartFromCompletions = s.apartFromCompletions := by
  simp [writeEvent]

@[simp] theorem apartFromCompletions_drainEvents (n fuel : Nat) (s : State) :
    (drainEvents n fuel s).apartFromCompletions = s.apartFromCompletions := by
  induction fuel generalizing s with
  | zero => rfl
  | succ k ih =>
    unfold drainEvents
    dsimp only
    split
    · split
      · rw [ih]; simp
      · split
        · rfl
        · rw [ih]; simp
    · rfl

@[simp] theorem apartFromCompletions_adoptBacklog (n : Nat) (s : State) :
    (adoptBacklog n s).apartFromCompletions = s.apartFromCompletions := by
  simp [adoptBacklog]

@[simp] theorem apartFromCompletions_bootWaits (s : State) : (bootWaits s).apartFromCompletions = s.apartFromCompletions := by
  unfold bootWaits; split
  · simp [enableBootRings]
  · rfl

@[simp] theorem apartFromCompletions_closeRings (fuel : Nat) (s : State) :
    (closeRings fuel s).apartFromCompletions = s.apartFromCompletions := by
  induction fuel generalizing s with
  | zero => rfl
  | succ k ih =>
    unfold closeRings
    split
    · rfl
    · rw [ih]; simp

/-- A final completion changes rings, vectors and outputs only. -/
@[simp] theorem apartFromCompletions_finish (rn : Nat) (tag : Word) (st d res aux : Nat) (s : State) :
    (finish rn tag st d res aux s).apartFromCompletions = s.apartFromCompletions := by
  simp [finish]

/-- DEFERRED changes rings, vectors and outputs only. -/
@[simp] theorem apartFromCompletions_interim (rn : Nat) (tag : Word) (d res aux : Nat) (s : State) :
    (interim rn tag d res aux s).apartFromCompletions = s.apartFromCompletions := by
  simp [interim]

@[simp] theorem apartFromCompletions_popHead (rn : Nat) (s : State) :
    (popHead rn s).apartFromCompletions = s.apartFromCompletions := by
  simp [popHead]

@[simp] theorem apartFromCompletions_holdHead (rn : Nat) (s : State) :
    (holdHead rn s).apartFromCompletions = s.apartFromCompletions := by
  simp [holdHead]

/-! ## What posting an event leaves alone -/

/-- Whatever leaves the state apart from completions alone leaves it apart from reports alone. -/
theorem apartFromReports_of_completions {s t : State} (h : t.apartFromCompletions = s.apartFromCompletions) :
    t.apartFromReports = s.apartFromReports := by
  have k := congrArg State.apartFromReports h
  exact k

@[simp] theorem apartFromReports_bump (s : State) (k n : Nat) : (s.bump k n).apartFromReports = s.apartFromReports := by
  unfold State.bump; split <;> rfl

@[simp] theorem apartFromReports_setRing (s : State) (n : Nat) (r : Ring) :
    (s.setRing n r).apartFromReports = s.apartFromReports := rfl

@[simp] theorem apartFromReports_setOwnerBacklog (s : State) (o : Nat) (b : Backlog) :
    (s.setOwnerBacklog o b).apartFromReports = s.apartFromReports := rfl

@[simp] theorem apartFromReports_countEntry (n : Nat) (s : State) :
    (countEntry n s).apartFromReports = s.apartFromReports :=
  apartFromReports_of_completions (apartFromCompletions_countEntry n s)

@[simp] theorem apartFromReports_writeEvent (n : Nat) (e : Evt) (s : State) :
    (writeEvent n e s).apartFromReports = s.apartFromReports :=
  apartFromReports_of_completions (apartFromCompletions_writeEvent n e s)

@[simp] theorem apartFromReports_drainEvents (n fuel : Nat) (s : State) :
    (drainEvents n fuel s).apartFromReports = s.apartFromReports :=
  apartFromReports_of_completions (apartFromCompletions_drainEvents n fuel s)

@[simp] theorem apartFromReports_deliverEvent (e : Evt) (s : State) (n : Nat) :
    (deliverEvent e s n).apartFromReports = s.apartFromReports := by
  unfold deliverEvent; dsimp only; split <;> simp

@[simp] theorem apartFromReports_deliver (e : Evt) (s : State) : (deliver e s).apartFromReports = s.apartFromReports := by
  unfold deliver
  split
  · dsimp only; split <;> simp
  · rw [foldl_keeps State.apartFromReports _ (fun a b => apartFromReports_deliverEvent e a b)]

/-- An event changes rings, vectors, outputs, owner backlogs, RNG_EVT_LOST and the fault log only. -/
@[simp] theorem apartFromReports_postEvent (o code sev src pl : Nat) (s : State) :
    (postEvent o code sev src pl s).apartFromReports = s.apartFromReports := by
  unfold postEvent
  dsimp only
  rw [apartFromReports_deliver]
  split <;> rfl

/-- A final completion leaves everything but reports alone. -/
@[simp] theorem apartFromReports_finish (rn : Nat) (tag : Word) (st d res aux : Nat) (s : State) :
    (finish rn tag st d res aux s).apartFromReports = s.apartFromReports :=
  apartFromReports_of_completions (apartFromCompletions_finish rn tag st d res aux s)

@[simp] theorem apartFromReports_interim (rn : Nat) (tag : Word) (d res aux : Nat) (s : State) :
    (interim rn tag d res aux s).apartFromReports = s.apartFromReports :=
  apartFromReports_of_completions (apartFromCompletions_interim rn tag d res aux s)

@[simp] theorem apartFromReports_popHead (rn : Nat) (s : State) : (popHead rn s).apartFromReports = s.apartFromReports :=
  apartFromReports_of_completions (apartFromCompletions_popHead rn s)

@[simp] theorem apartFromReports_holdHead (rn : Nat) (s : State) : (holdHead rn s).apartFromReports = s.apartFromReports :=
  apartFromReports_of_completions (apartFromCompletions_holdHead rn s)

/-! ## The queue and the memories -/

/-- Nothing changed is nothing broken. -/
theorem Evolves.refl (s : State) : Evolves s s := ⟨rfl, id⟩

/-- Two changes that break nothing, one after the other. -/
theorem Evolves.trans {s t u : State} (h : Evolves s t) (k : Evolves t u) : Evolves s u :=
  ⟨k.1.trans h.1, fun w => k.2 (h.2 w)⟩

/-- A change of reports only breaks nothing. -/
theorem Evolves.of_reports {s t : State} (h : t.apartFromReports = s.apartFromReports) : Evolves s t := by
  have hp := congrArg State.pending h
  have hm := congrArg State.memoriesWf h
  exact ⟨hp, fun w => Eq.trans hm w⟩

/-- A change that leaves the queue and the four memories alone breaks nothing. -/
theorem Evolves.of_same {s t : State} (hp : t.pending = s.pending) (h1 : t.hbm = s.hbm) (h2 : t.vault = s.vault)
    (h3 : t.pads = s.pads) (h4 : t.bufs = s.bufs) : Evolves s t := by
  refine ⟨hp, fun w => ?_⟩
  simpa [State.memoriesWf, h1, h2, h3, h4] using w

/-- A fold of operations that break nothing breaks nothing. -/
theorem Evolves.foldl {β : Type} (f : State → β → State) (h : ∀ s b, Evolves s (f s b)) (l : List β) (s : State) :
    Evolves s (l.foldl f s) := by
  induction l generalizing s with
  | nil => exact Evolves.refl s
  | cons b l ih => exact (h s b).trans (ih (f s b))

/-- Canonical memories, one by one. -/
theorem memoriesWf_iff (s : State) :
    s.memoriesWf = true ↔ s.hbm.wf = true ∧ s.vault.wf = true ∧ s.pads.wf = true ∧ s.bufs.wf = true := by
  simp [State.memoriesWf, and_assoc]

theorem evolves_postEvent (o code sev src pl : Nat) (s : State) : Evolves s (postEvent o code sev src pl s) :=
  Evolves.of_reports (apartFromReports_postEvent o code sev src pl s)

theorem evolves_finish (rn : Nat) (tag : Word) (st d res aux : Nat) (s : State) :
    Evolves s (finish rn tag st d res aux s) :=
  Evolves.of_reports (apartFromReports_finish rn tag st d res aux s)

theorem evolves_interim (rn : Nat) (tag : Word) (d res aux : Nat) (s : State) : Evolves s (interim rn tag d res aux s) :=
  Evolves.of_reports (apartFromReports_interim rn tag d res aux s)

theorem evolves_popHead (rn : Nat) (s : State) : Evolves s (popHead rn s) :=
  Evolves.of_reports (apartFromReports_popHead rn s)

theorem evolves_bump (s : State) (k n : Nat) : Evolves s (s.bump k n) :=
  Evolves.of_reports (apartFromReports_bump s k n)

/-- A command gated by `whenBound` breaks nothing if its effect breaks nothing. -/
theorem evolves_whenBound {s t : State} {f : State → State} (hf : ∀ s, Evolves s (f s)) (h : whenBound s f = .next t) :
    Evolves s t := by
  rw [(whenBound_next h).2]; exact hf s

/-- A command gated by `whenUp` breaks nothing if its effect breaks nothing. -/
theorem evolves_whenUp {s t : State} {f : State → State} (hf : ∀ s, Evolves s (f s)) (h : whenUp s f = .next t) :
    Evolves s t := by
  rcases (whenUp_next h).2 with h | h
  · rw [h]; exact hf s
  · rw [h]; exact Evolves.refl s

/-- A command gated by `whenOn` breaks nothing if its effect breaks nothing. -/
theorem evolves_whenOn {s t : State} {f : State → State} (hf : ∀ s, Evolves s (f s)) (h : whenOn s f = .next t) :
    Evolves s t := by
  rcases (whenOn_next h).2 with h | h
  · rw [h]; exact hf s
  · rw [h]; exact Evolves.refl s

/-- A command gated by `whenUpWf` breaks nothing if its effect breaks nothing. -/
theorem evolves_whenUpWf {s t : State} {ok : Bool} {m : String} {f : State → State} (hf : ∀ s, Evolves s (f s))
    (h : whenUpWf ok m s f = .next t) : Evolves s t := by
  rcases (whenUpWf_next h).2.2 with h | h
  · rw [h]; exact hf s
  · rw [h]; exact Evolves.refl s

/-! ## The head of a ring -/

/-- What a head is: the first fetched descriptor of an Enabled ring, of the opcode, not held by FENCE. -/
theorem headOf_some {op rn : Nat} {s : State} {f : Fetched} (h : headOf op rn s = some f) :
    (s.ring rn).fetched.head? = some f ∧ (s.ring rn).state = .enabled ∧ byteAt f.bytes 0 = op ∧
      fenceHolds rn f s = false := by
  unfold headOf at h
  dsimp only at h
  split at h
  · cases h
  · rename_i g rest hg
    split at h
    · rename_i hc
      cases h
      simp [hg, hc.1, hc.2.1, hc.2.2.1]
    · cases h

/-- A command that takes a head runs on the state without it. -/
theorem withHead_some {op rn : Nat} {s : State} {f : Fetched} (k : Fetched → State → State) (h : headOf op rn s = some f) :
    withHead op rn s k = k f (popHead rn s) := by
  simp [withHead, h]

/-- With no such head nothing changes. -/
theorem withHead_none {op rn : Nat} {s : State} (k : Fetched → State → State) (h : headOf op rn s = none) :
    withHead op rn s k = s := by
  simp [withHead, h]

/-- Taking the head leaves the rest of the ring's descriptors. -/
theorem ring_popHead (rn : Nat) (s : State) :
    (popHead rn s).ring rn = { s.ring rn with fetched := (s.ring rn).fetched.tail, due := (s.ring rn).due - 1 } := by
  simp [popHead]

end Sys2Proof.Machine
end

