-- ==== Sys2Proof/Laws/Transport.lean ====
section
/-!
SUPPORT. What sending and receiving a frame can change: nothing outside the connections, ports, links and reports
(`State.apartFromSending`), and which frames this device takes.
-/
namespace Sys2Proof.Machine

/-! ## Sending leaves the rest alone -/

theorem apartFromSending_of_reports {s t : State} (h : t.apartFromReports = s.apartFromReports) :
    t.apartFromSending = s.apartFromSending := by
  have hf : t.apartFromReports.fab = s.apartFromReports.fab := by rw [h]
  have hf : t.fab = s.fab := hf
  simp only [State.apartFromSending, h, hf]

@[simp] theorem apartFromSending_bump (s : State) (k n : Nat) : (s.bump k n).apartFromSending = s.apartFromSending :=
  apartFromSending_of_reports (apartFromReports_bump s k n)

@[simp] theorem apartFromSending_emit (s : State) (o : Output) : (s.emit o).apartFromSending = s.apartFromSending := rfl

@[simp] theorem apartFromSending_modPort (s : State) (q : Nat) (f : Port → Port) :
    (s.modPort q f).apartFromSending = s.apartFromSending := rfl

@[simp] theorem apartFromSending_modLink (s : State) (n : Nat) (f : Link → Link) :
    (s.modLink n f).apartFromSending = s.apartFromSending := rfl

@[simp] theorem apartFromSending_setChannel (q i : Nat) (c : Secy) (s : State) :
    (setChannel q i c s).apartFromSending = s.apartFromSending := rfl

@[simp] theorem apartFromSending_setNeighbour (n : Nat) (x : Neighbour) (s : State) :
    (setNeighbour n x s).apartFromSending = s.apartFromSending := rfl

@[simp] theorem apartFromSending_setConn (c : Conn) (s : State) : (setConn c s).apartFromSending = s.apartFromSending := rfl

@[simp] theorem apartFromSending_postEvent (o code sev src pl : Nat) (s : State) :
    (postEvent o code sev src pl s).apartFromSending = s.apartFromSending :=
  apartFromSending_of_reports (apartFromReports_postEvent o code sev src pl s)

@[simp] theorem apartFromSending_finish (rn : Nat) (tag : Word) (st d res aux : Nat) (s : State) :
    (finish rn tag st d res aux s).apartFromSending = s.apartFromSending :=
  apartFromSending_of_reports (apartFromReports_finish rn tag st d res aux s)

@[simp] theorem apartFromSending_popHead (rn : Nat) (s : State) : (popHead rn s).apartFromSending = s.apartFromSending :=
  rfl

@[simp] theorem apartFromSending_neighbourDown (n : Nat) (s : State) :
    (neighbourDown n s).apartFromSending = s.apartFromSending := by
  unfold neighbourDown; dsimp only; split <;> simp [neighbourEvent]

/-! Each step of sending keeps the rest when what it hands on to does. -/

theorem apartFromSending_takePn {lost : Nat → State → State}
    (h : ∀ n s, (lost n s).apartFromSending = s.apartFromSending) (n : Nat) (x : Secured) (s : State) :
    (takePn lost n x s).apartFromSending = s.apartFromSending := by
  unfold takePn; dsimp only; repeat' split
  all_goals simp [h]

theorem apartFromSending_wireWith {lost : Nat → State → State}
    (h : ∀ n s, (lost n s).apartFromSending = s.apartFromSending) (n : Nat) (f : Frame) (s : State) :
    (wireWith lost n f s).apartFromSending = s.apartFromSending := by
  unfold wireWith; split
  · split <;> simp
  · dsimp only; split
    · rw [apartFromSending_takePn h]; simp
    · simp

theorem apartFromSending_emitWith {lost : Nat → State → State}
    (h : ∀ n s, (lost n s).apartFromSending = s.apartFromSending) (l : Option Nat) (f : Frame) (s : State) :
    (emitWith lost l f s).apartFromSending = s.apartFromSending := by
  unfold emitWith; split
  · rfl
  · dsimp only; split
    · simp
    · split
      · simp
      · rw [apartFromSending_wireWith h]; simp

theorem apartFromSending_transmitWith {send : Option Nat → Frame → State → State}
    (h : ∀ l f s, (send l f s).apartFromSending = s.apartFromSending) (c : Conn) (f : Frame) (s : State) :
    (transmitWith send c f s).apartFromSending = s.apartFromSending := by
  unfold transmitWith; dsimp only; split
  · rw [h]
  · split
    · rfl
    · rw [h]

theorem apartFromSending_resendWith {send : Option Nat → Frame → State → State}
    (h : ∀ l f s, (send l f s).apartFromSending = s.apartFromSending) (id : ConnId) (s : State) :
    (resendWith send id s).apartFromSending = s.apartFromSending := by
  unfold resendWith; dsimp only
  refine foldl_keeps State.apartFromSending _ ?_ _ _
  intro a b; split
  · simp [apartFromSending_transmitWith h]
  · rfl

theorem apartFromSending_moveWith {send : Option Nat → Frame → State → State}
    (h : ∀ l f s, (send l f s).apartFromSending = s.apartFromSending) (c : Conn) (n : Nat) (s : State) :
    (moveWith send c n s).apartFromSending = s.apartFromSending := by
  unfold moveWith; dsimp only; rw [apartFromSending_resendWith h]; simp

theorem apartFromSending_lostWith {send : Option Nat → Frame → State → State}
    (h : ∀ l f s, (send l f s).apartFromSending = s.apartFromSending) (n : Nat) (s : State) :
    (lostWith send n s).apartFromSending = s.apartFromSending := by
  unfold lostWith
  refine foldl_keeps State.apartFromSending _ ?_ _ _
  intro a b; dsimp only; split
  · exact apartFromSending_moveWith h _ _ _
  · rfl

theorem apartFromSending_sendFrame (fuel : Nat) (l : Option Nat) (f : Frame) (s : State) :
    (sendFrame fuel l f s).apartFromSending = s.apartFromSending := by
  induction fuel generalizing l f s with
  | zero => exact apartFromSending_emitWith (fun _ _ => rfl) l f s
  | succ n ih => exact apartFromSending_emitWith (apartFromSending_lostWith ih) l f s

@[simp] theorem apartFromSending_emitFrame (l : Option Nat) (f : Frame) (s : State) :
    (emitFrame l f s).apartFromSending = s.apartFromSending := apartFromSending_sendFrame 64 l f s

@[simp] theorem apartFromSending_linkLost (n : Nat) (s : State) : (linkLost n s).apartFromSending = s.apartFromSending :=
  apartFromSending_lostWith apartFromSending_emitFrame n s

@[simp] theorem apartFromSending_wireSend (n : Nat) (f : Frame) (s : State) :
    (wireSend n f s).apartFromSending = s.apartFromSending := apartFromSending_wireWith apartFromSending_linkLost n f s

@[simp] theorem apartFromSending_sendPlain (f : Frame) (s : State) : (sendPlain f s).apartFromSending = s.apartFromSending := by
  unfold sendPlain; split
  · simp
  · split <;> simp

@[simp] theorem apartFromSending_transmit (c : Conn) (f : Frame) (s : State) :
    (transmit c f s).apartFromSending = s.apartFromSending := apartFromSending_transmitWith apartFromSending_emitFrame c f s

@[simp] theorem apartFromSending_sendReliable (f : Frame) (w : Option Nat) (p : Nat) (s : State) :
    (sendReliable f w p s).apartFromSending = s.apartFromSending := by
  unfold sendReliable; dsimp only; split <;> simp

@[simp] theorem apartFromSending_drainQueued (id : ConnId) (fuel : Nat) (s : State) :
    (drainQueued id fuel s).apartFromSending = s.apartFromSending := by
  induction fuel generalizing s with
  | zero => rfl
  | succ n ih =>
    unfold drainQueued; dsimp only; split
    · rfl
    · split
      · simp [ih]
      · rfl

@[simp] theorem apartFromSending_resendAll (id : ConnId) (s : State) :
    (resendAll id s).apartFromSending = s.apartFromSending := apartFromSending_resendWith apartFromSending_emitFrame id s

@[simp] theorem apartFromSending_sendAck (id : ConnId) (s : State) :
    (sendAck id s).apartFromSending = s.apartFromSending := by
  unfold sendAck; dsimp only; split
  · simp
  · split <;> simp

@[simp] theorem apartFromSending_takeAck (id : ConnId) (ack : Word) (s : State) :
    (takeAck id ack s).apartFromSending = s.apartFromSending := by
  unfold takeAck; dsimp only; split <;> simp

@[simp] theorem apartFromSending_notePn (n : Nat) (f : EthFrame) (s : State) :
    (notePn n f s).apartFromSending = s.apartFromSending := by
  unfold notePn; split
  · rfl
  · dsimp only; split <;> simp

@[simp] theorem apartFromSending_macReceive (l : Nat) (f : Frame) (s : State) :
    (macReceive l f s).apartFromSending = s.apartFromSending := by
  unfold macReceive; split <;> simp [countRx]

@[simp] theorem apartFromSending_sendBeaconTo (b : Beacon) (s : State) (a : Half) :
    (sendBeaconTo b s a).apartFromSending = s.apartFromSending := by
  unfold sendBeaconTo; dsimp only; split <;> simp

@[simp] theorem apartFromSending_sendBeacon (b : Beacon) (s : State) :
    (sendBeacon b s).apartFromSending = s.apartFromSending :=
  foldl_keeps State.apartFromSending _ (fun a b' => apartFromSending_sendBeaconTo b a b') _ _

@[simp] theorem apartFromSending_respond (f : Frame) (st v : Nat) (s : State) :
    (respond f st v s).apartFromSending = s.apartFromSending := by
  unfold respond; simp

/-! ## What a frame finds -/

/-- A packet number noted changes ports only. -/
theorem notePn_eq (n : Nat) (f : EthFrame) (s : State) : ∃ p, notePn n f s = { s with ports := p } := by
  unfold notePn; split
  · exact ⟨_, rfl⟩
  · dsimp only; split <;> exact ⟨_, rfl⟩

theorem bump_eq (s : State) (k n : Nat) : ∃ c, s.bump k n = { s with cnt := c } := by
  unfold State.bump; split <;> exact ⟨_, rfl⟩

/-- Receipt by the MAC changes counters and the packet numbers of ports only. -/
theorem macReceive_eq (l : Nat) (f : Frame) (s : State) : ∃ c p, macReceive l f s = { s with cnt := c, ports := p } := by
  unfold macReceive; split
  · exact ⟨_, _, rfl⟩
  · obtain ⟨c1, e1⟩ := bump_eq s (kLink l (4 * sizeBin f.rx.length)) 1
    rw [countRx, e1]
    obtain ⟨c2, e2⟩ := bump_eq { s with cnt := c1 } (kLink l 0x48) 1
    rw [e2]
    obtain ⟨p, e3⟩ := notePn_eq l f.rx { s with cnt := c2 }
    exact ⟨c2, p, e3⟩

/-- A frame that this device accepts reaches what its row does. -/
theorem withFrame_hears {l : Nat} {f : Frame} {s : State} (k : State → State) (h : s.hears l f = true) :
    withFrame l f s k = k (macReceive l f s) := by
  obtain ⟨c, p, e⟩ := macReceive_eq l f s
  simp only [State.hears, Bool.and_eq_true, beq_iff_eq] at h
  have he : (macReceive l f s).fab.enable = true := by rw [e]; exact h.1.1.2
  have hd : f.dst = fabAddr (macReceive l f s) := by rw [e]; exact h.2
  unfold withFrame; dsimp only
  rw [if_neg (by simp [h.1.1.1]), if_neg (by simp [he]), if_pos ⟨h.1.2, hd⟩]

/-- The first copy of a member's beacon of its kind reaches what its row does. -/
theorem withBeacon_takes {kind l : Nat} {f : Frame} {s : State} (k : Beacon → State → State)
    (h : s.takesBeacon kind l f = true) :
    ∃ c p, withBeacon kind l f s k = k (beaconOf f.payload)
      { s with cnt := c, ports := p, stw := { s.stw with
        seen := s.stw.seen ++ [(kind, BitVec.ofNat 48 (beaconOf f.payload).riser, f.src)] } } := by
  simp only [State.takesBeacon, Bool.and_eq_true, beq_iff_eq, Bool.not_eq_true'] at h
  obtain ⟨c, p, e⟩ := macReceive_eq l f s
  have hb : ∃ c, (macReceive l f s).bump kRx = { s with cnt := c, ports := p } := by
    rw [e]; obtain ⟨c', e'⟩ := bump_eq { s with cnt := c, ports := p } kRx 1; exact ⟨c', e'⟩
  obtain ⟨c, e'⟩ := hb
  refine ⟨c, p, ?_⟩
  unfold withBeacon
  rw [withFrame_hears _ h.1.1.1]
  dsimp only
  rw [e', if_neg]
  · rfl
  · rintro (h1 | h1 | h1)
    · exact h1 h.1.1.2
    · have h2 := h.1.2
      simp only [beaconMembers] at h1 h2
      rw [h2] at h1; cases h1
    · have h2 := h.2
      simp only at h1 h2
      rw [h2] at h1; cases h1

end Sys2Proof.Machine
end

