-- ==== Sys2Proof/Tests/Slice0.lean ====
section
/-!
SUPPORT. The model's own tests: commands that no bus can carry are refused; small states that meet the hypotheses of every
statement of Certificates/Slice0/Obligations.lean (`wit_…`, one per statement, each of its clauses); and single steps whose
expected results are worked out from spec/ (`test_…`).
-/
namespace Sys2Proof.Tests
open Sys2Proof.Machine
set_option Elab.async false

/-! ## Small states -/

/-- n bytes with little-endian fields (offset, value). -/
def fields (n : Nat) (l : List (Nat × Nat)) : Bytes := toLE (l.foldl (fun a x => a + x.2 * 256 ^ x.1) 0) n

/-- A descriptor (Table 3-6): opcode, version 1, and fields. -/
def desc (op : Nat) (l : List (Nat × Nat)) : Bytes := fields 64 ((0, op) :: (3, 1) :: l)

/-- A fetched descriptor of tag 1. -/
def fet (b : Bytes) : Fetched := { tag := 1, bytes := b, done := 0, waited := 0, landed := false, seen := 0 }

/-- Ready after a whole Boot, with module 0 trained. -/
def ready : State :=
  { State.reset with
    dev := { State.reset.dev with state := .up, bootStep := 13 }
    host := { State.reset.host with halves := [0, 1] } }

/-- The same in another device state and Boot step. -/
def inState (d : DevState) (k : Nat) : State := { ready with dev := { ready.dev with state := d, bootStep := k } }

/-- `s` with ring n of an owner Enabled and `f` at its head since the last riser; its CPL ring is ring 1. -/
def head (n owner : Nat) (f : Fetched) (s : State) : State :=
  s.setRing n { Ring.atReset with
    owner := owner, state := .enabled, cpl := 1, fetched := [f], due := 1
    live := [{ tag := f.tag, irq := false, slots := 1, opcode := byteAt f.bytes 0 }] }

/-- An Enabled CPL ring 1 of the device domain. -/
def withCpl (s : State) : State := s.setRing 1 { Ring.atReset with cls := 7, owner := 255, state := .enabled }

/-- Partition 0 changed. -/
def part0 (q : Partition) (s : State) : State := s.setPart 0 q

/-- A Running partition that holds no flight. -/
def running : Partition := { Partition.atReset with state := .running }

/-- A flight in progress, with number 1. -/
def flight1 : Flight :=
  { plan := { ring := 2, tag := 9, flight := 1, length := 4, set := 0, members := 0, replay := false }
    pos := 1
    slips := 0
    holds := 0 }

/-- A Running partition with flight 1 in progress. -/
def flying : Partition := { running with flight := some flight1 }

/-- A frame of this device to itself, of a type and class. -/
def frame (type : Nat) (cls : Fin 4) (payload : Bytes) : Frame :=
  { version := 1, type := type, dst := 0, src := 0, cls := cls, stripe := 0, hops := 2, seq := 1, ack := 0, txn := 0,
    operation := 0, offset := 0, senderRank := 0, receiverRank := 0, payload := payload, rx := noEther }

/-- A request of partition 0 and transaction 0 to a peer. -/
def request0 (peer : Half) (w : Waiter) : Request :=
  { conn := { peer := peer, cls := 1, stripe := 0 }, txn := 0, waiter := w, part := 0, frame := frame 0x05 1 [],
    fenced := false }

/-- What a Boot step finds when nothing fails. -/
def allGood : BootFindings :=
  { ms := 10, pufOk := true, recordOk := true, slot0Reason := 0, slot1Reason := 0, tellerReady := true, hbmFailed := [],
    vaultFailed := [], avs0 := 0, avs1 := 0 }

/-! ## Commands of an impossible form are refused by name -/

theorem test_refuses_boot_findings_out_of_range :
    Machine.exec (.bootStepEnd { allGood with slot0Reason := 256 }) ready = .refused (.illFormed "BOOT_STEP_END") ∧
    Machine.exec (.bootStepEnd { allGood with slot1Reason := 256 }) ready = .refused (.illFormed "BOOT_STEP_END") ∧
    Machine.exec (.bootStepEnd { allGood with hbmFailed := [256] }) ready = .refused (.illFormed "BOOT_STEP_END") ∧
    Machine.exec (.bootStepEnd { allGood with vaultFailed := [64] }) ready = .refused (.illFormed "BOOT_STEP_END") := by
  exact ⟨rfl, rfl, rfl, rfl⟩

theorem test_refuses_bytes_of_the_wrong_length :
    Machine.exec (.descriptorFetched 3 []) ready = .refused (.illFormed "DESCRIPTOR_FETCHED") ∧
    Machine.exec (.partConfig 3 []) ready = .refused (.illFormed "PART_CONFIG") ∧
    Machine.exec (.stwForm 3 []) ready = .refused (.illFormed "STW_FORM") ∧
    Machine.exec (.hdmAccess 1 none) ready = .refused (.illFormed "HDM_ACCESS") ∧
    Machine.exec (.hdmAccess 0 (some [])) ready = .refused (.illFormed "HDM_ACCESS") ∧
    Machine.exec (.pfcFrame 0 0 []) ready = .refused (.illFormed "PFC_FRAME") ∧
    Machine.exec (.estimateTick PowerEstimate.none) ready = .refused (.illFormed "ESTIMATE_TICK") ∧
    Machine.exec (.fecInterval 0 0 0 [] [] false) ready = .refused (.illFormed "FEC_INTERVAL") := by
  exact ⟨rfl, rfl, rfl, rfl, rfl, rfl, rfl, rfl⟩

theorem test_refuses_frames_of_another_kind :
    (∀ c ∈ [Instr.helloReceived 0 (frame 9 0 []), .ackReceived 0 (frame 9 0 []), .riserBeaconReceived 0 (frame 9 0 []) 0,
      .slipBeaconReceived 0 (frame 9 0 []), .holdBeaconReceived 0 (frame 9 0 []), .poisonBeaconReceived 0 (frame 9 0 []),
      .haltBeaconReceived 0 (frame 9 0 []), .resumeBeaconReceived 0 (frame 9 0 []),
      .probeRequestReceived 0 (frame 9 0 []) 0 0, .probeResponseReceived 0 (frame 9 0 []) 0,
      .remoteAddReq 0 (frame 9 0 []), .stwResumeReq 0 (frame 9 0 []), .readyReq 0 (frame 9 0 []),
      .countReq 0 (frame 9 0 []), .respReceived 0 (frame 9 0 []), .mintExchangeReceived 0 (frame 9 0 []),
      .collectiveData 0 (frame 9 0 []), .queueData 0 (frame 9 0 []), .creditReceived 0 (frame 9 0 []),
      .frameRelay 0 (frame 256 0 [])],
      c.wellFormed = false ∧ (match Machine.exec c ready with | .refused _ => true | _ => false) = true) := by
  decide +kernel

/-! ## States that meet the hypotheses of each statement -/

theorem wit_StepTakesTheFrontCommand :
    ({ ready with pending := [.riser RiserFindings.none] } : State).pending ≠ [] ∧ ready.pending = [] := by decide +kernel

theorem wit_EveryStepKeepsQueueOrderAndMemoryForm :
    ready.dev.unbound = false ∧ (Instr.riser RiserFindings.none).wellFormed = true ∧ ready.memoriesWf = true ∧
    ∃ t, Machine.step { ready with pending := [.harvest 0 0, .riser RiserFindings.none] } = .next t ∧ t.pending = [.riser RiserFindings.none] ∧
      t.memoriesWf = true := ⟨rfl, rfl, by decide +kernel, _, rfl, by decide +kernel, by decide +kernel⟩

/-- A block on which an RSV field has been changed. -/
def unbound : State := { ready with dev := { ready.dev with unbound := true } }

theorem wit_RsvWriteStopsTheBlock :
    unbound.dev.unbound = true ∧ (Instr.riser RiserFindings.none).wellFormed = true ∧ endsUnbound (.riser RiserFindings.none) = false ∧
    ready.dev.unbound = false ∧ cxlUp ready = true ∧ 2 ^ 24 ≤ (0x01000000 : Word).toNat := by decide +kernel

/-- Off, Standby after Off, and Standby with MAIN_EN high. -/
def off : State := { inState .off 0 with dev := { ready.dev with state := .off } }
def standby : State := { ready with dev := { ready.dev with state := .standby, fromOff := true, mainEn := true } }

theorem wit_PowerPinsMoveTheDevice :
    off.dev.unbound = false ∧ off.dev.state = .off ∧
    standby.dev.unbound = false ∧ standby.dev.state = .standby ∧ standby.dev.fromOff = true ∧ standby.dev.mainEn = true ∧
    ready.dev.state ≠ .off ∧ (inState .boot 1).dev.state = .boot ∧ (inState .fault 1).dev.state = .fault := by
  decide +kernel

theorem wit_ResetsBeginBootAgain :
    ready.dev.unbound = false ∧ cxlUp ready = true ∧ resetActs ready = true ∧ (inState .fault 13).dev.unbound = false ∧
    resetActs { inState .fault 13 with dev := { (inState .fault 13).dev with faultCode := 2 } } = true ∧
    cxlUp (inState .fault 13) = true ∧ cxlUp (inState .boot 4) = true ∧ resetActs (inState .boot 4) = true ∧
    ({ inState .fault 13 with dev := { (inState .fault 13).dev with faultCode := 1 } } : State).dev.faultCode = 1 := by
  decide +kernel

theorem wit_BootStepsLeadToReady :
    (Instr.bootStepEnd allGood).wellFormed = true ∧ State.reset.dev.unbound = false ∧ State.reset.dev.state = .boot ∧
    State.reset.dev.rails = true ∧
    (∀ k ∈ [1, 2, 3, 4, 5, 6, 7, 8, 9, 10, 11, 12, 13],
      (inState .boot k).dev.bootStep = k ∧ (inState .boot k).dev.rails = true ∧ (inState .boot k).dev.unbound = false) ∧
    (∀ n : Fin 2, bootReason n 0 (inState .boot 5) = 0 ∧ bootReason n 1 (inState .boot 5) ≠ 0) ∧
    allGood.hbmFailed = [] ∧ allGood.vaultFailed = [] ∧ (inState .boot 9).flt.outOfService = [] ∧
    (inState .boot 9).flt.retired = [] ∧
    (Instr.bootStepEnd { allGood with hbmFailed := List.range 32, vaultFailed := List.range 8 }).wellFormed = true := by
  decide +kernel

theorem wit_OrderlyShutdownLeadsToStandby :
    ready.dev.unbound = false ∧ cxlUp ready = true ∧ ready.dev.shutdown = none ∧ shutdownLegal ready = true ∧
    shutdownLegal (part0 running ready) = false ∧ cxlUp (part0 running ready) = true ∧
    (∀ k ∈ [1, 2, 3, 4],
      ({ ready with dev := { ready.dev with shutdown := some k } } : State).serves = true) := by decide +kernel

theorem wit_ModuleTripStopsTheModule : ready.powered = true ∧ State.reset.powered = true := by decide +kernel

/-- A port whose search lacks the last bits of the code 0x8000, and has seen light for 3 ms. -/
def lastBits : State :=
  { standby with porter := { code := 0x8000, searches := [(0, { lit := true, got := 8, bits := List.replicate 15 false })] } }

theorem wit_PorterSearchesInStandby :
    standby.dev.unbound = false ∧ standby.dev.state = .standby ∧
    tget Search.atReset standby.porter.searches 0 = Search.atReset ∧ ready.dev.state ≠ .standby ∧
    lastBits.dev.state = .standby ∧ (tget Search.atReset lastBits.porter.searches 0).lit ≠ false ∧
    (tget Search.atReset lastBits.porter.searches 0).got ≠ 0 ∧
    searchStep (tget Search.atReset lastBits.porter.searches 0) true 3000 = (none, some (List.replicate 15 false ++ [true])) ∧
    codeOf (List.replicate 15 false ++ [true]) = lastBits.porter.code.toNat ∧ lastBits.porter.code ≠ 0 := by decide +kernel

theorem wit_RegisterWritesFollowTheirAccessCodes :
    ready.dev.unbound = false ∧ cxlUp ready = true ∧ (0x00123456 : Word).toNat < 2 ^ 24 ∧ (0x40 : Word) &&& 3 = 0 ∧
    (0x0105 : Word).toNat < 2 ^ 16 ∧ ({ ready with fab := { ready.fab with enable := true } } : State).fab.enable = true ∧
    (0x0E0000 ≤ 0x0E0000 ∧ 0x0E0000 < 0x1000000 ∧ 0x0E0000 % 4 = 0) ∧ (0xFFFFFC < 0x1000000 ∧ 0xFFFFFC % 4 = 0) ∧
    (8 ≠ 4 ∨ 0 % 4 ≠ 0) ∧ (4 ≠ 4 ∨ 2 % 4 ≠ 0) := by decide +kernel

theorem wit_HarvestTakesHalfTheCounter :
    ready.dev.unbound = false ∧ cxlUp ready = true ∧ 0x0D0010 ∈ directCounters ∧
    0x80000000 ≤ ((ready.bump 0x0D0010 0x80000000).counter 0x0D0010).toNat ∧
    ¬ 0x80000000 ≤ (ready.counter 0x0D0010).toNat := by decide +kernel

/-- The indirect port at an address of a space. -/
def indirect (sel : BitVec 4) (a : Word) : State := { ready with regs := { ready.regs with iaSel := sel, iaAddr := a } }

theorem wit_IndirectAccessFollowsIaAddr :
    (3 : Word).toNat < 16 ∧ (indirect 0 0).regs.iaAddr.toNat < spaceSize (indirect 0 0).regs.iaSel.toNat ∧
    spaceSize (indirect 15 0).regs.iaSel.toNat ≤ (indirect 15 0).regs.iaAddr.toNat ∧
    (indirect 7 0).regs.iaSel = 7 ∧ (indirect 7 0).regs.iaAddr = 0 ∧ (0x1234 : Word).toNat < 65536 ∧
    (indirect 7 0).dev.unbound = false ∧ cxlUp (indirect 7 0) = true := by decide +kernel

/-- A device with fabric address 0x0001. -/
def addressed : State := { ready with fab := { ready.fab with device := 1 } }

theorem wit_FabricRouteAndWakeWritesTakeEffect :
    addressed.dev.unbound = false ∧ cxlUp addressed = true ∧ addrOk addressed = true ∧ (0x88B51000 : Word).toNat % 256 = 0 ∧
    (0x88B51001 : Word).toNat % 256 = 1 ∧ (0x40000000 : Word).toNat / 65536 % 256 = 0 ∧ ready.serves = true ∧
    ready.regs.wakeBusy = false ∧ (ready.port 3).enable = false ∧
    (0x00031234 : Word).toNat = 65536 * 3 + (0x1234 : Half).toNat ∧
    (indirect 9 0).regs.iaSel = 9 ∧ (indirect 9 0).dev.unbound = false ∧ cxlUp (indirect 9 0) = true ∧
    (indirect 9 0).regs.iaAddr.toNat = 16 * (0 : Half).toNat + 4 * 0 ∧
    (indirect 9 0xFFFF8).regs.iaAddr.toNat = 16 * (0xFFFF : Half).toNat + 4 * 2 := by decide +kernel

theorem wit_SidebandReachesHostRegisters :
    ready.dev.unbound = false ∧ ready.dev.state ≠ .off ∧ ready.dev.state ≠ .standby ∧
    0x0B0004 ∈ [0x000000, 0x0B0000, 0x0B0004] ∧ 0x0B0008 ∉ [0x000000, 0x0B0000, 0x0B0004] ∧
    (0x00320100 : Word).toNat < 2 ^ 24 ∧ ready.powered = true := by decide +kernel

/-- Rings 0 to 2 enabled through RNG_BOOT_CTL. -/
def booted : State :=
  (((({ ready with regs := { ready.regs with bootEnable := true } } : State).setRing 0
    { Ring.atReset with cls := 5, owner := 255, state := .enabled, cpl := 1 }).setRing 1
    { Ring.atReset with cls := 7, owner := 255, state := .enabled }).setRing 2
    { Ring.atReset with cls := 6, owner := 255, state := .enabled })

/-- Legal values of RNG_BOOT_CTL, and registers that they make illegal. -/
def badBase : State := { ready with regs := { ready.regs with bootBases := [1, 0, 0, 0, 0, 0, 0, 0] } }

theorem wit_BootRingsFollowTheirRegisters :
    ready.serves = true ∧ cxlUp ready = true ∧ ready.dev.shutdown = none ∧ ready.regs.bootEnable = false ∧
    bit (0x80000000 : Word).toNat 31 = true ∧
    bits (0x80000000 : Word).toNat 12 4 = 0 ∧ (∀ n ∈ [0, 1, 2], (ready.ring n).state = .disabled) ∧
    bootLegal { ready with regs := { ready.regs with bootEnable := true } } = true ∧
    bootLegal { badBase with regs := { badBase.regs with bootEnable := true } } = false ∧ badBase.regs.bootEnable = false ∧
    booted.serves = true ∧ booted.regs.bootEnable = true ∧ (booted.ring 0).cls = 5 ∧ (booted.ring 2).cls = 6 ∧
    (∀ n ∈ [0, 1, 2], (booted.ring n).live = [] ∧ (booted.ring n).fetched = [] ∧ unposted n booted = []) ∧
    (∀ e ∈ booted.rings, e.2.closing = none ∧ (e.1 < 3 ∨ e.2.live? = false)) ∧
    bit (0 : Word).toNat 31 = false ∧ bits (0 : Word).toNat 12 4 = 0 := by decide +kernel

/-- Ring 3 as an Enabled submission ring, ring 4 as a Paused CPL ring with two records posted. -/
def ringed : State :=
  (ready.setRing 3 { Ring.atReset with state := .enabled, prod := 2, cons := 1 }).setRing 4
    { Ring.atReset with cls := 7, state := .paused, prod := 2, cons := 0 }

theorem wit_DoorbellsMoveTheIndices :
    ringed.powered = true ∧ cxlUp ringed = true ∧ (ringed.ring 3).cls ≤ 5 ∧ takesDoorbell (ringed.ring 3) = true ∧
    (((65 : Word) - (ringed.ring 3).cons).toNat ≤ 2 ^ (ringed.ring 3).k ∧
      ((65 : Word) - (ringed.ring 3).prod).toNat ≤ 2 ^ (ringed.ring 3).k) ∧
    2 ^ (ringed.ring 3).k < ((66 : Word) - (ringed.ring 3).cons).toNat ∧
    (ringed.ring 4).cls = 7 ∧ takesDoorbell (ringed.ring 4) = true ∧ (ringed.ring 4).backlog = [] ∧
    (ringed.ring 4).lost = 0 ∧
    ((2 : Word) - (ringed.ring 4).cons).toNat ≤ ((ringed.ring 4).prod - (ringed.ring 4).cons).toNat ∧
    ((ringed.ring 4).prod - (ringed.ring 4).cons).toNat < ((3 : Word) - (ringed.ring 4).cons).toNat ∧
    (65535 < 65536 ∧ 4 ≠ 8) ∧ (ringed.ring 5).state = .disabled := by decide +kernel

/-- Ring 3 with an interrupt count and a time threshold, its vector 0 unmasked or masked. -/
def counting (m : Bool) : State :=
  (ready.setRing 3 { Ring.atReset with state := .enabled, countThr := 2, timeThr := 1, irqs := 1 }).setVector 0
    { Vector.atReset with masked := m }

theorem wit_InterruptsFireAndUnmask :
    (counting false).serves = true ∧ ((counting false).ring 3).state ≠ .disabled ∧ ((counting false).ring 3).countThr ≠ 0 ∧
    ((counting false).ring 3).timeThr ≠ 0 ∧ (ready.ring 3).countThr = 0 ∧
    ((counting false).ring 3).irqs ≠ 0 ∧ ((counting false).vector 0).masked = false ∧ (counting false).host.halves ≠ [] ∧
    (counting false).regs.funcMask = false ∧ ((counting true).vector 0).masked = true ∧
    ready.dev.unbound = false ∧ cxlUp ready = true ∧ (ready.vector 7).pending = false ∧ ready.regs.funcMask = false ∧
    ((ready.setVector 7 { Vector.atReset with pending := true }).vector 7).pending = true := by decide +kernel

/-- A NOP at the head of ring 3, whose CPL ring 1 is Enabled. -/
def nopHead : State := withCpl (head 3 255 (fet (desc 0 [])) ready)

theorem wit_FinalCompletionPostsOnce :
    (nopHead.ring 3).cpl = 1 ∧ 1 ≠ 3 ∧ nopHead.dev.state ≠ .fault ∧
    (nopHead.ring 3).live.find? (fun x => x.tag == 1) = some { tag := 1, irq := false, slots := 1, opcode := 0 } ∧
    (nopHead.ring 3).dups.filter (fun x => x.tag == 1) = [] ∧ (nopHead.ring 1).state = .enabled ∧
    (nopHead.ring 1).waiting = [] := by decide +kernel

/-- Ring 3 with a descriptor to fetch, the high tag and the replay window as given. -/
def fetching (high : Option Word) (window : List Final) : State :=
  withCpl (ready.setRing 3 { Ring.atReset with
    state := .enabled, owner := 255, cls := 5, cpl := 1, prod := 1, high := high, window := window })

theorem wit_FetchedDescriptorIsCheckedByTag :
    (fetching none []).serves = true ∧ (desc 0 [(2, 255), (4, 5)]).length = 64 ∧ canDefer (byteAt (desc 0 [(2, 255), (4, 5)]) 0) = false ∧
    fetches 3 1 (fetching none []) = true ∧ ((fetching none []).ring 3).cpl ≠ 3 ∧
    reissues (.fetch 3) (fetching none []) = 0 ∧ newer (5 : Word) 4 = true ∧ fetches 3 1 (fetching (some 4) []) = true ∧
    descriptorCheck 3 (desc 0 [(2, 255), (4, 5)]) (fetching none []) = none ∧
    newer (BitVec.ofNat 32 (u32 (desc 0 [(2, 255), (4, 5)]) 4)) 5 = false ∧
    ((fetching (some 5) [{ tag := 5, status := 0, result := 0, aux := 0 }]).ring 3).window.find? (fun w => w.tag == 5) =
      some { tag := 5, status := 0, result := 0, aux := 0 } ∧
    ((fetching (some 5) []).ring 3).window.find? (fun w => w.tag == 5) = none ∧
    ((fetching (some 5) []).ring 3).live.any (fun l => l.tag == 5) = false := by decide +kernel

/-- A NOP with FENCE alone in execution, whose predecessor's completion of tag 0 waits on a Paused CPL ring. -/
def fencedByRecord : State :=
  (head 3 255 (fet (desc 0 [(1, 1)])) ready).setRing 1 { Ring.atReset with
    cls := 7, owner := 255, state := .paused
    waiting := [record 3 0 0 0 0 0 false ready] }

/-- A NOP with FENCE behind an unfinished descriptor. -/
def fenced : State :=
  ready.setRing 3 { Ring.atReset with
    state := .enabled, fetched := [fet (desc 0 [(1, 1)])]
    live := [{ tag := 0, irq := false, slots := 1, opcode := 0 }, { tag := 1, irq := false, slots := 1, opcode := 0 }] }

theorem wit_NopCompletesAndFenceHolds :
    nopHead.serves = true ∧ headOf 0x00 3 nopHead = some (fet (desc 0 [])) ∧ fenced.serves = true ∧
    (fenced.ring 3).fetched = fet (desc 0 [(1, 1)]) :: [] ∧ bit (byteAt (fet (desc 0 [(1, 1)])).bytes 1) 0 = true ∧
    (∃ l ls, (fenced.ring 3).live = l :: ls ∧ l.tag ≠ (fet (desc 0 [(1, 1)])).tag) ∧ fencedByRecord.serves = true ∧
    (fencedByRecord.ring 3).fetched = fet (desc 0 [(1, 1)]) :: [] ∧
    (∃ c ∈ unposted 3 fencedByRecord, c.status ≠ 0x08 ∧ newer (fet (desc 0 [(1, 1)])).tag c.tag = true) := by
  refine ⟨?_, ?_, ?_, ?_, ?_, ⟨_, _, rfl, ?_⟩, ?_, ?_, ?_⟩ <;> decide +kernel

/-- A ring command for ring 10 at the head of ring 0, ring 10 in a state. -/
def ringCmd (op : Nat) (st : RingState) : State :=
  (head 0 255 (fet (desc op [(16, 10)])) ready).setRing 10 { Ring.atReset with state := st }

/-- RING_ENABLE of a CPL ring. -/
def enabling : Fetched := fet (desc 0x60 [(16, 10), (18, 7), (19, 255), (20, 6), (22, 1), (24, 0x100000)])

theorem wit_RingCommandsMoveTheNamedRing :
    (∀ x ∈ [(0x61, RingState.enabled), (0x61, .paused), (0x62, .paused), (0x62, .enabled), (0x64, .error), (0x64, .paused),
        (0x63, .enabled), (0x63, .disabled), (0x60, .enabled)],
      (ringCmd x.1 x.2).serves = true ∧ headOf x.1 0 (ringCmd x.1 x.2) = some (fet (desc x.1 [(16, 10)])) ∧
        u16 (desc x.1 [(16, 10)]) 16 = 10 ∧ ((ringCmd x.1 x.2).ring 10).state = x.2 ∧
        ((ringCmd x.1 x.2).ring 10).closing = none ∧ ((ringCmd x.1 x.2).ring 10).live = [] ∧
        ((ringCmd x.1 x.2).ring 10).fetched = [] ∧ ((ringCmd x.1 x.2).ring 10).cls ≠ 7 ∧
        unposted 10 (ringCmd x.1 x.2) = []) ∧
    ringEnableHdm (desc 0x60 [(16, 10)]) (ringCmd 0x60 .enabled) = none ∧
    (head 0 255 enabling ready).serves = true ∧ headOf 0x60 0 (head 0 255 enabling ready) = some enabling ∧
    u16 enabling.bytes 16 = 10 ∧ ((head 0 255 enabling ready).ring 10).closing = none ∧
    enableReject enabling.bytes (head 0 255 enabling ready) = none := by decide +kernel

/-- A TALLY of partition 0 at ring 3 with `done` records run; its third record (offset 48) names tally 5. -/
def tallyAt (done op fl add : Nat) : Fetched :=
  { fet (desc 1 [(48, 5), (50, op), (51, fl), (56, add)]) with done := done }

/-- A TALLY whose last record is an ADD to the device of address 2, with or without a route there, and sent before or not. -/
def remoteTally (mode : Nat) (sent : Bool) : State :=
  let f := { fet (desc 1 [(48, 5), (50, 2), (51, 1), (52, 2), (56, 7)]) with done := 2 }
  let s := head 3 0 f (part0 running ready)
  { s with fab := { s.fab with
    routes := [(2, { Route.atReset with links := [0, 4], mode := mode })]
    requests := if sent then [request0 2 (tallyWaiter 3 f)] else [] } }

theorem wit_TallyRecordsSetAddAndWait :
    (∀ x ∈ [(2, 1, 2, 7), (2, 2, 0, 7), (2, 3, 0, 7), (2, 0, 0, 0), (3, 0, 0, 0)],
      (head 3 0 (tallyAt x.1 x.2.1 x.2.2.1 x.2.2.2) (part0 running ready)).serves = true ∧
      headOf 0x01 3 (head 3 0 (tallyAt x.1 x.2.1 x.2.2.1 x.2.2.2) (part0 running ready)) =
        some (tallyAt x.1 x.2.1 x.2.2.1 x.2.2.2) ∧
      partLive ((head 3 0 (tallyAt x.1 x.2.1 x.2.2.1 x.2.2.2) (part0 running ready)).part 0) = true ∧
      (x.1 = 2 → byteAt (tallyRec (tallyAt x.1 x.2.1 x.2.2.1 x.2.2.2)) 2 = x.2.1)) ∧
    bit (byteAt (tallyRec (tallyAt 2 2 0 7)) 3) 0 = false ∧
    2 ^ 31 ≤ (((part0 running ready).tally 5).value - BitVec.ofNat 32 (u32 (tallyRec (tallyAt 2 3 0 7)) 8)).toNat ∧
    (∀ x ∈ [(1, false), (1, true), (0, false)], ∀ f ∈ ((remoteTally x.1 x.2).ring 3).fetched,
      (remoteTally x.1 x.2).serves = true ∧ headOf 0x01 3 (remoteTally x.1 x.2) = some f ∧ f.done ≤ 2 ∧
      tallyRemote (tallyRec f) = true ∧ u16 (tallyRec f) 4 = 2 ∧
      (remoteTally x.1 x.2).fab.requests.any (fun q => q.waiter == tallyWaiter 3 f) = x.2 ∧
      routed 2 (remoteTally x.1 x.2) = decide (x.1 = 1) ∧ fabricRoom (remoteTally x.1 x.2) = true) := by
  decide +kernel

/-- A pending tread period of ring r. -/
def pendingPeriod (r : Nat) : Setting :=
  { ring := r, tag := 7, scope := 9, target := 0, kind := .period 16, deferred := false }

/-- A device-domain descriptor without a target at ring 3, with settings that pend. -/
def setting (b : Bytes) (l : List Setting) : State :=
  { (head 3 255 (fet b) ready).setRing 4 { Ring.atReset with owner := 255, state := .enabled } with settings := l }

theorem wit_SettingsAreHeldPending :
    settingsClear 3 (fet (desc 0x81 [(16, 32)])) [(9, .period 32)] (setting (desc 0x81 [(16, 32)]) []) = true ∧
    targetPassed ((setting (desc 0x81 [(8, 1), (16, 32)]) []).ring 3).owner 1
      { setting (desc 0x81 [(8, 1), (16, 32)]) [] with time := { ready.time with tread := 5 } } = some (badState 0) ∧
    targetPassed ((setting (desc 0x81 [(16, 32)]) [pendingPeriod 4]).ring 3).owner 0
      (setting (desc 0x81 [(16, 32)]) [pendingPeriod 4]) = none ∧
    (setting (desc 0x81 [(16, 32)]) [pendingPeriod 4]).settings.any (fun x => x.ring != 3 &&
      [(9, SettingKind.period 32)].any (fun k =>
        sameLanding 3 k.1 0 k.2 (setting (desc 0x81 [(16, 32)]) [pendingPeriod 4]) x)) = true ∧
    (setting (desc 0x81 [(16, 32)]) [pendingPeriod 3]).settings.filter (fun y =>
      sameLanding 3 9 0 (.period 32) (setting (desc 0x81 [(16, 32)]) [pendingPeriod 3]) y) = [pendingPeriod 3] ∧
    ((setting (desc 0x81 [(16, 32)]) [pendingPeriod 3]).settings.filter (fun y => y != pendingPeriod 3)).any
      (fun y => y.ring == 3 && y.tag == (pendingPeriod 3).tag) = false := by decide +kernel

/-- An FW_ACTIVATE of slot 1, cold, with a Valid image. -/
def activating : State :=
  { setting (desc 0x83 [(16, 1), (17, 1)]) [] with fw := { ready.fw with slot1 := { state := .valid, image := [] } } }

/-- A TURN_SET or PART_PREEMPT of partition 0. -/
def turning (op : Nat) (q : Partition) : State := part0 q (setting (desc op [(16, 0), (17, 15), (18, 16)]) [])

theorem wit_DeviceSettingCommandsPend :
    (setting (desc 0x81 [(16, 16), (20, 0xFFFF)]) []).serves = true ∧
    headOf 0x81 3 (setting (desc 0x81 [(16, 16), (20, 0xFFFF)]) []) = some (fet (desc 0x81 [(16, 16), (20, 0xFFFF)])) ∧
    ready.stw.state ≠ .forming ∧ stwSetKinds (desc 0x81 [(16, 16), (20, 0xFFFF)]) ≠ [] ∧
    settingsClear 3 (fet (desc 0x81 [(16, 16), (20, 0xFFFF)])) (stwSetKinds (desc 0x81 [(16, 16), (20, 0xFFFF)]))
      (setting (desc 0x81 [(16, 16), (20, 0xFFFF)]) []) = true ∧
    headOf 0x81 3 { setting (desc 0x81 []) [] with stw := { ready.stw with state := .forming } } =
      some (fet (desc 0x81 [])) ∧
    headOf 0x82 3 (setting (desc 0x82 [(16, 1), (20, 500)]) []) = some (fet (desc 0x82 [(16, 1), (20, 500)])) ∧
    settingsClear 3 (fet (desc 0x82 [(16, 1), (20, 500)])) (pwrSetKinds (desc 0x82 [(16, 1), (20, 500)]))
      (setting (desc 0x82 [(16, 1), (20, 500)]) []) = true ∧
    activating.serves = true ∧ headOf 0x83 3 activating = some (fet (desc 0x83 [(16, 1), (17, 1)])) ∧
    (slotOf 1 activating).state = .valid ∧ activating.fw.tellerDown = false ∧
    settingsClear 3 (fet (desc 0x83 [(16, 1), (17, 1)])) [(8, .fwActivate 1 true)] activating = true ∧
    (∀ q ∈ [{ running with state := .configured }, running, { running with state := .draining }],
      headOf 0x97 3 (turning 0x97 q) = some (fet (desc 0x97 [(16, 0), (17, 15), (18, 16)])) ∧ q.scrub = false ∧
      settingsClear 3 (fet (desc 0x97 [(16, 0), (17, 15), (18, 16)])) [(0, .turnSet 0 15 [16, 0, 0, 0] 0)]
        (turning 0x97 q) = true) ∧
    (∀ q ∈ [{ running with state := .free }, { running with state := .saved }, { running with state := .faulted }],
      headOf 0x97 3 (turning 0x97 q) = some (fet (desc 0x97 [(16, 0), (17, 15), (18, 16)]))) ∧
    headOf 0x93 3 (turning 0x93 running) = some (fet (desc 0x93 [(16, 0), (17, 15), (18, 16)])) ∧
    inSpan running = false ∧ inSpan { running with saveBusy := true } = true ∧
    settingsClear 3 (fet (desc 0x93 [(16, 0), (17, 15), (18, 16)])) [(0, .preempt 0)] (turning 0x93 running) = true := by
  decide +kernel

/-- A layer of 16 rows of 32 weights in one shard, with strike 1 in force. -/
def layer (st : LayerState) : Layer :=
  { state := st, momentum := false, lazy := false, sparse := false, rowLayout := false, format := 3, rows := 16, base := 0,
    n := 16, cols := 32, set := 0, shards := 1, shard := 0, peers := [(0, 0)], slot0 := 0, slot1 := 0x100000, step := 0,
    current := 1, pending := 0, taken := 1, frozen := false, mask := [], masters := [], mastersFree := 0, rowRecs := [],
    colst := [], mom := [], bodies := [], job := none }

/-- A Running partition with 1 GiB of HBM and of host memory, 4 tallies, a wing, vault extents, and layers. -/
def owner0 (ls : Table Layer) : Partition :=
  { running with
    record := { PartRecord.none with
      wings := 1, hbmSize := 1, vaultSize := 1024, ringFirst := 3, ringCount := 8, tallyCount := 4, slotCount := 4,
      context := 0x30000000, save := 0x31000000, ckpt := 0x38000000, hostSize := 0x40000000 }
    wingsHeld := true
    layers := ls }

/-- A descriptor of partition 0 at ring 3. -/
def at3 (q : Partition) (b : Bytes) : State := part0 q (head 3 0 (fet b) ready)

/-- FREEZE_SET of layer 0, without and with a mask. -/
def freeze (rows : Bool) : Bytes := desc 0x85 [(18, if rows then 3 else 1), (24, 0)]

theorem wit_PartitionSettingCommandsPend :
    (∀ x ∈ [(desc 0x84 [(20, 1)], (0, SettingKind.mintSet 0 (hyperOf (desc 0x84 [(20, 1)])))),
        (desc 0x86 [], (0, .genSet 0 (genOf (desc 0x86 [])) false)), (desc 0x88 [], (0, .stashSet 0 0 0)),
        (desc 0x89 [(17, 1)], (0, .watchSet 0 true 0)), (desc 0x55 [], (0, .evict 0)),
        (freeze false, (0, .freezeSet 0 true false false []))],
      (at3 (owner0 [(0, layer .idle)]) x.1).serves = true ∧
      headOf (byteAt x.1 0) 3 (at3 (owner0 [(0, layer .idle)]) x.1) = some (fet x.1) ∧
      settingsClear 3 (fet x.1) [x.2] (at3 (owner0 [(0, layer .idle)]) x.1) = true) ∧
    layerOf ((at3 (owner0 [(0, layer .idle)]) (freeze true)).part 0) 0 = some (layer .idle) ∧
    hbmAllowed (owner0 [(0, layer .idle)]) 0 ((16 + 7) / 8) = true ∧
    hbmPoisoned 0 ((16 + 7) / 8) (at3 (owner0 [(0, layer .idle)]) (freeze true)) = false ∧
    settingsClear 3 (fet (freeze true)) [(0, .freezeSet 0 true true false
      (setBits (leNat (hbmRead 0 2 (at3 (owner0 [(0, layer .idle)]) (freeze true)))) 16))]
      (at3 (owner0 [(0, layer .idle)]) (freeze true)) = true ∧
    headOf 0x85 3 (at3 (owner0 []) (freeze false)) = some (fet (freeze false)) ∧ layerOf (owner0 []) 0 = none ∧
    headOf 0x55 3 (at3 (owner0 []) (desc 0x55 [])) = some (fet (desc 0x55 [])) ∧
    headOf 0x80 3 (at3 running (desc 0x80 [(16, 1), (20, 4)])) = some (fet (desc 0x80 [(16, 1), (20, 4)])) ∧
    planLegal running 1 false = true ∧ Partition.atReset.state ≠ .running ∧
    headOf 0x80 3 (at3 { running with plans := [flight1.plan] } (desc 0x80 [(16, 1)])) = some (fet (desc 0x80 [(16, 1)])) ∧
    (∃ g ∈ ({ running with plans := [flight1.plan] } : Partition).plans, g.flight = 1) ∧ running.flight = none ∧
    running.replayDue = false ∧ (2 : Word) ≠ flightAfter running.lastFlight := by decide +kernel

/-- Partition 0 with sequence slot 0 in a state. -/
def slotIn (st : SeqState) : Partition := { owner0 [] with seqs := [(0, { SeqSlot.atReset with state := st, prio := 3 })] }

/-- Slot 0 running with a page in stream 0 and a copy of it under way, or holding none. -/
def copying (held : Bool) : State :=
  part0 { owner0 [] with seqs := [(0, { SeqSlot.atReset with
    state := .running, copying := [7], streams := if held then [{ fill := 0, landed := 0, pages := [7] }] else [] })] } ready

theorem wit_SequenceSettingsMoveTheirSlot :
    (∀ x ∈ [(0x58, SeqState.free, SettingKind.seqJoin 0 0 0 0), (0x59, .running, .seqLeave 0), (0x59, .parked, .seqLeave 0),
        (0x5A, .running, .seqPark 0), (0x5B, .parked, .seqUnpark 0), (0x5C, .joining, .seqPrio 0 0),
        (0x58, .running, .seqJoin 0 0 0 0), (0x5A, .free, .seqPark 0), (0x5B, .running, .seqUnpark 0)],
      (at3 (slotIn x.2.1) (desc x.1 [])).serves = true ∧
      headOf x.1 3 (at3 (slotIn x.2.1) (desc x.1 [])) = some (fet (desc x.1 [])) ∧
      (seqOf ((at3 (slotIn x.2.1) (desc x.1 [])).part 0) 0).state = x.2.1 ∧
      settingsClear 3 (fet (desc x.1 [])) [(0, x.2.2)] (at3 (slotIn x.2.1) (desc x.1 [])) = true) ∧
    (copying true).serves = true ∧ slotHolder 0 (copying true) = 0 ∧ slotHolder 0 (copying false) = 0 ∧
    (seqOf ((copying true).part 0) 0).copying ≠ [] ∧ heldPages (seqOf ((copying true).part 0) 0) ≠ [] ∧
    (seqOf ((copying false).part 0) 0).copying ≠ [] ∧ heldPages (seqOf ((copying false).part 0) 0) = [] ∧
    ((copying true).part 0).seqs.any (fun e => e.2.copying.contains 7 && !(heldPages e.2).contains 7) = false ∧
    ((copying false).part 0).seqs.any (fun e => e.2.copying.contains 7 && !(heldPages e.2).contains 7) = true := by
  decide +kernel

/-- A device of address 1 with the fabric enabled, in a stairwell of members 1 and 2. -/
def stairs (st : StwState) (leader : Half) : State :=
  { addressed with
    fab := { addressed.fab with enable := true }
    stw := { ready.stw with state := st, members := [1, 2], leader := leader } }

/-- A ring command of the device domain at ring 3 in such a stairwell. -/
def stairsCmd (op : Nat) (st : StwState) (leader : Half) : State := head 3 255 (fet (desc op [])) (stairs st leader)

/-- STW_FORM of two members at ring 3. -/
def formDesc : Bytes := desc 0x70 [(24, 2), (25, 8), (26, 32), (28, 0xFFFF)]

/-- A formation that waits. -/
def formingWith (leader : Half) : Forming := { ring := 3, tag := 1, members := [1, 2], leader := leader, period := 32, bound := 8 }

/-- What member 2 last said, at tread 0. -/
def member2 : Member := { addr := 2, heardAt := 0, riser := 1, offset := 0, state := 2, sets := [] }

/-- The state with member 2 heard. -/
def heard (s : State) : State := { s with stw := { s.stw with others := [member2] } }

theorem wit_StairwellFormsHaltsAndDissolves :
    (head 3 255 (fet formDesc) addressed).serves = true ∧
    headOf 0x70 3 (head 3 255 (fet formDesc) addressed) = some (fet formDesc) ∧
    ((1 : Half) :: 2 :: List.replicate 62 0).length = 64 ∧ byteAt formDesc 24 = 2 ∧
    BitVec.ofNat 16 (u16 formDesc 28) = 0xFFFF ∧
    addressed.stw.state = .alone ∧
    landingParts (head 3 255 (fet formDesc) addressed) = [] ∧
    membersLegal (((1 : Half) :: 2 :: List.replicate 62 0).take 2) (head 3 255 (fet formDesc) addressed) = true ∧
    headOf 0x70 3 (head 3 255 (fet formDesc) (stairs .halted 1)) = some (fet formDesc) ∧
    (stairs .halted 1).stw.state ≠ .alone ∧
    ({ stairs .forming 1 with stw := { ready.stw with state := .forming, forming := some (formingWith 1) } } : State).serves
      = true ∧ (formingWith 1).leader = fabAddr (stairs .forming 1) ∧ (formingWith 2).leader ≠ fabAddr (stairs .forming 2) ∧
    (heard (stairs .forming 2)).stw.others.find? (fun x => x.addr == 2) = some member2 ∧
    (∀ x ∈ [(0x71, StwState.halted), (0x71, .alone), (0x71, .aligned), (0x72, .alone), (0x72, .aligned),
        (0x72, .forming), (0x72, .halted), (0x71, .forming)],
      (stairsCmd x.1 x.2 1).serves = true ∧ headOf x.1 3 (stairsCmd x.1 x.2 1) = some (fet (desc x.1 [])) ∧
      (stairsCmd x.1 x.2 1).stw.state = x.2) := by decide +kernel

/-- A received Ethernet frame of a length, with a good or bad FCS. -/
def eth (n : Nat) (ok : Bool) : EthFrame :=
  { length := n, fcsOk := ok, destOk := true, etherType := 0x88B5, controlOp := 0, serviceTag := false, vid := none,
    source := 2, sec := none }

/-- A frame from address 2 to this device that passes the checks of the MAC. -/
def from2 (type : Nat) (cls : Fin 4) (payload : Bytes) : Frame :=
  { frame type cls payload with src := 2, dst := 1, rx := eth 64 true }

/-- Two links to address 2, both neighbours up. -/
def linked (s : State) : State :=
  { s with fab := { s.fab with
    enable := true
    routes := [(2, { Route.atReset with links := [0, 4], mode := 1 })]
    neighbours := [(0, { Neighbour.atReset with addr := 2, hellos := 2, up := true }),
      (4, { Neighbour.atReset with addr := 2, hellos := 2, up := true })] } }

theorem wit_ResumeNamesItsRiser :
    (stairsCmd 0x73 .halted 1).serves = true ∧ headOf 0x73 3 (stairsCmd 0x73 .halted 1) = some (fet (desc 0x73 [])) ∧
    (stairsCmd 0x73 .halted 1).stw.state = .halted ∧ isLeader (stairsCmd 0x73 .halted 1) = true ∧
    (stairsCmd 0x73 .halted 1).stw.resumeAt = none ∧ allAligned (heard (stairsCmd 0x73 .halted 1)) = true ∧
    allAligned (stairsCmd 0x73 .halted 1) = false ∧ headOf 0x73 3 (heard (stairsCmd 0x73 .halted 1)) ≠ none ∧
    ({ (stairsCmd 0x73 .halted 1).stw with resumeAt := some 9 } : Stw).resumeAt = some 9 ∧
    headOf 0x73 3 (stairsCmd 0x73 .halted 2) = some (fet (desc 0x73 [])) ∧ isLeader (stairsCmd 0x73 .halted 2) = false ∧
    routed 2 (stairsCmd 0x73 .halted 2) = false ∧ routed 2 (linked (stairsCmd 0x73 .halted 2)) = true ∧
    headOf 0x73 3 (stairsCmd 0x73 .aligned 1) = some (fet (desc 0x73 [])) ∧
    (from2 0x05 1 []).is 0x05 1 = true ∧ (heard (stairs .halted 1)).takesRequest 0 (from2 0x05 1 []) = true ∧
    allAligned (heard (stairs .halted 1)) = true ∧ (heard (stairs .halted 1)).serves = true ∧
    (from2 0x03 0 (fields 32 [(0, 6), (2, 9)])).isBeacon 6 = true ∧
    (stairs .halted 2).takesBeacon 6 0 (from2 0x03 0 (fields 32 [(0, 6), (2, 9)])) = true ∧
    (stairs .halted 2).stw.leader = 2 := by decide +kernel

/-- A RISER beacon of member 2 that names riser 1, sent at reference count 1000. -/
def riserBeacon : Frame := from2 0x03 0 (fields 32 [(0, 1), (2, 1), (16, 1000)])

/-- The same with a set entry of flight set 5 that reports poison. -/
def poisonedBeacon : Frame := from2 0x03 0 (fields 48 [(0, 1), (2, 1), (16, 1000), (24, 1), (32, 5), (46, 4)])

theorem wit_RiserBeaconsAlignTheMembers :
    (stairs .aligned 2).serves = true ∧ linksTo 2 (linked addressed) = 0 :: 4 :: [] ∧
    (linked addressed).fab.enable = true ∧ ((linked addressed).link 0).paused = [] ∧
    ((linked addressed).link 4).paused = [] ∧ ((linked addressed).port (0 / 4)).macsec = false ∧
    ((linked addressed).port (4 / 4)).macsec = false ∧ riserBeacon.isBeacon 1 = true ∧
    (stairs .aligned 1).takesBeacon 1 0 riserBeacon = true ∧ riserBeacon.src ≠ beaconLeader (stairs .aligned 1) ∧
    (beaconOf riserBeacon.payload).sets = [] ∧ poisonedBeacon.isBeacon 1 = true ∧
    (stairs .aligned 1).takesBeacon 1 0 poisonedBeacon = true ∧
    (beaconOf poisonedBeacon.payload).sets.map (fun e => (e.set, e.poison)) = [(5, true)] ∧
    (stairs .aligned 2).takesBeacon 1 0 riserBeacon = true ∧ riserBeacon.src = beaconLeader (stairs .aligned 2) ∧
    riserBeacon.src ≠ fabAddr (stairs .aligned 2) ∧
    (beaconOf riserBeacon.payload).riser = comingRiser (stairs .aligned 2) ∧
    (5 * rawOffset (beaconOf riserBeacon.payload) (countAt 1056 (stairs .aligned 2)) (stairs .aligned 2)).natAbs = 4480 ∧
    4480 < (5 * rawOffset (beaconOf riserBeacon.payload) (countAt 1057 (stairs .aligned 2)) (stairs .aligned 2)).natAbs ∧
    1 ≤ ({ (stairs .aligned 2).stw with badOffsets := 1 } : Stw).badOffsets ∧
    (stairs .forming 2).takesBeacon 1 0 riserBeacon = true ∧ riserBeacon.src = beaconLeader (stairs .forming 2) ∧
    (stairs .forming 2).stw.stepped = false := by decide +kernel

/-- A beacon of member 2 of a kind, for riser r, with one flight-set entry. -/
def beacon2 (kind r : Nat) : Frame := from2 0x03 0 (fields 48 [(0, kind), (1, 1), (2, r), (24, 1), (32, 5)])

theorem wit_MemberBeaconsTakeEffect :
    (∀ k ∈ [2, 3, 4, 5], ∀ r ∈ [0, 1],
      (stairs .aligned 2).serves = true ∧ (beacon2 k r).isBeacon k = true ∧
      (stairs .aligned 2).takesBeacon k 0 (beacon2 k r) = true ∧ (beaconOf (beacon2 k r).payload).riser = r) ∧
    (stairs .aligned 2).time.tread.toNat < 1 ∧ 0 ≤ (stairs .aligned 2).time.tread.toNat ∧
    (stairs .aligned 2).stw.state ≠ .halted ∧ (stairs .aligned 2).stw.haltAt = none ∧
    (beaconOf (beacon2 4 1).payload).sets = [setEntryOf (sub (beacon2 4 1).payload 32 16)] := by decide +kernel

/-- Member 2 heard 16 treads ago. -/
def silent (leader : Half) : State := { heard (stairs .aligned leader) with time := { ready.time with tread := 16 } }

/-- A PROBE from address 2. -/
def probe (op : Word) : Frame := { from2 0x04 0 (fields 16 [(0, 100), (8, 140)]) with operation := op }

theorem wit_SilenceHaltsAndProbesMeasure :
    (silent 2).serves = true ∧ isLeader (silent 2) = false ∧ silent16 (silent 2).stw.leader (silent 2) = true ∧
    (silent 1).serves = true ∧ (2 : Half) ≠ (silent 1).stw.leader ∧ 2 ∈ otherMembers (silent 1) ∧
    silent16 2 (silent 1) = true ∧ beaconMembers (stairs .aligned 2) ≠ [] ∧
    beaconLeader (stairs .aligned 2) ≠ fabAddr (stairs .aligned 2) ∧ (linked (stairs .aligned 2)).fab.enable = true ∧
    pickLink { peer := 2, cls := 0, stripe := 0 } (linksTo 2 (linked (stairs .aligned 2))) = some 0 ∧
    ((linked (stairs .aligned 2)).link 0).paused = [] ∧ ((linked (stairs .aligned 2)).port 0).macsec = false ∧
    (probe 0).isProbe 0 = true ∧
    (stairs .aligned 2).hears 0 (probe 0) = true ∧ ((stairs .aligned 2).link 0).paused = [] ∧
    ((stairs .aligned 2).port 0).macsec = false ∧ (probe 1).isProbe 1 = true ∧
    (stairs .aligned 2).hears 0 (probe 1) = true ∧
    ({ stairs .aligned 2 with stw := { (stairs .aligned 2).stw with probeT1 := some 60 } } : State).serves = true ∧
    (probe 1).src = beaconLeader (stairs .aligned 2) := by decide +kernel

/-- A legal configuration record: wing 0, 1 GiB of HBM, 4 rings and 4 tallies. -/
def record0 : Bytes :=
  fields 128 [(0, 1), (6, 1), (16, 3), (18, 4), (22, 4), (32, 0x30000000), (40, 0x31000000), (48, 0x38000000), (88, 16),
    (91, 1)]

/-- A partition command on partition 0 at ring 20 of the device domain. -/
def partCmd (op : Nat) (q : Partition) : State := part0 q (head 20 255 (fet (desc op [(16, 0)])) ready)

theorem wit_PartitionCommandsMoveThePartition :
    (partCmd 0x90 Partition.atReset).serves = true ∧
    headOf 0x90 20 (partCmd 0x90 Partition.atReset) = some (fet (desc 0x90 [(16, 0)])) ∧ record0.length = 128 ∧
    (partCmd 0x90 Partition.atReset).host.halves ≠ [] ∧ running.cmds = [] ∧
    headOf 0x90 20 (partCmd 0x90 running) = some (fet (desc 0x90 [(16, 0)])) ∧
    inSpan Partition.atReset = false ∧ Partition.atReset.state = .free ∧
    configReject 0 record0 (partCmd 0x90 Partition.atReset) = none ∧
    (∀ x ∈ [(0x91, PartState.configured), (0x92, .running), (0x94, .running), (0x95, .saved), (0x98, .configured),
        (0x91, .free), (0x92, .free), (0x94, .free), (0x95, .free), (0x96, .free), (0x98, .free)],
      headOf x.1 20 (partCmd x.1 { running with state := x.2 }) = some (fet (desc x.1 [(16, 0)])) ∧
      inSpan { running with state := x.2 } = false ∧ ((partCmd x.1 { running with state := x.2 }).part 0).state = x.2 ∧
      wingTaken 0 (partCmd x.1 { running with state := x.2 }) = none) ∧
    wingTaken 0 ((partCmd 0x95 { owner0 [] with state := .saved }).setPart 1 (owner0 [])) = some 1 ∧
    inSpan { running with scrub := true } = true ∧
    hbmPoisoned (u64 (desc 0x98 [(16, 0)]) 24) 0 (partCmd 0x98 { running with state := .configured }) = false ∧
    firstOf ([] ++ [] : List (Option Reject)) = none ∧
    groupReject 0 (fields 320 [(0, 1), (64, 0)]) (partCmd 0x98 { running with state := .configured }) = none := by
  decide +kernel

/-- Core 0 reloading a checkpoint, held by partition 0. -/
def reloading : State := part0 (owner0 []) (ready.setCore 0 { Core.atReset with reloading := true })

theorem wit_ReleaseScrubsThePartition :
    (∀ st ∈ [PartState.configured, .saved, .faulted],
      (partCmd 0x96 { running with state := st }).serves = true ∧
      headOf 0x96 20 (partCmd 0x96 { running with state := st }) = some (fet (desc 0x96 [(16, 0)])) ∧
      inSpan { running with state := st } = false) ∧
    (part0 { owner0 [] with scrub := true } ready).serves = true ∧
    shareRings { owner0 [] with scrub := true } (part0 { owner0 [] with scrub := true } ready) = [] ∧
    ((part0 { owner0 [] with scrub := true } ready).part 0).wingsHeld = true ∧
    ((part0 { owner0 [] with scrub := true, wingsHeld := false } ready).part 0).wingsHeld = false ∧
    ((part0 { owner0 [] with saveBusy := true } ready).part 0).saveBusy = true ∧
    ((part0 { owner0 [] with restoreBusy := true } ready).part 0).restoreBusy = true ∧
    reloading.serves = true ∧ (reloading.core 0).reloading = true ∧ coreHolder 0 reloading = some 0 := by decide +kernel

/-- Partition 0 asked for a save by eviction. -/
def evicting (busy : Bool) : State := part0 { owner0 [] with saveAsked := some true, saveBusy := busy } ready

theorem wit_SavedPartitionsComeBack :
    (evicting false).serves = true ∧ ((evicting false).part 0).saveAsked = some true ∧
    ((evicting false).part 0).saveBusy = false ∧ ((evicting false).part 0).state = .running ∧
    workStopped 0 (evicting false) = true ∧ (evicting true).serves = true ∧ ((evicting true).part 0).saveBusy = true ∧
    ((evicting true).part 0).saveAsked = some true ∧
    (part0 { owner0 [] with fenceDue := true } ready).serves = true ∧
    ((part0 { owner0 [] with fenceDue := true } ready).part 0).fenceDue = true ∧
    (part0 { owner0 [] with restoreBusy := true } ready).serves = true ∧
    ((part0 { owner0 [] with restoreBusy := true } ready).part 0).restoreBusy = true := by decide +kernel

/-- Partition 0 with flight 1 in progress and what `owner0` holds. -/
def busy0 (ls : Table Layer) : Partition := { owner0 ls with flight := some flight1 }

/-- A COPY of 128 bytes from HBM 0 to HBM 0x1000 in hall 0 for flight 1. -/
def copyDesc : Bytes := desc 0x20 [(8, 1), (12, 100), (18, 0), (24, 0), (32, 0x1000), (40, 128)]

/-- A STRIKE_COPY of 64 bytes of layer 0. -/
def strikeCopyDesc : Bytes := desc 0x21 [(8, 1), (12, 100), (16, 0), (18, 0), (24, 0), (36, 64)]

/-- A work item of ring 3 with its descriptor's bytes. -/
def work (id hall : Nat) (b : Bytes) : Work :=
  { id := id, ring := 3, tag := 1, part := 0, opcode := byteAt b 0, bytes := b, hall := hall, cost := 0, flight := 1,
    prefetch := false, started := false, ready := none, leases := [], left := 0, readys := [], readys2 := [],
    readySent := false, counts := [], countSent := false, arrived := [], sentTo := [], gather := false, reduced := false,
    sent := 0, slot := none, since := none, stall := 0, flags := 0, outcome := none }

/-- A COPY that a DMA tag of hall 0 carries. -/
def copyRuns : State :=
  { part0 (busy0 []) (ready.modHall 0 (fun h => { h with dma := [{ tag := 5, kind := .copy 0 }] })) with
    work := [work 0 0 copyDesc] }

theorem wit_CopiesTakeATagAndMoveTheirBytes :
    (at3 (busy0 []) copyDesc).serves = true ∧
    (at3 (busy0 []) copyDesc).admits 0x20 3 (fun b => u16 b 18) (fet copyDesc) 0 = true ∧
    copyKv copyDesc (at3 (busy0 []) copyDesc) = none ∧ freeTag 0 (at3 (busy0 []) copyDesc) = some 0 ∧
    (∀ l ∈ [layer .idle, { layer .idle with current := 0 }],
      (at3 (busy0 [(0, l)]) strikeCopyDesc).admits 0x21 3 (fun b => u16 b 18) (fet strikeCopyDesc) 0 = true ∧
      layerOf ((at3 (busy0 [(0, l)]) strikeCopyDesc).part 0) 0 = some l) ∧
    (layer .idle).current ≠ 0 ∧ u64 strikeCopyDesc 24 + u32 strikeCopyDesc 36 ≤ strikeBytes (layer .idle) ∧
    freeTag 0 (at3 (busy0 [(0, layer .idle)]) strikeCopyDesc) = some 0 ∧
    copyRuns.serves = true ∧
    (copyRuns.hall 0).dma.find? (fun x => x.tag == 5) = some { tag := 5, kind := .copy (work 0 0 copyDesc).id } ∧
    copyRuns.work? 0 = some (work 0 0 copyDesc) ∧ byteAt copyDesc 16 = 0 ∧ byteAt copyDesc 17 = 0 ∧ inAperture 0 = false ∧
    inAperture 0x1000 = false ∧ 0 + 128 ≤ hbmUsable copyRuns ∧ poisonedParts copyRuns.hbmPoison 64 0 128 = [] := by
  decide +kernel

/-- A queue of depth 4 with a credit, or with a complete message of 64 bytes. -/
def queue (receive : Bool) : Queue :=
  { receive := receive, depth := 4, peer := 2, peerPart := 0, entryBytes := 64, buffer := 0x2000, report := 0,
    credits := 4, begun := 0, arrived := 0, complete := if receive then [64] else [], since := 0, stall := 0 }

/-- A QUEUE_PUSH or QUEUE_POP of queue 0, without tallies. -/
def queueDesc (op : Nat) : Bytes := desc op [(8, 1), (48, 0), (32, 64), (52, 0xFFFF), (54, 0xFFFF)]

/-- Such work on a queue. -/
def queueRuns (op : Nat) (receive : Bool) : State :=
  { part0 { busy0 [] with queues := [queue receive] } ready with
    work := [work 0 0 (queueDesc op)], fab := { ready.fab with routes := [(2, { Route.atReset with mode := 1 })] } }

theorem wit_ClearsAreAdmittedAndRun :
    (∀ op ∈ [0x30, 0x31, 0x32, 0x33, 0x34, 0x35, 0x36],
      (at3 (busy0 []) (queueDesc op)).serves = true ∧
      (at3 (busy0 []) (queueDesc op)).admits op 3 (fun b => u16 b 48) (fet (queueDesc op)) 0 = true ∧
      headOf op 3 (at3 { running with state := .configured } (queueDesc op)) = some (fet (queueDesc op)) ∧
      workGate 0 1 false (at3 { running with state := .configured } (queueDesc op)) = .bad 1 ∧
      headOf op 3 (at3 running (queueDesc op)) = some (fet (queueDesc op)) ∧
      workGate 0 1 false { at3 (busy0 []) (queueDesc op) with time := { ready.time with kind := .slip } } = .wait) ∧
    (queueRuns 0x35 false).work? 0 = some (work 0 0 (queueDesc 0x35)) ∧
    queueOf 0 0 (queueRuns 0x35 false) = some (queue false) ∧ tailMet (queueDesc 0x35) (queueRuns 0x35 false) = true ∧
    queueFirst (work 0 0 (queueDesc 0x35)) (queueRuns 0x35 false) = true ∧ 0 < (queue false).credits ∧
    hbmPoisoned (clrSrc (queueDesc 0x35)) (u32 (queueDesc 0x35) 32) (queueRuns 0x35 false) = false ∧
    routed (queue false).peer (queueRuns 0x35 false) = true ∧ fabricRoom (queueRuns 0x35 false) = true ∧
    queueOf 0 0 (queueRuns 0x36 true) = some (queue true) ∧ tailMet (queueDesc 0x36) (queueRuns 0x36 true) = true ∧
    queueFirst (work 0 0 (queueDesc 0x36)) (queueRuns 0x36 true) = true ∧ (queue true).complete = 64 :: [] ∧
    hbmPoisoned ((queue true).buffer + (queue true).begun % (queue true).depth * (queue true).entryBytes) 64
      (queueRuns 0x36 true) = false := by decide +kernel

/-- An usher descriptor of gallery 0 without tallies. -/
def usherDesc (op : Nat) : Bytes := desc op [(8, 1), (18, 0), (52, 0xFFFF), (54, 0xFFFF)]

/-- A layer in rows with a lazy rule, which EMB_GATHER and EMB_SEGSUM may name. -/
def table0 : Layer := { layer .idle with rowLayout := true, lazy := true }

/-- Usher work that waits, or has made its results. -/
def usherRuns (made : Bool) : State :=
  { part0 (busy0 [(0, table0)]) ready with
    work := [{ work 0 256 (usherDesc 0x50) with ready := if made then some (0, 0, 0, 0) else none }] }

theorem wit_UshersTakeTheirQueueInOrder :
    (∀ op ∈ [0x50, 0x51, 0x52, 0x53, 0x54],
      (at3 (busy0 [(0, table0)]) (usherDesc op)).serves = true ∧
      (at3 (busy0 [(0, table0)]) (usherDesc op)).admits op 3 (fun b => 256 + byteAt b 16) (fet (usherDesc op)) 256 = true ∧
      (match usherLayer 0 (usherDesc op) (at3 (busy0 [(0, table0)]) (usherDesc op)) with | .ok _ => true | _ => false)
        = true ∧
      headOf op 3 (at3 { running with state := .configured } (usherDesc op)) = some (fet (usherDesc op)) ∧
      workGate 0 1 false (at3 { running with state := .configured } (usherDesc op)) = .bad 1 ∧
      headOf op 3 (at3 running (usherDesc op)) = some (fet (usherDesc op)) ∧
      workGate 0 1 false { at3 (busy0 []) (usherDesc op) with time := { ready.time with kind := .slip } } = .wait) ∧
    (at3 (busy0 []) (usherDesc 0x53)).admits 0x53 3 (fun b => 256 + byteAt b 16) (fet (usherDesc 0x53)) 256 = true ∧
    (match usherLayer 0 (usherDesc 0x53) (at3 (busy0 []) (usherDesc 0x53)) with
      | .error e => (e.status, e.detail) | .ok _ => (0, 0)) = (0x11, 5) ∧
    usherHead 0 (usherRuns false) = some (work 0 256 (usherDesc 0x50)) ∧
    (usherRuns false).work? 0 = some (work 0 256 (usherDesc 0x50)) ∧ tailMet (usherDesc 0x50) (usherRuns false) = true ∧
    partLive ((usherRuns false).part 0) = true ∧ (usherRun (work 0 256 (usherDesc 0x50)) (usherRuns false)).status = 0 ∧
    (usherRuns true).serves = true ∧
    (usherHead 0 (usherRuns true)).bind Work.ready = some (0, 0, 0, 0) := by decide +kernel

/-- A PROGRAM or PROGRAM_IF of one record at HBM 0x4000 for core 0 of hall 0, on stash entry 0. -/
def programDesc (op : Nat) (cond : Nat) : Bytes :=
  desc op [(8, 1), (12, 1000), (16, 0x4000), (24, 1), (26, 1), (28, 0), (30, 0), (32, cond)]

/-- A record of core 0. -/
def rec32 (op : Nat) (l : List (Nat × Nat)) : Bytes := fields 32 ((0, op) :: l)

/-- Partition 0 with stash entry 0 in a state. -/
def stash0 (st : StashState) : Partition := { busy0 [] with stash := [(0, { StashEntry.empty with state := st, size := 65536 })] }

/-- The descriptor at ring 3 with a FREE of page 0 as its record. -/
def programAt (b : Bytes) (q : Partition) : State := hbmWrite 0x4000 (rec32 0x12 []) (at3 q b)

/-- What the admission of the descriptor at ring 3 answers: 0 go, 1 wait, 2 and more a rejection's status. -/
def admitCode (b : Bytes) (s : State) : Nat :=
  match programAdmit s 3 0 b (programRecords b s) with
  | .go _ _ => 0
  | .wait => 1
  | .reject r => r.status

theorem wit_ProgramsAreAdmittedOrTurnedAway :
    (programAt (programDesc 0x10 0) (busy0 [])).serves = true ∧
    headOf 0x10 3 (programAt (programDesc 0x10 0) (busy0 [])) = some (fet (programDesc 0x10 0)) ∧
    workGate 0 1 false (programAt (programDesc 0x10 0) (busy0 [])) = .go ∧
    admitCode (programDesc 0x10 0) (programAt (programDesc 0x10 0) (busy0 [])) = 0 ∧
    admitCode (programDesc 0x10 0)
      ((programAt (programDesc 0x10 0) (busy0 [])).setCore 0 { Core.atReset with cost := 1000000 }) = 1 ∧
    admitCode (programDesc 0x10 0) (hbmWrite 0x4000 (rec32 0xFF []) (programAt (programDesc 0x10 0) (busy0 []))) = 0x10 ∧
    workGate 0 1 false (programAt (programDesc 0x10 0) { busy0 [] with saveBusy := true }) = .wait ∧
    workGate 0 1 false (programAt (programDesc 0x10 0) { running with state := .configured }) = .bad 1 ∧
    (∀ x ∈ [(StashState.empty, 0), (.unstashed, 1), (.stashed, 0), (.vaulted, 0), (.stashed, 1), (.unstashed, 0)],
      (programAt (programDesc 0x11 x.2) (stash0 x.1)).serves = true ∧
      headOf 0x11 3 (programAt (programDesc 0x11 x.2) (stash0 x.1)) = some (fet (programDesc 0x11 x.2)) ∧
      workGate 0 1 false (programAt (programDesc 0x11 x.2) (stash0 x.1)) = .go ∧
      stashBusy (programAt (programDesc 0x11 x.2) (stash0 x.1)) 0
        (0 :: stashEntries (programRecords (programDesc 0x11 x.2) (programAt (programDesc 0x11 x.2) (stash0 x.1)))) = false ∧
      (stashOf 0 0 (programAt (programDesc 0x11 x.2) (stash0 x.1))).state = x.1 ∧
      bit (byteAt (programDesc 0x11 x.2) 32) 0 = decide (x.2 = 1)) ∧
    admitCode (programDesc 0x11 1) (programAt (programDesc 0x11 1) (stash0 .stashed)) = 0 ∧
    ifHolds (stash0 .stashed) (programDesc 0x11 1) = some true ∧
    ifHolds (stash0 .unstashed) (programDesc 0x11 0) = some true := by decide +kernel

/-! ### Tile operations -/

/-- A program of partition 0 on core 0 of hall 0. -/
def prog (rs : List Bytes) : Program :=
  { id := 0, ring := 3, tag := 1, part := 0, hall := 0, cores := 1, cost := 10000, flight := 1,
    records := rs.map (fun r => { bytes := r, type := .fp32, issued := false, done := false }), charged := [], heldCycles := [],
    streamed := 0, skipped := 0, flags := 0, leases := [], outcome := none, awaiting := [], waited := [],
    stalled := false, condition := none, dropped := [], pinned := [] }

/-- One record that waits, with partition 0 as given. -/
def tile (q : Partition) (r : Bytes) : State := { part0 q ready with programs := [prog [r]] }

/-- The same with page 0 of core 0 in a state. -/
def paged (st : PageState) (r : Bytes) : State :=
  setPage 0 0 { Page.atReset with image := { PageImage.free with state := st } } (tile (busy0 []) r)

/-- A tile of zeros. -/
def noTile : Tile := { format := 1, sparse := false, codes := [], scales := [], zero := true }

/-- The same with a tile in the front slots of core 0. -/
def fronted (st : PageState) (r : Bytes) : State := (paged st r).setCore 0 { (paged st r).core 0 with front := some noTile }

/-- LOAD in BF16; PASS in BF16 from the scratchpad with flags, such as SKIP_ZERO (2) or LAST (4). -/
def loadRec : Bytes := rec32 0x01 [(2, 1), (12, 64), (14, 1)]
def passRec (flags : Nat) : Bytes := rec32 0x02 [(2, 1), (3, flags), (5, 1), (12, 0), (16, 64)]

/-- A LOAD of a core whose slots are taken and whose feeder has one entry free. -/
def crowded : State :=
  (fronted .free loadRec).setCore 0 { Core.atReset with
    front := some noTile, back := some noTile, feeder := List.replicate 15 noTile }

theorem wit_LoadFillsSlotsAndPassFillsPages :
    (tile (busy0 []) loadRec).serves = true ∧ (tile (busy0 []) loadRec).nextOn 0x01 [0x02] 0 = some (prog [loadRec], 0, loadRec) ∧
    ((tile (busy0 []) loadRec).core 0).feeder = [] ∧ droopHeld 0 (tile (busy0 []) loadRec) = false ∧
    ((tile (busy0 []) loadRec).core 0).back = none ∧ padWaits (prog [loadRec]) 0 (loadRanges loadRec) [] = false ∧
    (loadRanges loadRec).any (fun p => padPoisoned 0 p.1 p.2 (tile (busy0 []) loadRec)) = false ∧
    ((tile (busy0 []) loadRec).core 0).front = none ∧ ((fronted .free loadRec).core 0).front ≠ none ∧
    (crowded.core 0).front ≠ none ∧ (crowded.core 0).back ≠ none ∧ (crowded.core 0).feeder.length = 15 ∧
    crowded.nextOn 0x01 [0x02] 0 = some (prog [loadRec], 0, loadRec) ∧
    (∀ st ∈ [PageState.free, .open_, .poisoned], ∀ f ∈ [0, 2, 4],
      (fronted st (passRec f)).serves = true ∧
      (fronted st (passRec f)).nextOn 0x02 [0x01] 0 = some (prog [passRec f], 0, passRec f) ∧
      ((fronted st (passRec f)).core 0).front = some noTile ∧ pageBusy 0 0 (fronted st (passRec f)) = false ∧
      passComp (passRec f) = false ∧ droopHeld 0 (fronted st (passRec f)) = false ∧
      passSkips (passRec f) noTile = decide (f = 2) ∧ passLast (passRec f) = decide (f = 4) ∧
      padWaits (prog [passRec f]) 0 (passPadReads (prog [passRec f]) 0 (passRec f)) [] = false ∧
      passPoisoned (prog [passRec f]) 0 (passRec f) (fronted st (passRec f)) = false ∧
      passPoisoned (prog [passRec f]) 0 (passRec f) { fronted st (passRec f) with padPoison := [0] } = true ∧
      poisonedAt 0 0 false (fronted st (passRec f)) = decide (st = .poisoned) ∧
      (fronted st (passRec f)).program? 0 = some (prog [passRec f]) ∧ (prog [passRec f]).outcome = none ∧
      ((fronted st (passRec f)).part 0).flight.isSome = true ∧ ((fronted st (passRec f)).part 0).poison = none) ∧
    droopHeld 0 { ready with pwr := { ready.pwr with droopStretch := [0] } } = true := by
  refine ⟨?_, ?_, ?_, ?_, ?_, ?_, ?_, ?_, ?_, ?_, ?_, ?_, ?_, ?_, ?_⟩ <;> decide +kernel

/-- DRAIN of page 0 into buffer 0 that waits in the finished-tile queue. -/
def drainEntry (keep : Bool) : Ftq := { program := 0, record := 0, core := 0, page := 0, buffer := 0, keep := keep, begun := true }

/-- A transfer of hall 0, and a page that is filling. -/
def draining (keep : Bool) : State := (paged .sealed (rec32 0x11 [])).modHall 0 (fun h => { h with ftq := [drainEntry keep] })
def spilling : State := ready.modHall 0 (fun h => { h with dma := [{ tag := 9, kind := .spill 0 0x8000 [1, 2] }] })
def filling : State :=
  setPage 0 0 { Page.atReset with filling := true }
    { tile (busy0 []) [] with programs := [{ prog [] with
      records := [{ bytes := rec32 0x14 [], type := .fp32, issued := true, done := false }] }] }

theorem wit_LedgerRecordsMoveTheirPage :
    (∀ x ∈ [(0x10, PageState.open_), (0x12, .poisoned), (0x12, .sealed), (0x13, .held), (0x11, .sealed), (0x14, .free),
        (0x15, .free), (0x10, .poisoned), (0x13, .poisoned), (0x15, .poisoned), (0x11, .poisoned), (0x14, .poisoned)],
      (paged x.2 (rec32 x.1 [(8, 0x8000)])).serves = true ∧ pageBusy 0 0 (paged x.2 (rec32 x.1 [(8, 0x8000)])) = false ∧
      (paged x.2 (rec32 x.1 [(8, 0x8000)])).nextOn x.1 [] 0 =
        some (prog [rec32 x.1 [(8, 0x8000)]], 0, rec32 x.1 [(8, 0x8000)]) ∧
      (pageOf 0 0 (paged x.2 (rec32 x.1 [(8, 0x8000)]))).image.state = x.2 ∧
      (pageOf 0 0 (paged x.2 (rec32 x.1 [(8, 0x8000)]))).filling = false ∧
      freeTag (hallOfCore 0) (paged x.2 (rec32 x.1 [(8, 0x8000)])) = some 0 ∧
      ((paged x.2 (rec32 x.1 [(8, 0x8000)])).hall (hallOfCore 0)).ftq.length < 16 ∧
      (pendingSpills (paged x.2 (rec32 x.1 [(8, 0x8000)]))).any (fun e => e.1 == 0x8000) = false ∧
      ((prog [rec32 x.1 [(8, 0x8000)]]).records[0]?).map Record.type = some .fp32 ∧
      (paged x.2 (rec32 x.1 [(8, 0x8000)])).program? 0 = some (prog [rec32 x.1 [(8, 0x8000)]]) ∧
      hbmPoisoned 0x8000 (imageBytes .fp32) (paged x.2 (rec32 x.1 [(8, 0x8000)])) = false ∧
      hbmPoisoned 0x8000 (imageBytes .fp32) { paged x.2 (rec32 x.1 [(8, 0x8000)]) with hbmPoison := [0x200] } = true) ∧
    (pageOf 0 0 (paged .free (rec32 0x14 []))).freeAtLanding = (pageOf 0 1 (paged .free (rec32 0x14 []))).freeAtLanding ∧
    (let s := setPage 0 1 { Page.atReset with image := { PageImage.free with state := .sealed } }
        (paged .free (rec32 0x15 [(5, 1)]))
     s.nextOn 0x15 [] 0 = some (prog [rec32 0x15 [(5, 1)]], 0, rec32 0x15 [(5, 1)]) ∧
      sourceReady (prog [rec32 0x15 [(5, 1)]]) 0 s = true ∧ sourceStands (prog [rec32 0x15 [(5, 1)]]) 0 0 1 s = true ∧
      (addContent (prog [rec32 0x15 [(5, 1)]]) 0 0 1 s).1.state = .sealed) ∧
    (tget? ({ prog [rec32 0x15 [(5, 1)]] with pinned := [(0, (PageImage.free, []))] } : Program).pinned 0).isSome = true ∧
    (∀ k ∈ [true, false], (draining k).serves = true ∧ ((beginFills 0 (draining k)).hall 0).ftq[0]? = some (drainEntry k) ∧
      (drainEntry k).begun = true) ∧
    spilling.serves = true ∧
    (spilling.hall 0).dma.find? (fun d => d.tag == 9) = some { tag := 9, kind := .spill 0 0x8000 [1, 2] } ∧
    filling.serves = true ∧ (pageOf 0 0 filling).filling = true ∧ fillingRecord 0 0 filling = some (0, 0) ∧
    (filling.program? 0).isSome = true := by
  refine ⟨?_, ?_, ?_, ?_, ?_, ?_, ?_, ?_, ?_, ?_, ?_⟩ <;> decide +kernel

/-- A TALLY record on tally 5: its operation and flags, at offset 16. -/
def tallyTile (op fl : Nat) : Bytes := rec32 0x60 [(16, 5), (18, op), (19, fl), (24, 7)]

/-- The record on a device of address 1, from which no route leads to address 0. -/
def unreached (r : Bytes) : State := { tile (busy0 []) r with fab := { ready.fab with device := 1 } }

/-- A program whose records have all ended. -/
def ended : Program := { prog [] with records := [{ bytes := rec32 0x12 [], type := .fp32, issued := true, done := true }] }

theorem wit_TallyNopAndEndOfProgram :
    (∀ x ∈ [(2, 0), (1, 2), (2, 1), (3, 0)],
      (tile (busy0 []) (tallyTile x.1 x.2)).serves = true ∧
      (tile (busy0 []) (tallyTile x.1 x.2)).nextOn 0x60 [] 0 =
        some (prog [tallyTile x.1 x.2], 0, tallyTile x.1 x.2) ∧
      padPending (prog [tallyTile x.1 x.2]) 0 = [] ∧
      tallyRecordWaits (sub (tallyTile x.1 x.2) 16 16) (tile (busy0 []) (tallyTile x.1 x.2)) = decide (x.1 = 3) ∧
      tallyRemote (sub (tallyTile x.1 x.2) 16 16) = decide (x = (2, 1)) ∧
      byteAt (sub (tallyTile x.1 x.2) 16 16) 2 = x.1) ∧
    u16 (sub (tallyTile 2 1) 16 16) 4 = 0 ∧
    routed 0 (tile (busy0 []) (tallyTile 2 1)) = true ∧ fabricRoom (tile (busy0 []) (tallyTile 2 1)) = true ∧
    routed 0 (unreached (tallyTile 2 1)) = false ∧ (unreached (tallyTile 2 1)).nextOn 0x60 [] 0 =
      some (prog [tallyTile 2 1], 0, tallyTile 2 1) ∧ (prog []).outcome = none ∧
    tallyRecordWaits (sub (tallyTile 3 0) 16 16)
      ((tile (busy0 []) (tallyTile 3 0)).setTally 5 { value := 7, open_ := false }) = false ∧
    ((livePrograms (tile (busy0 []) (rec32 0 []))).filter (fun g => g.hall == 0)).findSome? issueNop =
      some (issue 0 true (prog [rec32 0 []])) ∧
    ({ tile (busy0 []) [] with programs := [ended] } : State).program? 0 = some ended ∧ programDone ended = true ∧
    (∀ c ∈ ended.coreList, ((runningOn c { tile (busy0 []) [] with programs := [ended] }).map Program.id) = some 0) := by
  decide +kernel

/-- A TALLY at ring 3 that has waited longer than the limit of its WAIT. -/
def expired : Fetched := { fet (desc 1 [(48, 5), (50, 3), (56, 7), (60, 4)]) with done := 2, waited := 4 }

/-- A fetch, and a record write, that have been reissued n times. -/
def failing (n : Nat) : State := setReissues (.write 3) n (setReissues (.fetch 3) n (fetching none []))

/-- A core that stands at a WAIT without a limit, its flight landed. -/
def coreWaits : State := tile { running with lastFlight := 1 } (tallyTile 3 0)

theorem wit_ExpiredWaitsAndFailedAccessesEnd :
    (head 3 0 expired (part0 running ready)).serves = true ∧
    headOf 0x01 3 (head 3 0 expired (part0 running ready)) = some expired ∧ expired.done < 3 ∧
    tallyRecordWaits (tallyRec expired) (head 3 0 expired (part0 running ready)) = true ∧
    waitExpired (tallyRec expired) expired.waited expired.landed = true ∧
    coreWaits.serves = true ∧ coreWaits.nextOn 0x60 [] 0 = some (prog [tallyTile 3 0], 0, tallyTile 3 0) ∧
    tallyRecordWaits (sub (tallyTile 3 0) 16 16) coreWaits = true ∧
    waitExpired (sub (tallyTile 3 0) 16 16) (tget 0 (prog []).waited 0) (flightLanded 1 (coreWaits.part 0)) = true ∧
    coreWaits.program? 0 = some (prog [tallyTile 3 0]) ∧ (prog [tallyTile 3 0]).outcome = none ∧
    (failing 2).serves = true ∧ accessOpen (.fetch 3) (failing 2) = true ∧ reissues (.fetch 3) (failing 2) < 3 ∧
    (failing 3).serves = true ∧ accessOpen (.fetch 3) (failing 3) = true ∧ reissues (.fetch 3) (failing 3) = 3 ∧
    accessOpen (.write 3) (failing 3) = true ∧ reissues (.write 3) (failing 3) = 3 := by decide +kernel

/-- VLOAD of one row of 32 entries of 32 bits, converted or raw. -/
def vloadRec (func : Nat) : Bytes := rec32 0x20 [(2, func), (8, 1), (10, 32), (16, 128)]

/-- THIN of one block and one feature at HBM 0x8000. -/
def thinRec : Bytes := rec32 0x03 [(6, 1), (8, 0x8000), (16, 0xFFFF), (18, 1)]

theorem wit_VectorRecordsWriteTheirBuffers :
    (∀ op ∈ [0x20, 0x21, 0x22, 0x23, 0x24, 0x25, 0x26, 0x27, 0x28],
      (tile (busy0 []) (rec32 op [(8, 1)])).serves = true ∧
      (tile (busy0 []) (rec32 op [(8, 1)])).nextInHall op 0 = some (prog [rec32 op [(8, 1)]], 0, rec32 op [(8, 1)])) ∧
    (∀ x ∈ [0, 1],
      (tile (busy0 []) (vloadRec x)).nextInHall 0x20 0 = some (prog [vloadRec x], 0, vloadRec x) ∧
      (vecRec (vloadRec x)).func = x ∧
      (vecPadRanges (vecRec (vloadRec x))).any (fun p => padPoisoned 0 p.1 p.2 (tile (busy0 []) (vloadRec x))) = false ∧
      (vecPadRanges (vecRec (vloadRec x))).any (fun p =>
        padPoisoned 0 p.1 p.2 { tile (busy0 []) (vloadRec x) with padPoison := [0] }) = true) ∧
    (prog []).outcome = none ∧ (tile (busy0 []) thinRec).nextInHall 0x03 0 = some (prog [thinRec], 0, thinRec) ∧
    thinPoisoned thinRec (thinBase (prog [thinRec]) thinRec (tile (busy0 []) thinRec)) (tile (busy0 []) thinRec) = false ∧
    thinPoisoned thinRec (thinBase (prog [thinRec]) thinRec (tile (busy0 []) thinRec))
      { tile (busy0 []) thinRec with hbmPoison := [0x200] } = true := by decide +kernel

/-- A partition with stash entry 0 Stashed and layer 0 defined. -/
def trained : Partition := { stash0 .stashed with layers := [(0, layer .idle)] }

/-- The records of 08_training_passes.md. -/
def trainRec (op : Nat) : Bytes := rec32 op [(2, if op = 0x45 then 1 else 0), (12, 64)]

/-- An XPOSE of 2 by 2 BF16 entries, and a fold of page 1 into page 0. -/
def xposeRec : Bytes := rec32 0x40 [(2, 1), (8, 64), (12, 32), (14, 32), (16, 2), (18, 2)]
def foldRec : Bytes := rec32 0x45 [(5, 1)]

/-- A STASH or an UNSTASH whose transfer a DMA tag carries. -/
def stashing (op : Nat) : State :=
  { part0 trained (ready.modHall 0 (fun h => { h with dma := [{ tag := 2, kind := .stash 0 0 }] })) with
    programs := [prog [trainRec op]] }

theorem wit_TrainingRecordsTakeEffect :
    (∀ op ∈ [0x40, 0x41, 0x42, 0x43, 0x44, 0x45],
      (tile trained (trainRec op)).serves = true ∧
      (tile trained (trainRec op)).nextOn op [] 0 = some (prog [trainRec op], 0, trainRec op)) ∧
    padWaits (prog [trainRec 0x40]) 0 (xposeRanges (trainRec 0x40)).1 (xposeRanges (trainRec 0x40)).2 = false ∧
    (xposeRanges (trainRec 0x40)).1.any (fun p => padPoisoned 0 p.1 p.2 (tile trained (trainRec 0x40))) = false ∧
    (xposeRanges xposeRec).1.any (fun p => padPoisoned 0 p.1 p.2 { tile trained xposeRec with padPoison := [0] }) = true ∧
    (tile trained xposeRec).nextOn 0x40 [] 0 = some (prog [xposeRec], 0, xposeRec) ∧
    padWaits (prog [xposeRec]) 0 (xposeRanges xposeRec).1 (xposeRanges xposeRec).2 = false ∧
    (tile trained xposeRec).program? 0 = some (prog [xposeRec]) ∧ (prog []).outcome = none ∧
    fmtMx (byteAt (trainRec 0x40) 2) = false ∧ bit (byteAt (trainRec 0x45) 2) 0 = true ∧
    pageBusy 0 0 (tile trained (trainRec 0x45)) = false ∧
    (pageOf 0 0 (tile trained (trainRec 0x45))).image.state ≠ .poisoned ∧
    (tile trained foldRec).nextOn 0x45 [] 0 = some (prog [foldRec], 0, foldRec) ∧ bit (byteAt foldRec 2) 0 = false ∧
    pageBusy 0 1 (tile trained foldRec) = false ∧ (pageOf 0 1 (tile trained foldRec)).image.state ≠ .poisoned ∧
    (pageOf 0 1 (tile trained foldRec)).image.type ≠ .pair ∧
    (paged .poisoned foldRec).nextOn 0x45 [] 0 = some (prog [foldRec], 0, foldRec) ∧
    (pageOf 0 0 (paged .poisoned foldRec)).image.state = .poisoned ∧
    (entryFor (prog []) 0 (tile trained (trainRec 0x41))).holds = true ∧
    (entryFor (prog []) 0 (tile (busy0 []) (trainRec 0x41))).holds = false ∧
    extentsWait 0 (entryFor (prog []) 0 (tile trained (trainRec 0x41))) (tile trained (trainRec 0x41)) = false ∧
    padWaits (prog [trainRec 0x41]) 0 [(0, 64)] [] = false ∧
    padWaits (prog [trainRec 0x42]) 0 [] [(0, 64)] = false ∧ freeTag (hallOfCore 0) (tile trained (trainRec 0x41)) = some 0 ∧
    layerOf ((tile trained (trainRec 0x44)).part 0) 0 = some (layer .idle) ∧
    (∀ op ∈ [0x41, 0x42], (stashing op).serves = true ∧ (stashing op).program? 0 = some (prog [trainRec op]) ∧
      ((prog [trainRec op]).records[0]?).map Record.bytes = some (trainRec op) ∧ recOp (trainRec op) = op ∧
      (stashing op).hall 0 = (stashing op).hall (prog []).hall ∧
      ((stashing op).hall 0).dma.find? (fun x => x.tag == 2) = some { tag := 2, kind := .stash 0 0 }) ∧
    padPoisoned 0 0 64 (stashing 0x41) = false := by
  refine ⟨?_, ?_, ?_, ?_, ?_, ?_, ?_, ?_, ?_, ?_, ?_, ?_, ?_, ?_, ?_, ?_, ?_, ?_, ?_, ?_, ?_, ?_, ?_, ?_, ?_, ?_, ?_, ?_⟩ <;>
    decide +kernel

/-! ### The mint, time, the fabric and the rest -/

/-- LAYER_DEF of layer 0: 16 rows of 32 weights in one shard. -/
def layerDesc : Bytes :=
  desc 0x40 [(8, 1), (16, 0), (18, 3), (20, 16), (28, 16), (32, 32), (34, 0), (35, 1), (48, 0), (56, 0x100000)]

/-- A LAYER_IO of the masters of layer 0 to HBM (space 0) or host memory (2) or, with bit 0 of byte 19, from there. -/
def ioDesc (in_ : Bool) (space : Nat) : Bytes :=
  desc 0x44 [(8, 1), (16, 0), (18, 0), (19, if in_ then 1 else 0), (20, space), (24, 0x20000)]

/-- Its copy under way. -/
def ioRuns (in_ : Bool) (space : Nat) : State :=
  { part0 (busy0 [(0, layer .idle)]) ready with work := [work 0 512 (ioDesc in_ space)] }

theorem wit_LayersAreDefinedReadAndWritten :
    (at3 (busy0 []) layerDesc).serves = true ∧ (at3 (busy0 []) layerDesc).mints 0x40 3 (fet layerDesc) = true ∧
    layerDefReject layerDesc 0 (layerFrom layerDesc [(0, 0)] 0) (at3 (busy0 []) layerDesc) = none ∧
    byteAt layerDesc 35 = 1 ∧ (at3 (busy0 [(0, layer .idle)]) layerDesc).mints 0x40 3 (fet layerDesc) = true ∧
    (layerDefReject layerDesc 0 (layerFrom layerDesc [(0, 0)] 0) (at3 (busy0 [(0, layer .idle)]) layerDesc)).map
      Reject.status = some 0x11 ∧
    (at3 (busy0 [(0, layer .idle)]) (desc 0x41 [(8, 1)])).mints 0x41 3 (fet (desc 0x41 [(8, 1)])) = true ∧
    heldLease (busy0 [(0, layer .idle)]) 0 (layer .idle).current = false ∧
    (at3 (busy0 []) (desc 0x41 [(8, 1)])).mints 0x41 3 (fet (desc 0x41 [(8, 1)])) = true ∧ layerOf (busy0 []) 0 = none ∧
    (∀ k ∈ [0, 2], (at3 (busy0 [(0, layer .idle)]) (ioDesc false k)).mints 0x44 3 (fet (ioDesc false k)) = true) ∧
    layerOf (busy0 [(0, layer .idle)]) (mintLayer (ioDesc false 0)) = some (layer .idle) ∧
    hbmAllowed (busy0 [(0, layer .idle)]) 0x20000 (partBytes (layer .idle) 0) = true ∧
    hostAllowed (busy0 [(0, layer .idle)]) 0x20000 (partBytes (layer .idle) 0) = true ∧
    (∀ i ∈ [true, false], ∀ k ∈ [0, 2], (ioRuns i k).serves = true ∧
      (ioRuns i k).work.find? (fun w => w.opcode == 0x44 && w.ring == 3) = some (work 0 512 (ioDesc i k)) ∧
      bit (byteAt (ioDesc i k) 19) 0 = i ∧ byteAt (ioDesc i k) 20 = k) ∧
    (ioRuns true 2).host.halves ≠ [] ∧ ([] : Bytes).length = (work 0 512 (ioDesc true 2)).left ∧
    hbmPoisoned 0x20000 (partBytes (layer .idle) 0) (ioRuns true 0) = false ∧
    hbmPoisoned 0x20000 (partBytes (layer .idle) 0) { ioRuns true 0 with hbmPoison := [0x800] } = true := by
  refine ⟨?_, ?_, ?_, ?_, ?_, ?_, ?_, ?_, ?_, ?_, ?_, ?_, ?_, ?_, ?_, ?_, ?_, ?_, ?_⟩ <;> decide +kernel

/-- A STRIKE of layer 0 in its last round. -/
def strikeJob : MintJob :=
  { ring := 3, tag := 1, bytes := desc 0x43 [(8, 1)], isStrike := true, flight := 1, round := 3,
    hyper := hyperOf []
    frozenRows := 0, clip := false, sat := false, cause := 0, shadow := none, extents := 0, short := 0, newStrike := 2,
    late := false }

/-- Layer 0 running it. -/
def striking : Layer := { layer .running with job := some strikeJob }

/-- A device that hears itself, with layer 0. -/
def looped : State := { part0 (busy0 [(0, layer .idle)]) ready with fab := { ready.fab with enable := true } }

/-- An UPDATE of layer 0 in its last round, its gradients at HBM 0x40000. -/
def updating : Layer :=
  { layer .running with job := some { strikeJob with isStrike := false, bytes := desc 0x42 [(24, 0x40000)] } }

/-- Shard 0 of two of layer 0, the other one at address 2, on a device of address 1. -/
def sharded : State :=
  part0 (busy0 [(0, { layer .running with shards := 2, peers := [(1, 0), (2, 0)] })])
    { addressed with fab := { addressed.fab with enable := true } }

/-- A frame of a body of round 2 from shard 1, whole for flight fl, or its first byte. -/
def bodyFrame (fl : Option Nat) : Frame :=
  from2 0x07 1 (match fl with | none => [0] | some fl => fields 20 [(2, 1), (4, 2), (12, fl)])

theorem wit_UpdatesAndStrikesStageTheLayer :
    (at3 (busy0 [(0, layer .idle)]) (desc 0x42 [(8, 1)])).serves = true ∧
    (at3 (busy0 [(0, layer .idle)]) (desc 0x42 [(8, 1)])).mints 0x42 3 (fet (desc 0x42 [(8, 1)])) = true ∧
    updateFields (busy0 [(0, layer .idle)]) (layer .idle) (desc 0x42 [(8, 1)]) = none ∧
    jobReject (busy0 [(0, layer .idle)]) 0 (layer .idle) false = none ∧
    (at3 (busy0 [(0, layer .idle)]) (desc 0x42 [(8, 1), (44, 9)])).mints 0x42 3 (fet (desc 0x42 [(8, 1), (44, 9)])) = true ∧
    updateTallyMet (desc 0x42 [(8, 1), (44, 9)]) ready = false ∧
    (updateFields (busy0 []) (layer .staged) (desc 0x42 [(8, 1)])).or (jobReject (busy0 []) 0 (layer .staged) false) =
      some (badState 3) ∧
    (at3 (busy0 []) (desc 0x42 [(8, 1)])).mints 0x42 3 (fet (desc 0x42 [(8, 1)])) = true ∧ layerOf (busy0 []) 0 = none ∧
    (at3 (busy0 [(0, layer .idle)]) (desc 0x43 [(8, 1)])).mints 0x43 3 (fet (desc 0x43 [(8, 1)])) = true ∧
    jobReject (busy0 [(0, layer .idle)]) 0 (layer .idle) true = none ∧
    (jobReject (busy0 []) 0 (layer .staged) true).isSome = true ∧
    (regionExtents (layer .idle)).2.1 ≤ poolFree (busy0 [(0, layer .idle)]) ∧
    (let q : Partition := { busy0 [(0, { layer .idle with momentum := true })] with
        record := { (busy0 []).record with vaultSize := 64 } }
     poolFree q < (regionExtents { layer .idle with momentum := true }).2.1 ∧
      jobReject q 0 { layer .idle with momentum := true } true = none) ∧
    (part0 (busy0 [(0, striking)]) ready).serves = true ∧ layerOf (busy0 [(0, striking)]) 0 = some striking ∧
    striking.state = .running ∧ strikeJob.round = 3 ∧
    copyPoisoned striking (struckRows striking strikeJob (part0 (busy0 [(0, striking)]) ready))
      (part0 (busy0 [(0, striking)]) ready) = false ∧
    (List.range updating.n).all (rowFrozen updating) = false ∧
    gradPoisoned updating (desc 0x42 [(24, 0x40000)]) { ready with hbmPoison := [0x1000] } = true ∧
    (busy0 []).flight.isSome = true ∧ (busy0 []).poison = none ∧ vaultAllowed (busy0 []) 0 1 = true ∧
    (∀ b ∈ [none, some 1, some 2], sharded.serves = true ∧
      (Instr.mintExchangeReceived 0 (bodyFrame b)).wellFormed = true ∧ sharded.takesInOrder 0 (bodyFrame b) = true ∧
      sentBy (bodyFrame b) (takeAck (connIn (bodyFrame b)) (bodyFrame b).ack (macReceive 0 (bodyFrame b) sharded)) = none ∧
      ((bodyFrame b).payload.length < bodyBytes (bodyFrame b).payload ↔ b = none)) ∧
    sharded.fab.partial_ = [] ∧
    (∀ fl ∈ [1, 2], ((sharded.parts.filter (fun e => awaitsBody 2 none (bodyFrame (some fl)).payload e.2)).find? (fun e =>
      e.2.flight.map (fun x => x.plan.flight.toNat) == some (u32 (bodyFrame (some fl)).payload 12))).map Prod.fst =
        if fl = 1 then some 0 else none) ∧
    (layerOf (sharded.part 0) 0).isSome = true := by
  refine ⟨?_, ?_, ?_, ?_, ?_, ?_, ?_, ?_, ?_, ?_, ?_, ?_, ?_, ?_, ?_, ?_, ?_, ?_, ?_, ?_, ?_, ?_, ?_, ?_, ?_, ?_, ?_, ?_⟩ <;>
    decide +kernel

/-- Ready with the stairwell part changed. -/
def stw (f : Stw → Stw) : State := { ready with stw := f ready.stw }

theorem wit_RiserAdvancesTheTread :
    ready.serves = true ∧ (stw (fun w => { w with state := .halted })).stw.resumeAt ≠ some (ready.time.tread + 1) ∧
    (stw (fun w => { w with state := .halted, resumeAt := some 1 })).stw.resumeAt = some (ready.time.tread + 1) ∧
    (stw (fun w => { w with haltAt := some (1, 3, 0) })).stw.haltAt = some (1, 3, 0) ∧
    (1 : BitVec 48).toNat ≤ (ready.time.tread + 1).toNat ∧
    (let s := stw (fun w => { w with slips := [(1, .budget, 0)] })
     s.stw.state ≠ .halted ∧ s.stw.haltAt = none ∧ holdInForce (tickClock s) = false ∧ slipFrom (tickClock s) = some 0 ∧
      s.stw.run < s.stw.bound) ∧
    (let s := stw (fun w => { w with slips := [(1, .budget, 0)], run := 8 })
     holdInForce (tickClock s) = false ∧ slipFrom (tickClock s) = some 0 ∧ s.stw.bound ≤ s.stw.run) ∧
    (let s := tile (busy0 []) (rec32 0x12 [])
     s.stw.state ≠ .halted ∧ s.stw.haltAt = none ∧ holdInForce (tickClock s) = false ∧ slipFrom (tickClock s) = none ∧
      workUnfinished (tickClock s) = true) ∧
    (let s := stw (fun w => { w with holdsFor := [1], haltAt := some (2, 3, 0) })
     s.stw.state ≠ .halted ∧ holdInForce (tickClock s) = true ∧ (s.time.tread + 1).toNat < (2 : BitVec 48).toNat) ∧
    holdInForce (tickClock ready) = false ∧ slipFrom (tickClock ready) = none ∧ workUnfinished (tickClock ready) = false ∧
    ((part0 (busy0 []) ready).part 0).flight = some flight1 ∧ TreadKind.slip ≠ .normal := by decide +kernel

theorem wit_RiskAnnouncesASlip :
    ready.serves = true ∧ ready.time.period < 31 + 2 ∧ 30 + 2 ≤ ready.time.period ∧ ready.stw.state ≠ .halted ∧
    tickRisks 30 [] (tile (busy0 []) (rec32 0x12 [])) ≠ [] ∧ tickRisks 30 [] ready = [] ∧ mintRisks 30 [] ready = [] ∧
    seqRisks 30 [] ready = [] ∧ (∀ e ∈ ready.parts, partHolds e.2 = false) := by decide +kernel

/-- A HELLO of address 2 on link 0. -/
def hello : Frame := from2 0x01 0 (fields 8 [(0, 2), (2, 7), (4, 3)])

/-- Address 1 whose link 0 is up and enabled, with a neighbour entry. -/
def greeting (x : Neighbour) : State :=
  let s := (stairs .aligned 1).modPort 0 (fun p => { p with enable := true })
  { s.modLink 0 (fun l => { l with stage := .up }) with fab := { s.fab with neighbours := [(0, x)] } }

theorem wit_HelloesMakeNeighbours :
    (greeting Neighbour.atReset).serves = true ∧ (∀ m, m < 64 → (greets m (greeting Neighbour.atReset) = true ↔ m = 0)) ∧
    (greeting Neighbour.atReset).fab.enable = true ∧ ((greeting Neighbour.atReset).link 0).paused = [] ∧
    ((greeting Neighbour.atReset).port 0).macsec = false ∧ (Instr.helloReceived 0 hello).wellFormed = true ∧
    macPasses 0 hello (greeting Neighbour.atReset) = true ∧
    hello.version = 1 ∧ knownEpoch 2 (greeting Neighbour.atReset) = none ∧
    greets 0 (greeting { Neighbour.atReset with addr := 2, epoch := 3, hellos := 1 }) = true ∧
    knownEpoch 2 (greeting { Neighbour.atReset with addr := 2, epoch := 3, hellos := 1 }) = some 3 ∧
    knownEpoch 2 (greeting { Neighbour.atReset with addr := 2, epoch := 4, hellos := 1 }) = some 4 ∧
    u32 hello.payload 4 = 3 ∧ Neighbour.atReset.addr ≠ 2 ∧ Neighbour.atReset.up = false := by decide +kernel

/-- A connection to address 2 with an unacknowledged frame of sequence number 1, on link 0. -/
def conn2 : Conn :=
  { Conn.atReset { peer := 2, cls := 0, stripe := 0 } with
    next := 2, unacked := [{ frame := { from2 0x05 0 [] with src := 1, dst := 2 }, work := none, part := 0 }], owed := 1, link := some 0 }

/-- Address 1 with a connection, and the same without a link. -/
def connected (c : Conn) : State :=
  let s := linked addressed
  { s with fab := { s.fab with conns := [c] } }
def parted (c : Conn) : State := { connected c with fab := { (connected c).fab with neighbours := [] } }

/-- An ACK of number k. -/
def ackOf (k : Nat) : Frame := { from2 0x02 0 [] with ack := BitVec.ofNat 32 k }

theorem wit_ConnectionsAcknowledgeAndResend :
    (∀ k ∈ [1, 2], (Instr.ackReceived 0 (ackOf k)).wellFormed = true ∧ (connected conn2).hears 0 (ackOf k) = true ∧
      connOf (connIn (ackOf k)) (connected conn2) = conn2) ∧
    (connected conn2).serves = true ∧
    conn2.queued = [] ∧ (conn2.unacked.filter (fun u => !newer 2 u.frame.seq)).length < conn2.unacked.length ∧
    conn2.unacked.filter (fun u => !newer 1 u.frame.seq) = conn2.unacked ∧
    (ackOf 1).ack = ({ conn2 with lastAck := 1 } : Conn).lastAck ∧ conn2.repeats < 2 ∧
    (connOf { peer := 7, cls := 0, stripe := 0 } (connected conn2)).owed = 0 ∧ conn2.owed ≠ 0 ∧
    (connOf { peer := 7, cls := 0, stripe := 0 } (connected conn2)).unacked = [] ∧ conn2.unacked ≠ [] ∧
    (let c : Conn := { conn2 with id := { peer := 1, cls := 0, stripe := 0 } }
     c.id.peer = fabAddr (connected c) ∧ connOf c.id (connected c) = c) ∧
    (∀ k ∈ [0, 3], connOf (connIn (ackOf 1)) (parted { conn2 with idle := k }) = { conn2 with idle := k } ∧
      linksTo 2 (parted { conn2 with idle := k }) = [] ∧ (parted { conn2 with idle := k }).serves = true) ∧
    conn2.id.peer ≠ fabAddr (connected conn2) ∧ conn2.link = some 0 ∧ 0 ∈ linksTo 2 (connected conn2) ∧ conn2.resends < 3 ∧
    nextLink 0 conn2.tried (linksTo 2 (connected conn2)) = some 4 ∧
    nextLink 0 [4] (linksTo 2 (connected { conn2 with resends := 3, tried := [4] })) = none ∧
    ((connected conn2).port (4 / 4)).macsec = false ∧
    (∀ h ∈ [0, 1],
      (Instr.frameRelay 0 { from2 0x07 3 [] with dst := 2, hops := h }).wellFormed = true ∧
      macPasses 0 { from2 0x07 3 [] with dst := 2, hops := h } (connected conn2) = true ∧
      (2 : Half) ≠ fabAddr (connected conn2) ∧ routed 2 (connected conn2) = true) ∧
    pickLink { peer := 2, cls := 3, stripe := 0 } (linksTo 2 (connected conn2)) = some 0 ∧
    ((connected conn2).link 0).paused = [] ∧ ((connected conn2).port 0).macsec = false := by
  decide +kernel

/-- A remote ADD of 7 to tally 3. -/
def addReq : Frame := frame 0x05 1 (fields 16 [(0, 3), (8, 7)])

/-- A device that hears itself with tally 3 as given, and with the answer of transaction 0 kept or not. -/
def tallied (o kept : Bool) : State :=
  let s := looped.setTally 3 { value := 1, open_ := o }
  { s with fab := { s.fab with
    conns := if kept then [{ Conn.atReset { peer := 0, cls := 1, stripe := 0 } with kept := [(0, 0, 0)] }] else [] } }

/-- Group 0 of partition 0 with this device as its only member. -/
def group0 : Group := { rank := 0, staging := 0, stagingBytes := 0, members := [(0, 0)], digest := 0xABCD }

/-- A READY (kind 1) or COUNT (kind 2) for CLEAR tag 5 of a group of a digest. -/
def control (kind digest : Nat) : Frame :=
  { frame 0x05 1 (fields 16 [(0, kind), (1, 0), (2, 0), (4, digest), (8, 64)]) with operation := 5 }

/-- A CLEAR of tag 5 on group 0. -/
def clear5 (b : Bytes) : Work := { work 0 0 b with started := true }

/-- That group, with that CLEAR running or not yet admitted. -/
def grouped (running_ : Bool) : State :=
  let s := part0 { busy0 [] with groups := [group0] } looped
  { s with work := if running_ then [clear5 (desc 0x31 [(8, 1), (44, 5), (52, 0xFFFF), (54, 0xFFFF)])] else [] }

/-- A request of transaction 0 that waits. -/
def waiting0 : Request := request0 0 (.control 0)

theorem wit_RequestsAreExecutedOnce :
    (tallied true false).serves = true ∧ (Instr.remoteAddReq 0 addReq).wellFormed = true ∧ u16 addReq.payload 0 = 3 ∧
    (tallied true false).takesRequest 0 addReq = true ∧ ((tallied true false).tally 3).open_ = true ∧
    (tallied false false).takesRequest 0 addReq = true ∧ ((tallied false false).tally 3).open_ = false ∧
    (tallied true true).takesInOrder 0 addReq = true ∧
    (connOf (connIn addReq) (tallied true true)).kept.any (fun e => e.1 == addReq.txn) = true ∧
    (Instr.readyReq 0 (control 1 0xABCD)).wellFormed = true ∧ (Instr.countReq 0 (control 2 0xABCD)).wellFormed = true ∧
    (∀ k ∈ [1, 2], ∀ r ∈ [true, false],
      (grouped r).serves = true ∧ (grouped r).takesRequest 0 (control k 0xABCD) = true ∧
      groupIn 0xABCD 0 (grouped r) = some 0 ∧ (clearOf 0xABCD 0 5 (grouped r)).isSome = r ∧
      (Instr.readyReq 0 (control 1 0xABCE)).wellFormed = true ∧ (grouped r).takesRequest 0 (control k 0xABCE) = true ∧
      groupIn 0xABCE 0 (grouped r) = none ∧ (mismatched 5 0xABCE 0 0 0 (grouped r)).isSome = r) ∧
    ({ looped with fab := { looped.fab with requests := [waiting0] } } : State).serves = true ∧
    (Instr.respReceived 0 (frame 0x06 1 [0, 0, 0, 0, 0, 0, 0, 0, 0])).wellFormed = true ∧
    ({ looped with fab := { looped.fab with requests := [waiting0] } } : State).takesInOrder 0
      (frame 0x06 1 [0, 0, 0, 0, 0, 0, 0, 0, 0]) = true ∧
    [waiting0].find? (fun r => r.txn == 0 && r.conn == reqConn 0 && !r.fenced) = some waiting0 ∧
    looped.fab.requests.find? (fun r => r.txn == 0 && r.conn == reqConn 0 && !r.fenced) = none := by decide +kernel

/-- DATA for the CLEAR of tag 5 of group 0. -/
def data5 : Frame := { frame 0x07 3 [1, 2] with operation := 5, txn := 0xABCD }

/-- Queue 0 of partition 0 toward this device itself. -/
def queued (receive : Bool) : State :=
  part0 { busy0 [] with queues := [{ queue receive with peer := 0 }] } looped

theorem wit_DataLandsWhereItWasNamed :
    (Instr.collectiveData 0 data5).wellFormed = true ∧
    (∀ r ∈ [true, false], (grouped r).serves = true ∧ (grouped r).takesInOrder 0 data5 = true ∧
      groupIn data5.txn data5.receiverRank (grouped r) = some 0 ∧
      (clearOf data5.txn data5.receiverRank data5.operation (grouped r)).isSome = r) ∧
    (queued true).serves = true ∧ (Instr.queueData 0 (frame 0x07 2 [1])).wellFormed = true ∧
    (queued true).takesInOrder 0 (frame 0x07 2 [1]) = true ∧
    queueIn true (frame 0x07 2 [1]) (takeAck (connIn (frame 0x07 2 [1])) 0 (macReceive 0 (frame 0x07 2 [1]) (queued true))) =
      some (0, { queue true with peer := 0 }) ∧
    queueOf 0 0 (queued true) = some { queue true with peer := 0 } ∧ [(1 : Byte)].length < 8192 ∧
    (queued true).takesInOrder 0 (frame 0x07 2 (List.replicate 8192 0)) = true ∧ 0 + 8192 ≠ (queue true).entryBytes ∧
    (Instr.queueData 0 (frame 0x07 2 (List.replicate 8192 0))).wellFormed = true ∧
    (Instr.creditReceived 0 (frame 0x08 2 [1, 0, 0, 0])).wellFormed = true ∧
    (queued false).takesInOrder 0 (frame 0x08 2 [1, 0, 0, 0]) = true ∧
    queueIn false (frame 0x08 2 [1, 0, 0, 0])
      (takeAck (connIn (frame 0x08 2 [])) 0 (macReceive 0 (frame 0x08 2 [1, 0, 0, 0]) (queued false))) =
        some (0, { queue false with peer := 0 }) ∧
    queueOf 0 0 (queued false) = some { queue false with peer := 0 } := by
  refine ⟨?_, ?_, ?_, ?_, ?_, ?_, ?_, ?_, ?_, ?_, ?_, ?_, ?_, ?_, ?_⟩ <;> decide +kernel

/-- Link 0 of an enabled port at a stage. -/
def linkAt (st : Bringup) : State :=
  (ready.modPort 0 (fun p => { p with enable := true })).modLink 0 (fun l => { l with stage := st })

theorem wit_PortsAndLinksFollowTheirEvents :
    (∀ st ∈ [Bringup.waiting, .signal, .locked, .up], (linkAt st).serves = true ∧ ((linkAt st).link 0).stage = st) ∧
    (1 : Fin 5) ≠ 0 ∧ [1, 2, 3, 4].length = 4 ∧ ((linkAt .up).port 0).fecUnc.toNat < 2 ^ 16 ∧ ready.powered = true ∧ ready.pwr.opticsOff.contains 0 = false ∧
    ({ ready with pwr := { ready.pwr with opticsOff := [0] } } : State).pwr.opticsOff.contains 0 = true ∧
    ready.dev.unbound = false ∧ cxlUp ready = true ∧ portsTrained ready = true ∧
    (∀ v ∈ [0x231, 0x230], v < 2 ^ 32 ∧ bits v 24 8 = 0 ∧ bits v 12 8 = 0 ∧ bits v 6 3 = 0 ∧ bits v 2 2 = 0) ∧
    bit (0x231 : Word).toNat 0 = true ∧ bit (0x230 : Word).toNat 0 = false ∧ (ready.port 0).enable = false ∧
    ((linkAt .up).port 0).enable = true ∧
    (channelOf 0 2 (setChannel 0 2 { Secy.atReset with valid := true } ready)).valid = true ∧
    bit (0 : Word).toNat 31 = false ∧ bits (0 : Word).toNat 16 9 = 0 ∧ bits (0 : Word).toNat 0 4 = 0 := by decide +kernel

/-- Port 0 with a FLOW. -/
def flowing (f : Nat) : State := ready.modPort 0 (fun p => { p with flow := f })

/-- A port under PAUSE with XOFF at 2 and XON at 1 KiB. -/
def full : Port := { (flowing 1).port 0 with xoff := 2, xon := 1 }

theorem wit_FlowControlAndFrameChecks :
    (flowing 1).serves = true ∧ ((flowing 1).port 0).flow = 1 ∧ ((flowing 2).port 0).flow ≠ 1 ∧
    ((flowing 2).port 0).flow = 2 ∧ ((flowing 0).port 0).flow ≠ 2 ∧ (List.replicate 8 (0 : Half)).length = 8 ∧
    bit (0x03 : Byte).toNat 0 = true ∧ bit (0x03 : Byte).toNat 7 = false ∧
    [(0 : Half), 5, 0, 0, 0, 0, 0, 0].getD 0 0 = 0 ∧ [(0 : Half), 5, 0, 0, 0, 0, 0, 0].getD 1 0 ≠ 0 ∧
    (ready.port 0).wdEn = true ∧ 3 ∈ ((ready.modLink 0 (fun l => { l with paused := [3] })).link 0).paused ∧
    (ready.link 0).lldpTx = true ∧ ((linkAt .up).link 0).stage = .up ∧ ((linkAt .up).link 0).lldpTx = true ∧
    (ready.link 0).stage ≠ .up ∧ (eth 63 true).length < 64 ∧ 9216 < (eth 9217 true).length ∧
    full.flow ≠ 0 ∧ full.xoffSent = false ∧ 1024 * full.xoff.toNat ≤ min 2048 bufferBytes ∧
    ¬ 1024 * full.xoff.toNat ≤ min 1000 bufferBytes ∧
    (64 ≤ (eth 64 false).length ∧ (eth 9216 false).length ≤ 9216 ∧ (eth 64 false).fcsOk = false) ∧
    dropCounter 0 (eth 64 true) ((flowing 0).modPort 0 (fun p => { p with occupancy := bufferBytes })) = some 0x94 ∧
    dropCounter 0 (eth 64 true) (flowing 2) = none := by
  decide +kernel

/-- Module 0 retraining at width 64, and a committed HDM decoder. -/
def retraining : State := { ready with host := { ready.host with halves := [], retraining := [(0, 64)] } }
def mapped : State := { ready with host := { ready.host with hdm := some 0x10000 } }

/-- The same with a pseudo-channel out of service. -/
def retired : State := { mapped with flt := { mapped.flt with outOfService := [{ type := 1, index := 137 }] } }

theorem wit_HostModulesTrainAndReachHbm :
    State.reset.dev.unbound = false ∧
    (∀ h ∈ moduleHalves 0, { type := 5, index := h } ∉ State.reset.flt.retired.map Retired.res) ∧
    State.reset.dev.state = .boot ∧ moduleWidth 0 State.reset = 0 ∧ tget? retraining.host.retraining 0 = some 64 ∧
    (∀ h ∈ moduleHalves 0, { type := 5, index := h } ∉ retraining.flt.retired.map Retired.res) ∧
    mayRetrain 0 ready = true ∧ mayRetrain 0 retraining = false ∧ ready.regs.hstRetryLim ≠ 0 ∧
    ready.regs.hstRetryLim.toNat < 257 ∧ 256 ≤ ready.regs.hstRetryLim.toNat ∧ ready.dev.unbound = false ∧
    cxlUp ready = true ∧ memoryActive mapped = true ∧ mapped.dev.unbound = false ∧
    mapped.host.hdm = some 0x10000 ∧ 0x10000 % 64 = 0 ∧ (2 ^ 40 - 64) % 64 = 0 ∧ 2 ^ 40 - 64 + 64 ≤ hbmUsable mapped ∧
    hbmUsable retired < 2 ^ 40 - 64 + 64 ∧ memoryActive retired = true ∧ retired.host.hdm = some 0x10000 := by
  decide +kernel

/-- Every stretch and throttle in force. -/
def stressed : State :=
  { ready with pwr := { ready.pwr with
    tempStretch := [0], currentStretch := [0], mintThrottle := true, hbmThrottle := [7], vaultThrottle := [7] } }

theorem wit_ReflexesStretchAndThrottle :
    ready.powered = true ∧ ready.pwr.tempStretch.contains 0 = false ∧ ready.pwr.currentStretch.contains 0 = false ∧
    ready.pwr.droopStretch.contains 0 = false ∧
    ({ ready with pwr := { ready.pwr with droopStretch := [0] } } : State).pwr.droopStretch.contains 0 = true ∧ stressed.powered = true ∧ stressed.pwr.tempStretch.contains 0 = true ∧
    stressed.pwr.currentStretch.contains 0 = true ∧ ready.pwr.mintThrottle = false ∧ stressed.pwr.mintThrottle = true ∧
    ready.pwr.hbmThrottle.contains 7 = false ∧ ready.pwr.vaultThrottle.contains 7 = false ∧
    (8 : Fin 17).val = (7 : Fin 8).val + 1 ∧ stressed.pwr.hbmThrottle.contains 7 = true ∧
    (16 : Fin 17).val = (7 : Fin 8).val + 9 ∧ stressed.pwr.vaultThrottle.contains 7 = true ∧
    (List.replicate 92 (0 : Half)).length = 92 ∧ ready.serves = true ∧ ready.fw.tellerDown = false ∧
    ready.fw.tellerRestarting = false ∧ ready.fw.handover = none ∧ ready.pwr.newGains.length = 2 := by decide +kernel

/-- Ready with the firmware section changed. -/
def firm (f : Firmware → Firmware) : State := { ready with fw := f ready.fw }

/-- FW_LOAD of two bytes into slot 1 at ring 3. -/
def loadDesc : Bytes := desc 0x87 [(16, 1), (32, 2)]

theorem wit_FirmwareImagesAndTeller :
    (∀ s ∈ [head 3 255 (fet loadDesc) ready,
        head 3 255 (fet loadDesc) (firm (fun f => { f with slot1 := { state := .pending, image := [] } })),
        head 3 255 (fet loadDesc) (firm (fun f => { f with tellerDown := true }))],
      s.serves = true ∧ headOf 0x87 3 s = some (fet loadDesc) ∧
      touchesHdm (u64 loadDesc 24) (u32 loadDesc 32) s = false) ∧
    slotLoads (slotOf 1 ready) = true ∧ ready.fw.tellerDown = false ∧ ready.host.halves ≠ [] ∧
    retraining.host.halves = [] ∧ slotLoads (slotOf 1 retraining) = true ∧ [(1 : Byte), 2].length = u32 loadDesc 32 ∧
    slotLoads { state := .pending, image := [] } = false ∧
    (firm (fun f => { f with loading := [(1, 3, 1)] })).fw.loading.find? (fun e => e.1 == 1) = some (1, 3, 1) ∧
    tellerUp ready = true ∧ ready.fw.handover = none ∧
    (firm (fun f => { f with handover := some (1, 3, 1) })).serves = true ∧
    warmReason 1 (firm (fun f => { f with handover := some (1, 3, 1) })) = 0 ∧
    (firm (fun f => { f with active := some 0 })).fw.active = some 0 ∧
    ((firm (fun f => { f with restarts := [0] })).fw.restarts.filter (fun x =>
      operatingNow (firm (fun f => { f with restarts := [0] })) < x + 3600000)).length < 2 ∧
    2 ≤ ((firm (fun f => { f with restarts := [0, 0] })).fw.restarts.filter (fun x =>
      operatingNow (firm (fun f => { f with restarts := [0, 0] })) < x + 3600000)).length ∧
    (firm (fun f => { f with tellerRestarting := true })).serves = true := by decide +kernel

/-- A quote of the device domain, and one in a closed batch. -/
def quote0 : Quote := { ring := 3, tag := 1, part := 255, nonce := [], addr := 0x100000000000 }

theorem wit_QuotesAreSignedOnceEach :
    (head 3 255 (fet (desc 0x8A [])) ready).serves = true ∧
    headOf 0x8A 3 (head 3 255 (fet (desc 0x8A [])) ready) = some (fet (desc 0x8A [])) ∧ leafIndex ready = some 0 ∧
    0 < leafCount ∧ leafIndex (firm (fun f => { f with leafA := (leafCount, true) })) = some leafCount ∧
    leafIndex (firm (fun f => { f with leafA := (0, false), leafB := (0, false) })) = none ∧
    (firm (fun f => { f with batch := [quote0] })).fw.batch ≠ [] ∧ ready.fw.handover = none ∧
    ready.fw.traversalOk = true ∧ ready.fw.closed = [] ∧ ready.fw.batch = [] ∧
    (firm (fun f => { f with closed := [(quote0, [])] })).serves = true ∧
    quoteInHbm quote0.part quote0.addr.toNat ready = false ∧ quoteInHbm 0 0x10000 (part0 (owner0 []) ready) = true ∧
    ready.host.halves ≠ [] ∧ retraining.host.halves = [] ∧
    (firm (fun f => { f with closed := [(quote0, [])], traversalOk := false })).fw.closed ≠ [] ∧
    (firm (fun f => { f with traversalOk := false })).serves = true := by decide +kernel

/-! ## Expected results worked out in spec/ -/

/-- The example of R10: a counter of 0x8000_0123 is 0x123 after a harvest, and 5 more make 0x128. -/
theorem test_harvest_example :
    (harvestKey 0x0D0010 (ready.bump 0x0D0010 0x80000123)).counter 0x0D0010 = 0x123 ∧
    ((harvestKey 0x0D0010 (ready.bump 0x0D0010 0x80000123)).bump 0x0D0010 5).counter 0x0D0010 = 0x128 := by decide +kernel

/-- The example of R16: core 2,611 stands in gallery 1, hall 163 and wing 10. -/
theorem test_core_2611 : galleryOfCore 2611 = 1 ∧ hallOfCore 2611 = 163 ∧ wingOfHall 163 = 10 := by decide +kernel

/-- R31 at reset: 44,800 cycles in a tread and a ceiling of 40,320. -/
theorem test_ceiling_at_reset : treadCycles State.reset = 44800 ∧ ceiling State.reset = 40320 := by decide +kernel

/-- The packing example of 04_number_formats.md: four E3M2 codes. -/
theorem test_pack_e3m2 : packCodes 4 [0x01, 0x02, 0x03, 0x3F] = [0x81, 0x30, 0xFC] := by decide +kernel

/-- Its conversion example: 3.0, 0.1 and -0.0001 with 29 zeros into an MXFP8 E4M3 block with rne, and with the draws of
the stochastic variant. -/
theorem test_convert_e4m3 :
    (mxQuantize ([0x40400000, 0x3DCCCCCD, 0xB8D1B717].map ofF32 ++ List.replicate 29 (ofF32 0)) 2 none) =
      { scale := 0x78, codes := [0x7C, 0x55, 0x87] ++ List.replicate 29 0, sat := false, nan := false } ∧
    (mxQuantize ([0x40400000, 0x3DCCCCCD].map ofF32) 2 (some [0, 0x1234])).codes = [0x7C, 0x55] ∧
    (mxQuantize ([0x40400000, 0x3DCCCCCD].map ofF32) 2 (some [0, 0xCCCC])).codes = [0x7C, 0x54] := by decide +kernel

/-- Draws 0 to 2 of key 0 and counter 0 as the examples of R227 and R228 give them. -/
theorem test_first_draws : (genDraws 0 0 0 0 0 8).take 3 = [0xB25D, 0x5628, 0x30B9] := by decide +kernel

/-- The reduction example of 11_fabric_and_collectives.md: 2^24, 1, -2^24 and 1 in rank order make 1. -/
theorem test_rank_order_sum :
    toF32 (r32 ((r32 ((r32 ((ofF32 0x4B800000).add (ofF32 0x3F800000))).add (ofF32 0xCB800000))).add (ofF32 0x3F800000))) =
      0x3F800000 := by decide +kernel

/-- The example of 19_registers.md: MAC_RX_FCS of link 20 lies at 0x1_5078 in the PORT space. -/
theorem test_link_counter_address : kLink 20 0x78 = indirectKey 5 0x15078 := by decide +kernel

/-- The example of 17_faults_and_availability.md: one retired pseudo-channel leaves 1,020 GiB. -/
theorem test_retire_pending_payload :
    tierGiB (retire { type := 1, index := 137 } 2 ready) 1 = 1020 := by decide +kernel

/-- Table 2-5: STW_DISSOLVE is illegal while Alone, and completes with BAD_STATE and state code 0. -/
theorem test_dissolve_alone :
    (match Machine.exec (.stwDissolve 3) (withCpl (head 3 255 (fet (desc 0x71 [])) ready)) with
      | .next t => (t.ring 1).posted.map (fun r => match r with | .cpl _ c => (c.status, c.detail) | .evt _ _ => (0, 0))
      | _ => []) = [(0x11, 0)] := by decide +kernel

/-- R96: a NOP posts one record with its tag, DONE and phase 1 of an untouched CPL ring. -/
theorem test_nop_posts_done :
    (match Machine.exec (.nop 3) nopHead with
      | .next t => (t.ring 1).posted.map (fun r => match r with | .cpl p c => (p, c.tag, c.status, c.ring) | .evt _ _ => (false, 0, 0, 0))
      | _ => []) = [(true, 1, 0, 3)] := by decide +kernel

/-- R103: ADD counts modulo 2^32. -/
theorem test_tally_wraps :
    (match Machine.exec (.tally 3) ((head 3 0 (tallyAt 2 2 0 7) (part0 running ready)).setTally 5
        { value := 0xFFFFFFFE, open_ := false }) with
      | .next t => (t.tally 5).value
      | _ => 0) = 5 := by decide +kernel

/-- R184: SEAL of page 0 by a program seals it, and its record counts as ended. -/
theorem test_seal :
    (match Machine.exec (Instr.seal 0) (paged .open_ (rec32 0x10 [])) with
      | .next t => ((pageOf 0 0 t).image.state == .sealed, (t.program? 0).map programDone)
      | _ => (false, none)) = (true, some true) := by decide +kernel

/-- R29, R32, R46: at a riser for which this device announced a slip the tread is a slip tread, the slip run is 1, and the
flight has the normal tread that ended behind it. -/
theorem test_slip_riser :
    (match Machine.exec (.riser RiserFindings.none) (part0 flying (stw (fun w => { w with slips := [(1, .budget, 0)] }))) with
      | .next t => (t.time.tread.toNat, t.time.kind == .slip, t.stw.run, (t.part 0).flight.map Flight.pos)
      | _ => (0, false, 0, none)) = (1, true, 1, some 2) := by decide +kernel

/-- R421: a temperature stretch halves the effective clock. -/
theorem test_stretch_halves_the_clock :
    effectiveMHz ready 0 = 1400 ∧
    (match Machine.exec (.galleryTempStretch 0) ready with | .next t => effectiveMHz t 0 | _ => 0) = 700 := by decide +kernel

end Sys2Proof.Tests
end

section
/-!
Writes of registers: what a harvest and a write of the register windows and of BAR4 do (O12, O13), and the reset state's memories
(O3).
-/
namespace Sys2Proof.Machine

/-! ## Harvests (R10, Table 0-4) -/

/-- A harvest takes 0x8000_0000 from a counter that holds that much. -/
theorem counter_harvestKey_same (k : Nat) (s : State) :
    (harvestKey k s).counter k =
      if 0x80000000 ≤ (s.counter k).toNat then s.counter k - 0x80000000 else s.counter k := by
  by_cases h : 0x80000000 ≤ (s.counter k).toNat
  · have hh : halfFull k s = true := by simp [halfFull, h]
    simp only [harvestKey, hh, if_true, h]
    exact tget_tset_same 0 s.cnt k _
  · have hh : halfFull k s = false := by simp [halfFull, h]
    simp [harvestKey, hh, h]

/-- A harvest leaves the other counters alone. -/
theorem counter_harvestKey_ne {k b : Nat} (s : State) (h : b ≠ k) : (harvestKey k s).counter b = s.counter b := by
  unfold harvestKey; split
  · exact tget_tset_ne 0 s.cnt _ h
  · rfl

/-- A harvest changes counters only. -/
theorem harvestKey_frame (k : Nat) (s : State) : { harvestKey k s with cnt := s.cnt } = s := by
  unfold harvestKey; split <;> rfl

theorem exec_harvest {a : Nat} (v : Word) {s : State} (hb : s.dev.unbound = false) (hc : cxlUp s = true)
    (ha : a ∈ directCounters) : exec (.harvest a v) s = .next (harvestKey a s) := by
  show execHarvest a v s = _
  simp [execHarvest, whenBound_bound _ hb, hc, ha]

/-! ## Writes of the register windows (R404) -/

section
variable {s : State} (hb : s.dev.unbound = false) (hc : cxlUp s = true)
include hb hc

/-- An aligned word written in the register window reaches its register. -/
theorem exec_registerWrite_word {a : Nat} (v : Word) (ha : a < 0x1000000) (h4 : a % 4 = 0) :
    exec (.registerWrite a 4 v .bar0) s = .next (directWrite a v s) := by
  have hin : ¬ 0x1000000 ≤ a := by omega
  show execRegisterWrite a 4 v s .bar0 = _
  simp [execRegisterWrite, whenBound_bound _ hb, bar0Write, hc, hin, h4]

/-- Any other write in the register window is an Unsupported Request. -/
theorem exec_registerWrite_unsupported {a size : Nat} (v : Word) (ha : a < 0x1000000) (h : size ≠ 4 ∨ a % 4 ≠ 0) :
    exec (.registerWrite a size v .bar0) s = .next (s.emit .unsupported) := by
  have h4 : ¬ (size = 4 ∧ a % 4 = 0) := by omega
  have hin : ¬ 0x1000000 ≤ a := by omega
  show execRegisterWrite a size v s .bar0 = _
  simp [execRegisterWrite, whenBound_bound _ hb, bar0Write, hc, hin, h4]

/-- An aligned word written in BAR4 reaches the MSI-X table. -/
theorem exec_registerWrite_bar4_word {a : Nat} (v : Word) (ha : a < 0x10000) (h4 : a % 4 = 0) :
    exec (.registerWrite a 4 v .bar4) s = .next (bar4Write a v s) := by
  have hin : ¬ 0x10000 ≤ a := by omega
  show execRegisterWrite a 4 v s .bar4 = _
  simp [execRegisterWrite, whenBound_bound _ hb, bar4Access, hc, hin, h4]

end

/-- The third word of an entry of the MSI-X table is the message data of its vector (Table 14-4). -/
theorem bar4Write_data (v : Fin 2048) (w : Word) (s : State) :
    bar4Write (16 * v + 8) w s = s.setVector v { s.vector v with data := w } := by
  have hlow : ¬ 0x8000 ≤ 16 * v.val + 8 := by omega
  have hentry : (16 * v.val + 8) / 16 = v := by omega
  simp [bar4Write, hlow, hentry]

/-! ## Access codes of the direct registers (R10, R495, R497) -/

/-- A word whose RSV bits are 0 changes no RSV field. -/
theorem rsvCheck_of_clear {mask : Nat} {v : Word} (s : State) (h : v &&& BitVec.ofNat 32 mask = 0) : rsvCheck mask v s = s := by
  simp [rsvCheck, markUnbound, h]

/-- A number below 2 ^ k has no bit of a mask that begins at bit k. -/
theorem word_and_high_mask {k m : Nat} {v : Word} (h : v.toNat < 2 ^ k) : v &&& BitVec.ofNat 32 (m * 2 ^ k) = 0 := by
  refine BitVec.eq_of_getLsbD_eq (fun i _ => ?_)
  have hv : i ≥ k → v.getLsbD i = false := fun hi =>
    Nat.testBit_lt_two_pow (Nat.lt_of_lt_of_le h (Nat.pow_le_pow_right (by omega) hi))
  by_cases hi : i ≥ k
  · simp [hv hi]
  · simp [BitVec.getLsbD_ofNat, Nat.testBit_mul_two_pow, hi]

/-- A word without the bits of a mask, and those bits, make the word. -/
theorem word_and_not_or_and (m v : Word) : v &&& ~~~m ||| v &&& m = v := by
  ext i
  simp [← Bool.and_or_distrib_left]

/-- A multiple of 4 is unchanged without its two low bits. -/
theorem word_and_not_three {v : Word} (h : v &&& 3 = 0) : v &&& 0xFFFFFFFC#32 = v := by
  have hv := word_and_not_or_and 3 v
  rw [h] at hv
  simpa using hv

/-- HST_CTL takes its fields (Table 14-6). -/
theorem directWrite_hstCtl {v : Word} (s : State) (h : v.toNat < 2 ^ 24) :
    directWrite 0x0B0004 v s = { s with regs := { s.regs with
      hstTimeout := BitVec.ofNat 8 (v.toNat / 65536 % 256), hstRetryLim := BitVec.ofNat 16 (v.toNat % 65536) } } := by
  have hclear : v &&& BitVec.ofNat 32 0xFF000000 = 0 := word_and_high_mask (k := 24) (m := 0xFF) h
  have hno : 0x0B0004 ∉ directCounters := by decide
  simp [directWrite, hno, directRsv, hstCtlWrite, rsvCheck_of_clear _ hclear, modRegs, bits]

/-- IA_ADDR takes a multiple of 4. -/
theorem directWrite_iaAddr {v : Word} (s : State) (h : v &&& 3 = 0) :
    directWrite 0x010004 v s = { s with regs := { s.regs with iaAddr := v } } := by
  have hno : 0x010004 ∉ directCounters := by decide
  simp [directWrite, hno, directRsv, rsvCheck_of_clear s h, modRegs, word_and_not_three h]

/-- FAB_ADDR ignores a write while the fabric is enabled (Table 11-13). -/
theorem directWrite_fabAddr_enabled {v : Word} {s : State} (h : v.toNat < 2 ^ 16) (he : s.fab.enable = true) :
    directWrite 0x090004 v s = s := by
  have hclear : v &&& BitVec.ofNat 32 0xFFFF0000 = 0 := word_and_high_mask (k := 16) (m := 0xFFFF) h
  have hno : 0x090004 ∉ directCounters := by decide
  simp [directWrite, hno, directRsv, rsvCheck_of_clear s hclear, fabAddrWrite, he]

/-- The last direct counter lies in the fault block. -/
theorem directCounters_lt : ∀ k ∈ directCounters, k < 0x0E0000 := by decide

/-- No table gives an RSV bit above the fault block. -/
theorem directRsv_unassigned {a : Nat} (h : 0x0E0000 ≤ a) : directRsv a = 0 := by
  unfold directRsv
  rw [if_neg (by omega)]
  split <;> omega

/-- An address above the fault block ignores the write (R490). -/
theorem directWrite_unassigned {a : Nat} (v : Word) (s : State) (h : 0x0E0000 ≤ a) : directWrite a v s = s := by
  have hno : a ∉ directCounters := fun hm => absurd (directCounters_lt a hm) (by omega)
  have hrsv : rsvCheck (directRsv a) v s = s := rsvCheck_of_clear s (by simp [directRsv_unassigned h])
  unfold directWrite
  rw [if_neg (by simp [hno]), if_neg (by omega), hrsv]
  dsimp only
  split
  iterate 8 omega
  rfl

end Sys2Proof.Machine

open Sys2Proof Sys2Proof.Machine

/-- Settles O12: each clause is the write of its register, with RSV bits that the premises keep 0. -/
theorem registerWritesFollowTheirAccessCodes : Obligations.RegisterWritesFollowTheirAccessCodes := by
  refine ⟨fun v s hb hc hv => ?_, fun v s hb hc hv => ?_, fun v s hb hc hv he => ?_, fun a v s hb hc hlo hhi h4 => ?_,
    fun a size v s hb hc ha h => ?_, fun v w s hb hc => ?_⟩
  · rw [exec_registerWrite_word hb hc v (by decide) (by decide), directWrite_hstCtl s hv]
  · rw [exec_registerWrite_word hb hc v (by decide) (by decide), directWrite_iaAddr s hv]
  · rw [exec_registerWrite_word hb hc v (by decide) (by decide), directWrite_fabAddr_enabled hv he]
  · rw [exec_registerWrite_word hb hc v hhi h4, directWrite_unassigned v s hlo]
  · exact exec_registerWrite_unsupported hb hc v ha h
  · rw [exec_registerWrite_bar4_word hb hc w (by omega) (by omega), bar4Write_data]

/-- Settles O13: HARVEST is a harvest of the counter named. -/
theorem harvestTakesHalfTheCounter : Obligations.HarvestTakesHalfTheCounter := fun a v s hb hc ha =>
  ⟨harvestKey a s, exec_harvest v hb hc ha, counter_harvestKey_same a s, fun _ h => counter_harvestKey_ne s h,
    harvestKey_frame a s⟩

/-- Settles O3: the reset state lists no byte in any memory, and no command. -/
theorem resetMemoriesAreCanonical : Obligations.ResetMemoriesAreCanonical := ⟨rfl, rfl⟩
end

section
/-!
The queue and the byte memories (O2). First `held`, the five fields of the state that O2 speaks of, and one lemma for each
operation of the model that leaves them alone; then `Held.Evolves`, what may happen to them, and one lemma for each operation
that moves data; then what each command answers, by the gate of its meaning.
-/
namespace Sys2Proof.Machine

/-! ## What a state holds -/

/-- The queue that waits and the four byte memories: what a command that moves no data leaves alone. -/
structure Held where
  queue : List Instr
  hbm : Memory
  vault : Memory
  pads : Memory
  bufs : Memory

/-- What a state holds of them. -/
def State.held (s : State) : Held := ⟨s.pending, s.hbm, s.vault, s.pads, s.bufs⟩

/-- A literal state holds what its fields say. -/
@[simp] theorem State.held_mk (dev porter regs cnt time stw rings owners tallies vectors parts settings hbm vault pads bufs
    hbmPoison vaultPoison padPoison cores halls programs work nextId fab ports links host pwr fw flt out hostWaits free
    mintParams pending) :
    (State.mk dev porter regs cnt time stw rings owners tallies vectors parts settings hbm vault pads bufs
      hbmPoison vaultPoison padPoison cores halls programs work nextId fab ports links host pwr fw flt out hostWaits free
      mintParams pending).held = ⟨pending, hbm, vault, pads, bufs⟩ := (rfl)

/-- The parts of one state make what it holds. -/
@[simp] theorem State.held_eta (s : State) : Held.mk s.pending s.hbm s.vault s.pads s.bufs = s.held := (rfl)

/-- A choice holds what the chosen state holds. -/
@[simp] theorem State.held_ite (c : Prop) [Decidable c] (s t : State) :
    (if c then s else t).held = if c then s.held else t.held := apply_ite State.held c s t

theorem held_of_reports {s t : State} (h : t.apartFromReports = s.apartFromReports) : t.held = s.held := by
  have k := congrArg State.held h
  exact k

theorem held_of_completions {s t : State} (h : t.apartFromCompletions = s.apartFromCompletions) : t.held = s.held :=
  held_of_reports (apartFromReports_of_completions h)

theorem held_of_sending {s t : State} (h : t.apartFromSending = s.apartFromSending) : t.held = s.held := by
  have k := congrArg State.held h
  exact k

/-- A fold of steps that leave the queue and the memories alone leaves them alone. -/
@[simp] theorem held_foldl {β : Type} (f : State → β → State) (l : List β) (s : State)
    (h : ∀ s b, (f s b).held = s.held) : (l.foldl f s).held = s.held :=
  foldl_keeps State.held f h l s

@[simp] theorem held_foldl_fst {α β : Type} (f : State × α → β → State × α) (l : List β) (a : State × α)
    (h : ∀ a b, (f a b).1.held = a.1.held) : (l.foldl f a).1.held = a.1.held :=
  foldl_keeps (fun a => a.1.held) f h l a

/-!
## Operations that leave the queue and the memories alone

One `simp` lemma for each operation, in the order of the model's files. Where an operation leaves them alone by computation the
proof is `(rfl)`, not `rfl`: in the parentheses `simp` does not count the lemma as definitional, and so can also use it for the
side conditions of the lemmas on folds and on continuations.
-/

/-! ### Machine/Ops.lean -/

@[simp] theorem held_setRing (s : State) (n : Nat) (r : Ring) : (s.setRing n r).held = s.held := (rfl)

@[simp] theorem held_modRing (s : State) (n : Nat) (f : Ring → Ring) : (s.modRing n f).held = s.held := (rfl)

@[simp] theorem held_setPart (s : State) (p : Nat) (q : Partition) : (s.setPart p q).held = s.held := (rfl)

@[simp] theorem held_modPart (s : State) (p : Nat) (f : Partition → Partition) : (s.modPart p f).held = s.held := (rfl)

@[simp] theorem held_setCore (s : State) (c : Nat) (x : Core) : (s.setCore c x).held = s.held := (rfl)

@[simp] theorem held_modCore (s : State) (c : Nat) (f : Core → Core) : (s.modCore c f).held = s.held := (rfl)

@[simp] theorem held_modHall (s : State) (h : Nat) (f : Hall → Hall) : (s.modHall h f).held = s.held := (rfl)

@[simp] theorem held_setTally (s : State) (t : Nat) (v : Tally) : (s.setTally t v).held = s.held := (rfl)

@[simp] theorem held_setVector (s : State) (v : Nat) (x : Vector) : (s.setVector v x).held = s.held := (rfl)

@[simp] theorem held_modPort (s : State) (q : Nat) (f : Port → Port) : (s.modPort q f).held = s.held := (rfl)

@[simp] theorem held_modLink (s : State) (n : Nat) (f : Link → Link) : (s.modLink n f).held = s.held := (rfl)

@[simp] theorem held_setOwnerBacklog (s : State) (o : Nat) (b : Backlog) : (s.setOwnerBacklog o b).held = s.held := (rfl)

@[simp] theorem held_emit (s : State) (o : Output) : (s.emit o).held = s.held := (rfl)

@[simp] theorem held_fresh (s : State) : (s.fresh).2.held = s.held := by simp [State.fresh]

@[simp] theorem held_setProgram (s : State) (g : Program) : (s.setProgram g).held = s.held := (rfl)

@[simp] theorem held_setWork (s : State) (w : Work) : (s.setWork w).held = s.held := (rfl)

@[simp] theorem held_dropWork (s : State) (id : Nat) : (s.dropWork id).held = s.held := (rfl)

@[simp] theorem held_bump (s : State) (key : Nat) (n : Nat) : (s.bump key n).held = s.held := by simp [State.bump]

@[simp] theorem held_sendHost (o : Output) (s : State) : (sendHost o s).held = s.held :=
  held_of_completions (apartFromCompletions_sendHost o s)

@[simp] theorem held_toHost (addr : Nat) (bytes : Bytes) (poison : Bool) (s : State) :
    (toHost addr bytes poison s).held = s.held := held_of_completions (apartFromCompletions_toHost addr bytes poison s)

@[simp] theorem held_flushHost (s : State) : (flushHost s).held = s.held :=
  held_of_completions (apartFromCompletions_flushHost s)

@[simp] theorem held_fireVector (v : Nat) (s : State) : (fireVector v s).held = s.held :=
  held_of_completions (apartFromCompletions_fireVector v s)

@[simp] theorem held_tellBlock (n : Nat) (s : State) : (tellBlock n s).held = s.held :=
  held_of_completions (apartFromCompletions_tellBlock n s)

@[simp] theorem held_telling (n : Nat) (f : State → State) (s : State) (hf : ∀ s, (f s).held = s.held) :
    (telling n f s).held = s.held := by simp [hf, telling]

@[simp] theorem held_drainEvents (n : Nat) (fuel : Nat) (s : State) : (drainEvents n fuel s).held = s.held :=
  held_of_reports (apartFromReports_drainEvents n fuel s)

@[simp] theorem held_postEvent (o code severity source payload : Nat) (s : State) :
    (postEvent o code severity source payload s).held = s.held :=
  held_of_sending (apartFromSending_postEvent o code severity source payload s)

@[simp] theorem held_drainCpls (n : Nat) (fuel : Nat) (s : State) : (drainCpls n fuel s).held = s.held :=
  held_of_completions (apartFromCompletions_drainCpls n fuel s)

@[simp] theorem held_postFor (rn : Nat) (tag : Word) (status detail result aux : Nat) (counts : Bool) (s : State) :
    (postFor rn tag status detail result aux counts s).held = s.held :=
  held_of_completions (apartFromCompletions_postFor rn tag status detail result aux counts s)

@[simp] theorem held_adoptBacklog (n : Nat) (s : State) : (adoptBacklog n s).held = s.held :=
  held_of_completions (apartFromCompletions_adoptBacklog n s)

@[simp] theorem held_bootWaits (s : State) : (bootWaits s).held = s.held :=
  held_of_completions (apartFromCompletions_bootWaits s)

@[simp] theorem held_closeRings (fuel : Nat) (s : State) : (closeRings fuel s).held = s.held :=
  held_of_completions (apartFromCompletions_closeRings fuel s)

@[simp] theorem held_finish (rn : Nat) (tag : Word) (status detail result aux : Nat) (s : State) :
    (finish rn tag status detail result aux s).held = s.held :=
  held_of_sending (apartFromSending_finish rn tag status detail result aux s)

@[simp] theorem held_interim (rn : Nat) (tag : Word) (detail result aux : Nat) (s : State) :
    (interim rn tag detail result aux s).held = s.held :=
  held_of_reports (apartFromReports_interim rn tag detail result aux s)

@[simp] theorem held_popHead (rn : Nat) (s : State) : (popHead rn s).held = s.held := (rfl)

@[simp] theorem held_holdHead (rn : Nat) (s : State) : (holdHead rn s).held = s.held := (rfl)

@[simp] theorem held_withHead (op rn : Nat) (s : State) (k : Fetched → State → State) (hk : ∀ x s, (k x s).held = s.held) :
    (withHead op rn s k).held = s.held := by unfold withHead; split <;> simp [hk]

/-! ### Machine/Faults.lean -/

@[simp] theorem held_modFlt (s : State) (f : Flt → Flt) : (modFlt s f).held = s.held := (rfl)

@[simp] theorem held_retire (r : Resource) (cause : Nat) (s : State) : (retire r cause s).held = s.held := by simp [retire]

@[simp] theorem held_thresholdCrossed (r : Resource) (cause n t : Nat) (s : State) :
    (thresholdCrossed r cause n t s).held = s.held := by simp [thresholdCrossed]

@[simp] theorem held_corrected (r : Resource) (s : State) : (corrected r s).held = s.held := by simp [corrected]

@[simp] theorem held_uncorrected (r : Resource) (addr owner : Nat) (s : State) :
    (uncorrected r addr owner s).held = s.held := by simp [uncorrected]

@[simp] theorem held_tellerDecides (s : State) : (tellerDecides s).held = s.held := by
  unfold tellerDecides
  refine held_foldl _ _ _ (fun _ _ => ?_)
  dsimp only; split <;> simp

@[simp] theorem held_vaultLineFails (a : Nat) (s : State) : (vaultLineFails a s).held = s.held := by simp [vaultLineFails]

@[simp] theorem held_hbmLineFails (a : Nat) (s : State) : (hbmLineFails a s).held = s.held := by simp [hbmLineFails]

@[simp] theorem held_setReissues (a : HostAccess) (n : Nat) (s : State) : (setReissues a n s).held = s.held := by
  simp [setReissues]

@[simp] theorem held_accessDone (a : HostAccess) (s : State) : (accessDone a s).held = s.held := by simp [accessDone]

@[simp] theorem held_snoopLines (a n : Nat) (s : State) : (snoopLines a n s).held = s.held := by simp [snoopLines]

@[simp] theorem held_passAbortEvent (core part : Nat) (flight : Word) (detail : Nat) (s : State) :
    (passAbortEvent core part flight detail s).held = s.held := by simp [passAbortEvent]

/-! ### Machine/Power.lean -/

@[simp] theorem held_modPwr (s : State) (f : Power → Power) : (modPwr s f).held = s.held := (rfl)

@[simp] theorem held_throttleEvent (source : Nat) (begins : Bool) (cause : Nat) (s : State) :
    (throttleEvent source begins cause s).held = s.held := by simp [throttleEvent]

@[simp] theorem held_estimateEffect (e : PowerEstimate) (s : State) : (estimateEffect e s).held = s.held := by
  simp [estimateEffect]

@[simp] theorem held_calibrateOne (g gain : Nat) (s : State) : (calibrateOne g gain s).held = s.held := by
  simp [calibrateOne]

@[simp] theorem held_calibrationEffect (gain0 gain1 : Nat) (s : State) :
    (calibrationEffect gain0 gain1 s).held = s.held := by simp [calibrationEffect]

@[simp] theorem held_rampGallery (g : Nat) (s : State) : (rampGallery g s).held = s.held := by simp [rampGallery]

@[simp] theorem held_changeStretch (g : Nat) (f : Power → Power) (s : State) : (changeStretch g f s).held = s.held := by
  simp [changeStretch]

@[simp] theorem held_tempStretchEffect (g : Nat) (s : State) : (tempStretchEffect g s).held = s.held := by
  simp [tempStretchEffect]

@[simp] theorem held_currentStretchEffect (g : Nat) (s : State) : (currentStretchEffect g s).held = s.held := by
  simp [currentStretchEffect]

@[simp] theorem held_droopEffect (g : Nat) (s : State) : (droopEffect g s).held = s.held := by simp [droopEffect]

@[simp] theorem held_droopEndEffect (g : Nat) (s : State) : (droopEndEffect g s).held = s.held := by simp [droopEndEffect]

@[simp] theorem held_stretchEndEffect (g : Nat) (current : Bool) (us : Nat) (s : State) :
    (stretchEndEffect g current us s).held = s.held := by simp [stretchEndEffect]

@[simp] theorem held_mintThrottleEffect (s : State) : (mintThrottleEffect s).held = s.held := by simp [mintThrottleEffect]

@[simp] theorem held_stackThrottleEffect (vault : Bool) (n : Nat) (s : State) :
    (stackThrottleEffect vault n s).held = s.held := by simp [stackThrottleEffect]

@[simp] theorem held_throttleEndEffect (unit : Nat) (s : State) : (throttleEndEffect unit s).held = s.held := by
  simp [throttleEndEffect]

@[simp] theorem held_avsWrite (g mv errors : Nat) (s : State) : (avsWrite g mv errors s).1.held = s.held := by
  unfold avsWrite; split <;> simp

@[simp] theorem held_changeVolts (n avs0 avs1 : Nat) (s : State) : (changeVolts n avs0 avs1 s).1.held = s.held := by
  unfold changeVolts; dsimp only; repeat' split
  all_goals simp

@[simp] theorem held_takeState (n : Nat) (found : RiserFindings) (s : State) : (takeState n found s).1.held = s.held := by
  unfold takeState; split <;> simp

@[simp] theorem held_landPower (found : RiserFindings) (s : State) : (landPower found s).held = s.held := by
  simp [landPower]

/-! ### Machine/Treads.lean -/

@[simp] theorem held_chargeCores (cores : List Nat) (cost : Nat) (s : State) :
    (chargeCores cores cost s).held = s.held := by simp [chargeCores]

/-! ### Machine/Transport.lean -/

@[simp] theorem held_modFab (s : State) (f : Fabric → Fabric) : (modFab s f).held = s.held := (rfl)

@[simp] theorem held_setNeighbour (n : Nat) (x : Neighbour) (s : State) : (setNeighbour n x s).held = s.held := (rfl)

@[simp] theorem held_neighbourEvent (n : Nat) (s : State) : (neighbourEvent n s).held = s.held := by simp [neighbourEvent]

@[simp] theorem held_setChannel (q i : Nat) (c : Secy) (s : State) : (setChannel q i c s).held = s.held := (rfl)

@[simp] theorem held_neighbourDown (n : Nat) (s : State) : (neighbourDown n s).held = s.held :=
  held_of_sending (apartFromSending_neighbourDown n s)

@[simp] theorem held_setConn (c : Conn) (s : State) : (setConn c s).held = s.held := (rfl)

@[simp] theorem held_transmitWith (send : Option Nat → Frame → State → State) (c : Conn) (f : Frame) (s : State)
    (hsend : ∀ x y s, (send x y s).held = s.held) :
    (transmitWith send c f s).held = s.held := by
  unfold transmitWith; split
  · simp [hsend]
  · split <;> simp [hsend]

@[simp] theorem held_resendWith (send : Option Nat → Frame → State → State) (id : ConnId) (s : State)
    (hsend : ∀ x y s, (send x y s).held = s.held) :
    (resendWith send id s).held = s.held := by simp [hsend, resendWith]

@[simp] theorem held_moveWith (send : Option Nat → Frame → State → State) (c : Conn) (n : Nat) (s : State)
    (hsend : ∀ x y s, (send x y s).held = s.held) :
    (moveWith send c n s).held = s.held := by simp [hsend, moveWith]

@[simp] theorem held_emitFrame (link : Option Nat) (f : Frame) (s : State) : (emitFrame link f s).held = s.held :=
  held_of_sending (apartFromSending_emitFrame link f s)

@[simp] theorem held_linkLost (n : Nat) (s : State) : (linkLost n s).held = s.held :=
  held_of_sending (apartFromSending_linkLost n s)

@[simp] theorem held_wireSend (n : Nat) (f : Frame) (s : State) : (wireSend n f s).held = s.held :=
  held_of_sending (apartFromSending_wireSend n f s)

@[simp] theorem held_resendAll (id : ConnId) (s : State) : (resendAll id s).held = s.held :=
  held_of_sending (apartFromSending_resendAll id s)

@[simp] theorem held_moveTo (c : Conn) (n : Nat) (s : State) : (moveTo c n s).held = s.held := by simp [moveTo]

@[simp] theorem held_sendPlain (f : Frame) (s : State) : (sendPlain f s).held = s.held :=
  held_of_sending (apartFromSending_sendPlain f s)

@[simp] theorem held_sendReliable (f : Frame) (work : Option Nat) (part : Nat) (s : State) :
    (sendReliable f work part s).held = s.held := held_of_sending (apartFromSending_sendReliable f work part s)

@[simp] theorem held_sendAck (id : ConnId) (s : State) : (sendAck id s).held = s.held :=
  held_of_sending (apartFromSending_sendAck id s)

@[simp] theorem held_takeAck (id : ConnId) (ack : Word) (s : State) : (takeAck id ack s).held = s.held :=
  held_of_sending (apartFromSending_takeAck id ack s)

@[simp] theorem held_countRx (n length : Nat) (s : State) : (countRx n length s).held = s.held := by simp [countRx]

@[simp] theorem held_dropEffect (n : Nat) (f : EthFrame) (s : State) : (dropEffect n f s).held = s.held := by
  unfold dropEffect; split <;> simp

@[simp] theorem held_macReceive (link : Nat) (f : Frame) (s : State) : (macReceive link f s).held = s.held :=
  held_of_sending (apartFromSending_macReceive link f s)

@[simp] theorem held_withFrame (link : Nat) (f : Frame) (s : State) (k : State → State) (hk : ∀ s, (k s).held = s.held) :
    (withFrame link f s k).held = s.held := by simp [hk, withFrame]

@[simp] theorem held_receiveReliable (link : Nat) (f : Frame) (s : State) (k : State → State)
    (hk : ∀ s, (k s).held = s.held) :
    (receiveReliable link f s k).held = s.held := by simp [hk, receiveReliable]

@[simp] theorem held_sendReq (a : Half) (operation : Word) (payload : Bytes) (waiter : Waiter) (part : Nat) (s : State) :
    (sendReq a operation payload waiter part s).held = s.held := by simp [sendReq]

@[simp] theorem held_respond (f : Frame) (status value : Nat) (s : State) : (respond f status value s).held = s.held :=
  held_of_sending (apartFromSending_respond f status value s)

@[simp] theorem held_receiveReq (link : Nat) (f : Frame) (s : State) (k : State → State × Nat × Nat)
    (hk : ∀ s, (k s).1.held = s.held) :
    (receiveReq link f s k).held = s.held := by
  unfold receiveReq
  refine held_receiveReliable _ _ _ _ (fun s => ?_)
  split <;> simp [hk]

/-! ### Machine/Beacons.lean -/

@[simp] theorem held_sendBeaconTo (b : Beacon) (s : State) (a : Half) : (sendBeaconTo b s a).held = s.held :=
  held_of_sending (apartFromSending_sendBeaconTo b s a)

@[simp] theorem held_sendBeacon (b : Beacon) (s : State) : (sendBeacon b s).held = s.held :=
  held_of_sending (apartFromSending_sendBeacon b s)

@[simp] theorem held_haltNow (cause : Nat) (addr : Half) (riser : Nat) (s : State) :
    (haltNow cause addr riser s).held = s.held := by simp [haltNow]

@[simp] theorem held_raiseHalt (cause : Nat) (addr : Half) (s : State) : (raiseHalt cause addr s).held = s.held := by
  simp [raiseHalt]

@[simp] theorem held_poisonFlight (p detail : Nat) (s : State) : (poisonFlight p detail s).held = s.held := (rfl)

@[simp] theorem held_setPoison (p detail : Nat) (s : State) : (setPoison p detail s).held = s.held := by simp [setPoison]

/-! ### Machine/Kv.lean -/

@[simp] theorem held_kvFill (p a n : Nat) (s : State) : (kvFill p a n s).held = s.held := (rfl)

/-! ### Machine/Admission.lean -/

@[simp] theorem held_rejectHead (rn : Nat) (f : Fetched) (r : Reject) (s : State) :
    (rejectHead rn f r s).held = s.held := by simp [rejectHead]

@[simp] theorem held_admitProgram (rn : Nat) (f : Fetched) (s : State) : (admitProgram rn f s).held = s.held := by
  unfold admitProgram; dsimp only; repeat' split
  all_goals simp

/-! ### Machine/Programs.lean -/

@[simp] theorem held_markDone (id i : Nat) (s : State) : (markDone id i s).held = s.held := by
  unfold markDone; split <;> simp

@[simp] theorem held_chargeFree (c : Nat) (g : Program) (s : State) : (chargeFree c g s).held = s.held := by
  simp [chargeFree]

@[simp] theorem held_withRecord (op : Nat) (passed : List Nat) (c : Nat) (s : State)
    (k : Program → Nat → Bytes → State → State) (hk : ∀ x y z s, (k x y z s).held = s.held) :
    (withRecord op passed c s k).held = s.held := by
  unfold withRecord; repeat' split
  all_goals simp [hk]

@[simp] theorem held_setPage (c p : Nat) (x : Page) (s : State) : (setPage c p x s).held = s.held := (rfl)

@[simp] theorem held_freePage (c p : Nat) (s : State) : (freePage c p s).held = s.held := by simp [freePage]

@[simp] theorem held_freshWords (n : Nat) (s : State) : (State.freshWords n s).2.held = s.held := by simp [State.freshWords]

@[simp] theorem held_unwritten (c p : Nat) (ty : PageType) (s : State) : (unwritten c p ty s).held = s.held := by
  simp [unwritten]

@[simp] theorem held_openPage (c p : Nat) (ty : PageType) (s : State) : (openPage c p ty s).held = s.held := by
  simp [openPage]

@[simp] theorem held_setPageState (c p : Nat) (st : PageState) (s : State) : (setPageState c p st s).held = s.held := by
  simp [setPageState]

@[simp] theorem held_promoteInto (c p : Nat) (blocks : Nat → Nat → List BlockVal) (id : Nat) (s : State) :
    (promoteInto c p blocks id s).held = s.held := by unfold promoteInto; dsimp only; split <;> simp

@[simp] theorem held_abortProgram (id i detail c : Nat) (pages : List Nat) (s : State) :
    (abortProgram id i detail c pages s).held = s.held := by unfold abortProgram; split <;> simp

@[simp] theorem held_skipPoisoned (id i : Nat) (s : State) : (skipPoisoned id i s).held = s.held := by
  unfold skipPoisoned; split <;> simp

@[simp] theorem held_readFault (fault : Option PassFault) (s : State) : (readFault fault s).held = s.held := by
  unfold readFault; split <;> simp

@[simp] theorem held_loadEffect (c : Nat) (s : State) : (loadEffect c s).held = s.held := by simp [loadEffect]

@[simp] theorem held_passPromote (g : Program) (c : Nat) (r : Bytes) (t : Tile) (s : State) :
    (passPromote g c r t s).held = s.held := by simp [passPromote]

@[simp] theorem held_withLedger (op : Nat) (c : Nat) (s : State) (k : Program → Nat → Nat → Bytes → State → State)
    (hk : ∀ x y z u s, (k x y z u s).held = s.held) :
    (withLedger op c s k).held = s.held := by simp [hk, withLedger]

@[simp] theorem held_sealEffect (c : Nat) (s : State) : (sealEffect c s).held = s.held := by simp [sealEffect]

@[simp] theorem held_beginFill (h id i : Nat) (s : State) : (beginFill h id i s).held = s.held := by
  unfold beginFill; dsimp only; split <;> simp

@[simp] theorem held_beginFills (h : Nat) (s : State) : (beginFills h s).held = s.held := by simp [beginFills]

@[simp] theorem held_takeTag (h : Nat) (d : Dma) (s : State) : (takeTag h d s).held = s.held := (rfl)

@[simp] theorem held_restoreFillEffect (c p : Nat) (s : State) : (restoreFillEffect c p s).held = s.held := by
  unfold restoreFillEffect; dsimp only; repeat' split
  all_goals simp

@[simp] theorem held_addTally (t : Nat) (v : Word) (s : State) : (addTally t v s).held = s.held := (rfl)

@[simp] theorem held_tallyLocal (r : Bytes) (s : State) : (tallyLocal r s).held = s.held := by
  unfold tallyLocal; split <;> simp

@[simp] theorem held_tallyRecordEffect (c : Nat) (s : State) : (tallyRecordEffect c s).held = s.held := by
  simp [tallyRecordEffect]

@[simp] theorem held_tileNopEffect (h : Nat) (s : State) : (tileNopEffect h s).held = s.held := by
  unfold tileNopEffect; split <;> simp

@[simp] theorem held_bumpFree (key : Nat) (s : State) : (bumpFree key s).held = s.held := by simp [bumpFree]

@[simp] theorem held_endProgram (stays : Half) (g : Program) (s : State) : (endProgram stays g s).held = s.held := by
  simp [endProgram]

@[simp] theorem held_programEndEffect (id : Nat) (stays : Half) (s : State) :
    (programEndEffect id stays s).held = s.held := by unfold programEndEffect; split <;> simp

/-! ### Machine/Vector.lean -/

@[simp] theorem held_retireVec (g : Program) (i h : Nat) (o : VecOut) (s : State) :
    (retireVec g i h o s).held = s.held := by simp [retireVec]

/-! ### Machine/Training.lean -/

@[simp] theorem held_modWatch (p k : Nat) (f : Watch → Watch) (s : State) : (modWatch p k f s).held = s.held := (rfl)

@[simp] theorem held_watchFinal (g : Program) (i c : Nat) (r : Bytes) (s : State) :
    (watchFinal g i c r s).held = s.held := by simp [watchFinal]

@[simp] theorem held_stashEffect (op c : Nat) (s : State) : (stashEffect op c s).held = s.held := by
  unfold stashEffect
  refine held_withRecord _ _ _ _ _ (fun g i r s => ?_)
  repeat' split
  all_goals simp

@[simp] theorem held_dropEntry (p e : Nat) (s : State) : (dropEntry p e s).held = s.held := by simp [dropEntry]

@[simp] theorem held_sdropEffect (c : Nat) (s : State) : (sdropEffect c s).held = s.held := by simp [sdropEffect]

@[simp] theorem held_leaseEffect (c : Nat) (s : State) : (leaseEffect c s).held = s.held := by simp [leaseEffect]

@[simp] theorem held_admitWork (w : Work) (s : State) : (admitWork w s).held = s.held := by simp [admitWork]

@[simp] theorem held_withCarried (op rn : Nat) (hallField : Bytes → Nat) (s : State)
    (k : Fetched → Nat → Nat → State → State) (hk : ∀ x y z s, (k x y z s).held = s.held) :
    (withCarried op rn hallField s k).held = s.held := by
  unfold withCarried; dsimp only; repeat' split
  all_goals simp [hk]

@[simp] theorem held_copyFill (b : Bytes) (s : State) : (copyFill b s).held = s.held := by simp [copyFill]

@[simp] theorem held_copyEffect (rn : Nat) (s : State) : (copyEffect rn s).held = s.held := by
  unfold copyEffect
  refine held_withCarried _ _ _ _ _ (fun f o h s => ?_)
  split <;> simp

@[simp] theorem held_strikeCopyEffect (rn : Nat) (s : State) : (strikeCopyEffect rn s).held = s.held := by
  unfold strikeCopyEffect
  refine held_withCarried _ _ _ _ _ (fun f o h s => ?_)
  dsimp only; repeat' split
  all_goals simp

/-! ### Machine/Usher.lean -/

@[simp] theorem held_routeCounts (b : Bytes) (r : Run) (s : State) : (routeCounts b r s).held = s.held := by
  simp [routeCounts]

@[simp] theorem held_tailSignal (b : Bytes) (s : State) : (tailSignal b s).held = s.held := by simp [tailSignal]

@[simp] theorem held_usherCharge (w : Work) (s : State) : (usherCharge w s).2.held = s.held := by
  unfold usherCharge; split <;> simp

@[simp] theorem held_usherAdmit (op rn : Nat) (s : State) : (usherAdmit op rn s).held = s.held := by
  unfold usherAdmit
  refine held_withCarried _ _ _ _ _ (fun f o h s => ?_)
  split <;> simp

/-! ### Machine/Collectives.lean -/

@[simp] theorem held_sendData (w : Work) (g : Group) (r : Nat) (bs : Bytes) (s : State) :
    (sendData w g r bs s).held = s.held := by simp [sendData]

@[simp] theorem held_sendControl (kind : Nat) (w : Work) (g : Group) (value : Nat → Nat) (s : State) :
    (sendControl kind w g value s).held = s.held := by simp [sendControl]

@[simp] theorem held_finishWork (w : Work) (status detail result aux : Nat) (s : State) :
    (finishWork w status detail result aux s).held = s.held := by simp [finishWork]

@[simp] theorem held_modWork (id : Nat) (f : Work → Work) (s : State) : (modWork id f s).held = s.held := by
  unfold modWork; split <;> simp

@[simp] theorem held_poisonClear (w : Work) (s : State) : (poisonClear w s).held = s.held := by simp [poisonClear]

@[simp] theorem held_sendReadys (w : Work) (s : State) : (sendReadys w s).held = s.held := by simp [sendReadys]

@[simp] theorem held_takeEarly (w : Work) (s : State) : (takeEarly w s).held = s.held := by simp [takeEarly]

@[simp] theorem held_sendReady (w : Work) (s : State) : (sendReady w s).held = s.held := by simp [sendReady]

@[simp] theorem held_beginGather (w : Work) (s : State) : (beginGather w s).held = s.held := by simp [beginGather]

@[simp] theorem held_setQueue (p n : Nat) (x : Queue) (s : State) : (setQueue p n x s).held = s.held := (rfl)

@[simp] theorem held_stall (w : Work) (s : State) : (stall w s).held = s.held := by simp [stall]

@[simp] theorem held_countStall (n : Nat) (s : State) : (countStall n s).held = s.held := by simp [countStall]

@[simp] theorem held_pushStart (w : Work) (x : Queue) (s : State) : (pushStart w x s).held = s.held := by simp [pushStart]

@[simp] theorem held_mismatchEnds (w : Work) (src : Half) (s : State) : (mismatchEnds w src s).held = s.held := by
  simp [mismatchEnds]

@[simp] theorem held_notMine (f : Frame) (digest : Word) (sender receiver : Nat) (s : State) :
    (notMine f digest sender receiver s).held = s.held := by unfold notMine; split <;> simp

@[simp] theorem held_controlIn (count : Bool) (f : Frame) (s : State) : (controlIn count f s).1.held = s.held := by
  unfold controlIn; dsimp only; repeat' split
  all_goals simp

@[simp] theorem held_creditLands (f : Frame) (s : State) : (creditLands f s).held = s.held := by
  unfold creditLands; split <;> simp

/-! ### Machine/Mint.lean -/

@[simp] theorem held_setLayer (p n : Nat) (l : Layer) (s : State) : (setLayer p n l s).held = s.held := (rfl)

@[simp] theorem held_withMint (op rn : Nat) (s : State) (k : Fetched → Nat → State → State)
    (hk : ∀ x y s, (k x y s).held = s.held) :
    (withMint op rn s k).held = s.held := by
  unfold withMint; dsimp only; repeat' split
  all_goals simp [hk]

@[simp] theorem held_layerDefEffect (rn : Nat) (s : State) : (layerDefEffect rn s).held = s.held := by
  unfold layerDefEffect
  refine held_withMint _ _ _ _ (fun f p s => ?_)
  dsimp only; split <;> simp

@[simp] theorem held_layerUndefEffect (rn : Nat) (s : State) : (layerUndefEffect rn s).held = s.held := by
  unfold layerUndefEffect
  refine held_withMint _ _ _ _ (fun f p s => ?_)
  dsimp only; split <;> simp

@[simp] theorem held_sendBody (p n : Nat) (round : Nat) (bs : Bytes) (s : State) :
    (sendBody p n round bs s).held = s.held := by unfold sendBody; split <;> simp

@[simp] theorem held_poisonMint (p n : Nat) (l : Layer) (j : MintJob) (detail : Nat) (s : State) :
    (poisonMint p n l j detail s).held = s.held := by simp [poisonMint]

@[simp] theorem held_runPassA (p n : Nat) (l : Layer) (j : MintJob) (s : State) : (runPassA p n l j s).held = s.held := by
  simp [runPassA]

@[simp] theorem held_postRoundEnd (p n : Nat) (l : Layer) (j : MintJob) (rounds : List Nat) (e : RoundEnd) (s : State) :
    (postRoundEnd p n l j rounds e s).held = s.held := by simp [postRoundEnd]

@[simp] theorem held_runPassB (p n : Nat) (l : Layer) (j : MintJob) (bs : List Bytes) (s : State) :
    (runPassB p n l j bs s).held = s.held := by simp [runPassB]

@[simp] theorem held_mintAdvance (p n : Nat) (fuel : Nat) (s : State) : (mintAdvance p n fuel s).held = s.held := by
  induction fuel generalizing s with
  | zero => rfl
  | succ k ih =>
    unfold mintAdvance; repeat' split
    all_goals simp [ih]

@[simp] theorem held_mintStart (p n : Nat) (s : State) : (mintStart p n s).held = s.held := by
  unfold mintStart; split
  · rfl
  · split <;> simp

@[simp] theorem held_mintRun (s : State) : (mintRun s).held = s.held := by simp [mintRun]

@[simp] theorem held_updateTake (rn : Nat) (s : State) : (updateTake rn s).held = s.held := by
  unfold updateTake
  refine held_withMint _ _ _ _ (fun f p s => ?_)
  dsimp only; repeat' split
  all_goals simp

@[simp] theorem held_strikeTake (rn : Nat) (s : State) : (strikeTake rn s).held = s.held := by
  unfold strikeTake
  refine held_withMint _ _ _ _ (fun f p s => ?_)
  dsimp only; repeat' split
  all_goals simp

@[simp] theorem held_bodyIn (src : Half) (sender : Option Nat) (b : Bytes) (s : State) :
    (bodyIn src sender b s).held = s.held := by
  unfold bodyIn; dsimp only; repeat' split
  all_goals simp

@[simp] theorem held_exchangeLands (f : Frame) (s : State) : (exchangeLands f s).held = s.held := by simp [exchangeLands]

@[simp] theorem held_mintFaultEffect (p n : Nat) (fault : MintFault) (s : State) :
    (mintFaultEffect p n fault s).held = s.held := by
  unfold mintFaultEffect; repeat' split
  all_goals simp

@[simp] theorem held_layerIoEffect (rn : Nat) (s : State) : (layerIoEffect rn s).held = s.held := by
  unfold layerIoEffect
  refine held_withMint _ _ _ _ (fun f p s => ?_)
  dsimp only; split <;> simp

@[simp] theorem held_commitLayer (p n : Nat) (s : State) : (commitLayer p n s).held = s.held := by
  unfold commitLayer; repeat' split
  all_goals simp

@[simp] theorem held_swapLayer (p n : Nat) (s : State) : (swapLayer p n s).1.held = s.held := by
  unfold swapLayer; repeat' split
  all_goals simp

@[simp] theorem held_evictLayer (p n : Nat) (s : State) : (evictLayer p n s).1.held = s.held := by
  unfold evictLayer; split
  · rfl
  · split <;> simp

@[simp] theorem held_dropStale (p n : Nat) (s : State) : (dropStale p n s).held = s.held := by
  unfold dropStale; split <;> simp

@[simp] theorem held_staleBodies (p : Nat) (s : State) : (staleBodies p s).held = s.held := by simp [staleBodies]

@[simp] theorem held_discardMint (p : Nat) (s : State) : (discardMint p s).1.held = s.held := by
  unfold discardMint
  refine held_foldl_fst _ _ _ (fun _ _ => ?_)
  repeat' split
  all_goals simp

/-! ### Machine/Rings.lean -/

@[simp] theorem held_ringError (n cause : Nat) (s : State) : (ringError n cause s).held = s.held := by simp [ringError]

@[simp] theorem held_submissionEffect (offset size : Nat) (p : Word) (s : State) :
    (submissionEffect offset size p s).held = s.held := by
  unfold submissionEffect; split
  · rfl
  · split <;> simp

@[simp] theorem held_consumerEffect (offset size : Nat) (c : Word) (s : State) :
    (consumerEffect offset size c s).held = s.held := by
  unfold consumerEffect; split
  · rfl
  · split <;> simp

@[simp] theorem held_acceptDescriptor (rn : Nat) (b : Bytes) (k : Nat) (s : State) :
    (acceptDescriptor rn b k s).held = s.held := by unfold acceptDescriptor; dsimp only; split <;> simp

@[simp] theorem held_checkTag (rn : Nat) (b : Bytes) (k : Nat) (s : State) : (checkTag rn b k s).held = s.held := by
  unfold checkTag; dsimp only; repeat' split
  all_goals simp

@[simp] theorem held_fetchEntry (rn : Nat) (s : State) : (fetchEntry rn s).held = s.held := by simp [fetchEntry]

@[simp] theorem held_fetchEffect (rn : Nat) (b : Bytes) (s : State) : (fetchEffect rn b s).held = s.held := by
  simp [fetchEffect]

@[simp] theorem held_abortFetched (n detail : Nat) (s : State) : (abortFetched n detail s).1.held = s.held := by
  simp [abortFetched]

@[simp] theorem held_disableRing (n : Nat) (by_ : Option (Nat × Word)) (s : State) :
    (disableRing n by_ s).held = s.held := by simp [disableRing]

@[simp] theorem held_withRingCommand (op rn : Nat) (s : State) (k : Fetched → Nat → State → State)
    (hk : ∀ x y s, (k x y s).held = s.held) :
    (withRingCommand op rn s k).held = s.held := by unfold withRingCommand; split <;> simp [hk]

@[simp] theorem held_ringMove (op rn : Nat) (from_ : RingState) (s : State) (k : Nat → State → State)
    (hk : ∀ x s, (k x s).held = s.held) :
    (ringMove op rn from_ s k).held = s.held := by simp [hk, ringMove]

@[simp] theorem held_ringEnableEffect (rn : Nat) (s : State) : (ringEnableEffect rn s).held = s.held := by
  unfold ringEnableEffect
  refine held_withRingCommand _ _ _ _ (fun f n s => ?_)
  split <;> simp

@[simp] theorem held_resumeRing (n : Nat) (s : State) : (resumeRing n s).held = s.held := by simp [resumeRing]

@[simp] theorem held_ringDisableEffect (rn : Nat) (s : State) : (ringDisableEffect rn s).held = s.held := by
  unfold ringDisableEffect
  refine held_withRingCommand _ _ _ _ (fun f n s => ?_)
  dsimp only; repeat' split
  all_goals simp

@[simp] theorem held_markUnbound (changed : Bool) (s : State) : (markUnbound changed s).held = s.held := by
  simp [markUnbound]

@[simp] theorem held_bootFields (v : Word) (s : State) : (bootFields v s).held = s.held := (rfl)

@[simp] theorem held_bootEnableEffect (v : Word) (s : State) : (bootEnableEffect v s).held = s.held := by
  simp [bootEnableEffect]

@[simp] theorem held_bootDisableEffect (v : Word) (s : State) : (bootDisableEffect v s).held = s.held := by
  simp [bootDisableEffect]

@[simp] theorem held_tallyAdvance (rn : Nat) (seen : Option Word) (s : State) : (tallyAdvance rn seen s).held = s.held :=
  (rfl)

@[simp] theorem held_tallyEnd (rn : Nat) (f : Fetched) (status detail result : Nat) (s : State) :
    (tallyEnd rn f status detail result s).held = s.held := by simp [tallyEnd]

@[simp] theorem held_tallySend (rn : Nat) (f : Fetched) (r : Bytes) (s : State) : (tallySend rn f r s).held = s.held := by
  simp [tallySend]

@[simp] theorem held_runTally (rn : Nat) (fuel : Nat) (s : State) : (runTally rn fuel s).held = s.held := by
  induction fuel generalizing s with
  | zero => rfl
  | succ n ih =>
    unfold runTally; dsimp only; repeat' split
    all_goals simp [ih]

@[simp] theorem held_ringWaitExpires (rn : Nat) (s : State) : (ringWaitExpires rn s).held = s.held := by
  unfold ringWaitExpires; split <;> simp

@[simp] theorem held_coreWaitExpires (c : Nat) (s : State) : (coreWaitExpires c s).held = s.held := by
  simp [coreWaitExpires]

@[simp] theorem held_releaseVector (v : Nat) (s : State) : (releaseVector v s).held = s.held := by simp [releaseVector]

@[simp] theorem held_bar4Write (a : Nat) (v : Word) (s : State) : (bar4Write a v s).held = s.held := by
  unfold bar4Write; split
  · rfl
  · split <;> simp

@[simp] theorem held_msixControlWrite (v : Word) (s : State) : (msixControlWrite v s).held = s.held := by
  simp [msixControlWrite]

@[simp] theorem held_hostUncorrected (owner : Nat) (s : State) : (hostUncorrected owner s).held = s.held := by
  simp [hostUncorrected]

/-! ### Machine/Requests.lean -/

@[simp] theorem held_dropRequest (r : Request) (s : State) : (dropRequest r s).held = s.held := (rfl)

@[simp] theorem held_endWaiter (r : Request) (status detail value : Nat) (s : State) :
    (endWaiter r status detail value s).held = s.held := by
  unfold endWaiter; repeat' split
  all_goals simp

@[simp] theorem held_endRequest (r : Request) (status detail value : Nat) (s : State) :
    (endRequest r status detail value s).held = s.held := by simp [endRequest]

@[simp] theorem held_fenceRequests (p : Nat) (s : State) : (fenceRequests p s).held = s.held := by simp [fenceRequests]

@[simp] theorem held_reissue (s : State) (r : Request) : (reissue s r).held = s.held := by simp [reissue]

@[simp] theorem held_reissueAll (p : Nat) (s : State) : (reissueAll p s).held = s.held := by simp [reissueAll]

/-! ### Machine/Fabric.lean -/

@[simp] theorem held_fabCfgWrite (v : Word) (s : State) : (fabCfgWrite v s).held = s.held := by simp [fabCfgWrite]

@[simp] theorem held_routeWrite (a : Nat) (w : Nat) (v : Word) (s : State) : (routeWrite a w v s).held = s.held := by
  unfold routeWrite; split <;> simp

@[simp] theorem held_failConn (id : ConnId) (s : State) : (failConn id s).held = s.held := by
  unfold failConn; dsimp only; split
  all_goals
    simp only [held_raiseHalt, held_postEvent]
    refine (held_foldl _ _ _ (fun _ _ => ?_)).trans (by simp)
    split <;> simp

@[simp] theorem held_fabricDown (n : Nat) (s : State) : (fabricDown n s).held = s.held := by simp [fabricDown]

@[simp] theorem held_resendOn (id : ConnId) (l : List Nat) (s : State) : (resendOn id l s).held = s.held := by
  unfold resendOn; dsimp only; repeat' split
  all_goals simp

@[simp] theorem held_resendEffect (id : ConnId) (s : State) : (resendEffect id s).held = s.held := by
  unfold resendEffect; split
  · simp
  · split <;> simp

@[simp] theorem held_ackEffect (id : ConnId) (ack : Word) (s : State) : (ackEffect id ack s).held = s.held := by
  unfold ackEffect; split
  · simp
  · split <;> simp

@[simp] theorem held_peerBooted (a : Half) (epoch : Word) (s : State) : (peerBooted a epoch s).held = s.held := by
  simp [peerBooted]

@[simp] theorem held_helloEffect (n : Nat) (a : Half) (mac : BitVec 48) (peerLink : Nat) (epoch : Word) (s : State) :
    (helloEffect n a mac peerLink epoch s).held = s.held := by unfold helloEffect; split <;> simp

@[simp] theorem held_remoteAdd (b : Bytes) (s : State) : (remoteAdd b s).1.held = s.held := by
  unfold remoteAdd; dsimp only; split <;> simp

@[simp] theorem held_respLands (f : Frame) (s : State) : (respLands f s).held = s.held := by
  unfold respLands; split <;> simp

@[simp] theorem held_relayEffect (n : Nat) (f : Frame) (s : State) : (relayEffect n f s).held = s.held := by
  unfold relayEffect; dsimp only; repeat' split
  all_goals simp

/-! ### Machine/Firmware.lean -/

@[simp] theorem held_modFw (s : State) (f : Firmware → Firmware) : (modFw s f).held = s.held := (rfl)

@[simp] theorem held_setSlot (n : Nat) (x : FwSlot) (s : State) : (setSlot n x s).held = s.held := (rfl)

@[simp] theorem held_moveSlot (n : Nat) (st : SlotState) (s : State) : (moveSlot n st s).held = s.held := (rfl)

@[simp] theorem held_completeActivation (b : Bytes) (s : State) : (completeActivation b s).held = s.held := (rfl)

@[simp] theorem held_fwLoadEffect (rn : Nat) (image : Bytes) (s : State) : (fwLoadEffect rn image s).held = s.held := by
  unfold fwLoadEffect; split <;> simp

@[simp] theorem held_endLoad (n rn : Nat) (tag : Word) (reason : Nat) (s : State) :
    (endLoad n rn tag reason s).held = s.held := by simp [endLoad]

@[simp] theorem held_imageCheckedEffect (n : Nat) (writeOk sigOk : Bool) (s : State) :
    (imageCheckedEffect n writeOk sigOk s).held = s.held := by unfold imageCheckedEffect; split <;> simp

@[simp] theorem held_startActivation (n : Nat) (cold : Bool) (rn : Nat) (tag : Word) (s : State) :
    (startActivation n cold rn tag s).1.held = s.held := by unfold startActivation; split <;> simp

@[simp] theorem held_activations (due : Setting → Bool) (s : State) : (activations due s).1.held = s.held := by
  unfold activations
  refine held_foldl_fst _ _ _ (fun _ _ => ?_)
  repeat' split
  all_goals simp

@[simp] theorem held_handoverReadyEffect (s : State) : (handoverReadyEffect s).held = s.held := by
  unfold handoverReadyEffect; repeat' split
  all_goals simp

@[simp] theorem held_handoverTimeoutEffect (s : State) : (handoverTimeoutEffect s).held = s.held := by
  unfold handoverTimeoutEffect; split <;> simp

@[simp] theorem held_tellerDownEnds (s : State) : (tellerDownEnds s).held = s.held := by
  unfold tellerDownEnds; dsimp only; rw [held_foldl _ _ _ (fun _ _ => by split <;> simp)]; simp

@[simp] theorem held_watchdogEffect (s : State) : (watchdogEffect s).held = s.held := by simp [watchdogEffect]

@[simp] theorem held_fwQuoteEffect (rn : Nat) (s : State) : (fwQuoteEffect rn s).held = s.held := by
  unfold fwQuoteEffect; split
  · rfl
  · split <;> simp

@[simp] theorem held_batchCloseEffect (s : State) : (batchCloseEffect s).held = s.held := by simp [batchCloseEffect]

@[simp] theorem held_keyEvents (next : Nat) (s : State) : (keyEvents next s).held = s.held := by simp [keyEvents]

/-! ### Machine/Mac.lean -/

@[simp] theorem held_restLink (n : Nat) (remote : Bool) (s : State) : (restLink n remote s).held = s.held := by
  simp [restLink]

@[simp] theorem held_linkFalls (n cause : Nat) (s : State) : (linkFalls n cause s).held = s.held := by simp [linkFalls]

@[simp] theorem held_retireLane (lane : Nat) (s : State) : (retireLane lane s).held = s.held := by simp [retireLane]

@[simp] theorem held_settleOptics (s : State) : (settleOptics s).held = s.held := by simp [settleOptics]

@[simp] theorem held_linkUpEffect (n : Nat) (s : State) : (linkUpEffect n s).held = s.held := by simp [linkUpEffect]

@[simp] theorem held_lossEvents (n cause : Nat) (lane : Option Nat) (s : State) :
    (lossEvents n cause lane s).held = s.held := by unfold lossEvents; split <;> simp

@[simp] theorem held_linkDownEffect (n cause : Nat) (lane : Option Nat) (s : State) :
    (linkDownEffect n cause lane s).held = s.held := by simp [linkDownEffect]

@[simp] theorem held_fecEffect (n cor unc : Nat) (symbols : List Nat) (powers : List (Half × Half)) (remote : Bool)
    (s : State) :
    (fecEffect n cor unc symbols powers remote s).held = s.held := by simp [fecEffect]

@[simp] theorem held_opticsOffEffect (e : Nat) (temp : Half) (s : State) : (opticsOffEffect e temp s).held = s.held := by
  simp [opticsOffEffect]

@[simp] theorem held_opticsOnEffect (e : Nat) (temp : Half) (s : State) : (opticsOnEffect e temp s).held = s.held := by
  simp [opticsOnEffect]

@[simp] theorem held_resumePriorities (n : Nat) (ps : List Nat) (s : State) : (resumePriorities n ps s).held = s.held := by
  simp [resumePriorities]

@[simp] theorem held_stopPriorities (n : Nat) (ps : List Nat) (s : State) : (stopPriorities n ps s).held = s.held := (rfl)

@[simp] theorem held_pauseEffect (n : Nat) (quanta : Half) (s : State) : (pauseEffect n quanta s).held = s.held := by
  simp [pauseEffect]

@[simp] theorem held_pfcEffect (n : Nat) (enable : Byte) (quanta : List Half) (s : State) :
    (pfcEffect n enable quanta s).held = s.held := by simp [pfcEffect]

@[simp] theorem held_sendPause (quanta : Half) (s : State) (n : Nat) : (sendPause quanta s n).held = s.held := by
  simp [sendPause]

@[simp] theorem held_bufferEffect (q occupancy : Nat) (s : State) : (bufferEffect q occupancy s).held = s.held := by
  simp [bufferEffect]

@[simp] theorem held_stormEffect (n p : Nat) (s : State) : (stormEffect n p s).held = s.held := by simp [stormEffect]

@[simp] theorem held_setEnable (q : Nat) (v : Bool) (s : State) : (setEnable q v s).held = s.held := by simp [setEnable]

@[simp] theorem held_portCtlWrite (q : Nat) (v : Word) (s : State) : (portCtlWrite q v s).held = s.held := by
  simp [portCtlWrite]

@[simp] theorem held_portBlockWrite (q off : Nat) (v : Word) (s : State) : (portBlockWrite q off v s).held = s.held := by
  unfold portBlockWrite; split <;> simp

@[simp] theorem held_linkCfgWrite (k : Nat) (v : Word) (s : State) : (linkCfgWrite k v s).held = s.held := by
  simp [linkCfgWrite]

@[simp] theorem held_checkSecured (q : Nat) (s : State) : (checkSecured q s).held = s.held := by simp [checkSecured]

@[simp] theorem held_secWrite (q i w : Nat) (v : Word) (s : State) : (secWrite q i w v s).held = s.held := by
  simp [secWrite]

@[simp] theorem held_wakeWrite (v : Word) (s : State) : (wakeWrite v s).held = s.held := by simp [wakeWrite]

/-! ### Machine/HostAttach.lean -/

@[simp] theorem held_modHost (s : State) (f : HostLink → HostLink) : (modHost s f).held = s.held := (rfl)

@[simp] theorem held_widthEvent (m old : Nat) (s : State) : (widthEvent m old s).held = s.held := by simp [widthEvent]

@[simp] theorem held_settleHalves (s : State) : (settleHalves s).held = s.held := by simp [settleHalves]

@[simp] theorem held_settleRetired (s : State) : (settleRetired s).held = s.held := by simp [settleRetired]

@[simp] theorem held_laneTests (m : Nat) (pass0 pass1 : Bool) (s : State) : (laneTests m pass0 pass1 s).held = s.held := by
  simp [laneTests]

@[simp] theorem held_trainModule (m old : Nat) (pass0 pass1 : Bool) (s : State) :
    (trainModule m old pass0 pass1 s).held = s.held := by simp [trainModule]

@[simp] theorem held_retrainEvents (m : Nat) (lanes0 lanes1 : Bool) (s : State) :
    (retrainEvents m lanes0 lanes1 s).held = s.held := by simp [retrainEvents]

@[simp] theorem held_retrainEffect (m replays : Nat) (linkError lanes0 lanes1 : Bool) (s : State) :
    (retrainEffect m replays linkError lanes0 lanes1 s).held = s.held := by simp [retrainEffect]

@[simp] theorem held_retrainEndEffect (m : Nat) (pass0 pass1 : Bool) (s : State) :
    (retrainEndEffect m pass0 pass1 s).held = s.held := by unfold retrainEndEffect; split <;> simp

/-! ### Machine/Sequences.lean -/

@[simp] theorem held_setSeq (p n : Nat) (x : SeqSlot) (s : State) : (setSeq p n x s).held = s.held := (rfl)

@[simp] theorem held_parkSlot (p n cause : Nat) (s : State) : (parkSlot p n cause s).1.held = s.held := by
  unfold parkSlot; dsimp only; repeat' split
  all_goals simp

@[simp] theorem held_stepPrios (p : Nat) (due : List Setting) (s : State) : (stepPrios p due s).1.held = s.held := by
  unfold stepPrios
  refine held_foldl_fst _ _ _ (fun _ _ => ?_)
  split <;> simp

@[simp] theorem held_stepLeaves (p : Nat) (due : List Setting) (s : State) : (stepLeaves p due s).1.held = s.held := by
  simp [stepLeaves]

@[simp] theorem held_stepParks (p : Nat) (due : List Setting) (s : State) : (stepParks p due s).1.held = s.held := by
  unfold stepParks
  refine held_foldl_fst _ _ _ (fun a x => ?_)
  have h := held_parkSlot p x.1 2 a.1
  split <;> simp_all

@[simp] theorem held_stepReserve (p fuel pmax : Nat) (s : State) : (stepReserve p fuel pmax s).1.held = s.held := by
  induction fuel generalizing pmax s with
  | zero => rfl
  | succ k ih =>
    unfold stepReserve; dsimp only; repeat' split
    all_goals simp [ih]

@[simp] theorem held_landFills (p : Nat) (s : State) : (landFills p s).held = s.held := (rfl)

@[simp] theorem held_parkEndEffect (n : Nat) (s : State) : (parkEndEffect n s).held = s.held := by simp [parkEndEffect]

@[simp] theorem held_zeroEndEffect (p pg : Nat) (s : State) : (zeroEndEffect p pg s).held = s.held := by
  simp [zeroEndEffect]

/-! ### Machine/Settings.lean -/

@[simp] theorem held_replaceSetting (s : State) (x : Setting) : (replaceSetting s x).held = s.held := by
  simp [replaceSetting]

@[simp] theorem held_pendSettings (rn : Nat) (f : Fetched) (kinds : List (Nat × SettingKind)) (s : State) :
    (pendSettings rn f kinds s).held = s.held := by unfold pendSettings; dsimp only; split <;> simp

@[simp] theorem held_withSetting (op rn : Nat) (s : State) (k : Fetched → Nat → State → State)
    (hk : ∀ x y s, (k x y s).held = s.held) :
    (withSetting op rn s k).held = s.held := by unfold withSetting; split <;> simp [hk]

@[simp] theorem held_flightPlanEffect (rn : Nat) (s : State) : (flightPlanEffect rn s).held = s.held := by
  simp [flightPlanEffect]

@[simp] theorem held_stwSetEffect (rn : Nat) (s : State) : (stwSetEffect rn s).held = s.held := by
  unfold stwSetEffect
  refine held_withSetting _ _ _ _ (fun f _ s => ?_)
  repeat' split
  all_goals simp

@[simp] theorem held_fwActivateEffect (rn : Nat) (s : State) : (fwActivateEffect rn s).held = s.held := by
  unfold fwActivateEffect
  refine held_withSetting _ _ _ _ (fun f _ s => ?_)
  repeat' split
  all_goals simp

@[simp] theorem held_freezeSetEffect (rn : Nat) (s : State) : (freezeSetEffect rn s).held = s.held := by
  unfold freezeSetEffect
  refine held_withSetting _ _ _ _ (fun f p s => ?_)
  dsimp only; split <;> simp

@[simp] theorem held_evictEffect (rn : Nat) (s : State) : (evictEffect rn s).held = s.held := by simp [evictEffect]

@[simp] theorem held_seqEffect (op rn : Nat) (kind : Bytes → SettingKind) (s : State) :
    (seqEffect op rn kind s).held = s.held := by
  unfold seqEffect
  refine held_withSetting _ _ _ _ (fun f p s => ?_)
  dsimp only; repeat' split
  all_goals simp

@[simp] theorem held_turnSetEffect (rn : Nat) (s : State) : (turnSetEffect rn s).held = s.held := by simp [turnSetEffect]

@[simp] theorem held_partPreemptEffect (rn : Nat) (s : State) : (partPreemptEffect rn s).held = s.held := by
  unfold partPreemptEffect
  refine held_withSetting _ _ _ _ (fun f _ s => ?_)
  dsimp only; split <;> simp

/-! ### Machine/Partitions.lean -/

@[simp] theorem held_partEvent (p number severity payload : Nat) (s : State) :
    (partEvent p number severity payload s).held = s.held := by simp [partEvent]

@[simp] theorem held_moveState (p : Nat) (st : PartState) (s : State) : (moveState p st s).held = s.held := by
  simp [moveState]

@[simp] theorem held_rememberCmd (p op rn : Nat) (tag : Word) (s : State) : (rememberCmd p op rn tag s).held = s.held :=
  (rfl)

@[simp] theorem held_endCmds (p op status detail result : Nat) (s : State) :
    (endCmds p op status detail result s).held = s.held := by simp [endCmds]

@[simp] theorem held_withPartCmd (op rn : Nat) (legal : PartState → Bool) (s : State) (k : Fetched → Nat → State → State)
    (hk : ∀ x y s, (k x y s).held = s.held) :
    (withPartCmd op rn legal s k).held = s.held := by
  unfold withPartCmd; dsimp only; repeat' split
  all_goals simp [hk]

@[simp] theorem held_clearTallies (r : PartRecord) (s : State) : (clearTallies r s).held = s.held := (rfl)

@[simp] theorem held_endLive (status detail : Nat) (s : State) (n : Nat) : (endLive status detail s n).held = s.held := by
  simp [endLive]

@[simp] theorem held_disableShare (p : Nat) (s : State) : (disableShare p s).held = s.held := by simp [disableShare]

@[simp] theorem held_partConfigEffect (rn : Nat) (b : Bytes) (s : State) : (partConfigEffect rn b s).held = s.held := by
  unfold partConfigEffect; dsimp only; repeat' split
  all_goals simp

@[simp] theorem held_partStartEffect (rn : Nat) (s : State) : (partStartEffect rn s).held = s.held := by
  simp [partStartEffect]

@[simp] theorem held_partStopEffect (rn : Nat) (s : State) : (partStopEffect rn s).held = s.held := by simp [partStopEffect]

@[simp] theorem held_announceHold (riser : Nat) (s : State) : (announceHold riser s).held = s.held := by simp [announceHold]

@[simp] theorem held_partEvictEffect (rn : Nat) (s : State) : (partEvictEffect rn s).held = s.held := by
  simp [partEvictEffect]

@[simp] theorem held_partResumeEffect (rn : Nat) (s : State) : (partResumeEffect rn s).held = s.held := by
  unfold partResumeEffect
  refine held_withPartCmd _ _ _ _ _ (fun f p s => ?_)
  split <;> simp

@[simp] theorem held_dropWorkOf (p status detail : Nat) (s : State) : (dropWorkOf p status detail s).held = s.held := by
  simp [dropWorkOf]

@[simp] theorem held_endAllCmds (p status detail : Nat) (s : State) : (endAllCmds p status detail s).held = s.held := by
  simp [endAllCmds]

@[simp] theorem held_faultPartition (p cause : Nat) (s : State) : (faultPartition p cause s).held = s.held := by
  simp [faultPartition]

@[simp] theorem held_contextFault (s : State) (p : PartNo) : (contextFault s p).held = s.held := by
  unfold contextFault; split <;> simp

@[simp] theorem held_partReleaseEffect (rn : Nat) (s : State) : (partReleaseEffect rn s).held = s.held := by
  unfold partReleaseEffect
  refine held_withPartCmd _ _ _ _ _ (fun f p s => ?_)
  refine (held_foldl _ _ _ (fun _ _ => ?_)).trans (by simp)
  split <;> simp

@[simp] theorem held_saveStartEffect (p : Nat) (s : State) : (saveStartEffect p s).held = s.held := by
  simp [saveStartEffect]

@[simp] theorem held_requestFenceEffect (p : Nat) (s : State) : (requestFenceEffect p s).held = s.held := by
  simp [requestFenceEffect]

@[simp] theorem held_reloadEndEffect (c : Nat) (ok : Bool) (s : State) : (reloadEndEffect c ok s).held = s.held := by
  unfold reloadEndEffect; split
  · rfl
  · split
    · simp
    · split
      · rfl
      · dsimp only
        rw [held_faultPartition, held_foldl _ _ _ (fun _ _ => by repeat' split; all_goals simp)]

@[simp] theorem held_mapSetEffect (rn : Nat) (s : State) : (mapSetEffect rn s).held = s.held := by
  unfold mapSetEffect
  refine held_withPartCmd _ _ _ _ _ (fun f p s => ?_)
  dsimp only; repeat' split
  all_goals simp

/-! ### Machine/PowerReset.lean -/

@[simp] theorem held_modDev (s : State) (f : Dev → Dev) : (modDev s f).held = s.held := (rfl)

@[simp] theorem held_loseTail (s : State) : (loseTail s).held = s.held := by simp [loseTail]

@[simp] theorem held_forcedEffect (s : State) : (forcedEffect s).held = s.held := by unfold forcedEffect; split <;> simp

@[simp] theorem held_bootFault (code : Nat) (s : State) : (bootFault code s).held = s.held := (rfl)

@[simp] theorem held_keyStep (s : State) : (keyStep s).held = s.held := (rfl)

@[simp] theorem held_runSlot (n : Nat) (s : State) : (runSlot n s).held = s.held := by simp [runSlot]

@[simp] theorem held_slotStep (found : BootFindings) (s : State) : (slotStep found s).held = s.held := by simp [slotStep]

@[simp] theorem held_recordStep (s : State) : (recordStep s).held = s.held := by simp [recordStep]

@[simp] theorem held_portStep (s : State) : (portStep s).held = s.held := (rfl)

@[simp] theorem held_trainMemory (type : Nat) (failed : List Nat) (s : State) :
    (trainMemory type failed s).held = s.held := by simp [trainMemory]

@[simp] theorem held_readyStep (s : State) : (readyStep s).held = s.held := by unfold readyStep; split <;> simp

@[simp] theorem held_shutdownRequest (s : State) : (shutdownRequest s).held = s.held := by simp [shutdownRequest]

@[simp] theorem held_lasersOff (s : State) : (lasersOff s).held = s.held := by simp [lasersOff]

@[simp] theorem held_tripEffect (c : TripCause) (s : State) : (tripEffect c s).held = s.held := by simp [tripEffect]

@[simp] theorem held_porterMatch (l : List Bool) (s : State) : (porterMatch l s).held = s.held := by simp [porterMatch]

@[simp] theorem held_porterEffect (q : Nat) (lit : Bool) (us : Nat) (s : State) :
    (porterEffect q lit us s).held = s.held := by
  unfold porterEffect; dsimp only; repeat' split
  all_goals simp

/-! ### Machine/Flags.lean -/

@[simp] theorem held_harvestKey (key : Nat) (s : State) : (harvestKey key s).held = s.held := by simp [harvestKey]

/-! ### Machine/Registers.lean -/

@[simp] theorem held_rsvCheck (mask : Nat) (v : Word) (s : State) : (rsvCheck mask v s).held = s.held := by simp [rsvCheck]

@[simp] theorem held_modRegs (s : State) (f : Regs → Regs) : (modRegs s f).held = s.held := (rfl)

@[simp] theorem held_mintWrite (a : Nat) (v : Word) (s : State) : (mintWrite a v s).held = s.held := by
  unfold mintWrite; split
  · simp
  · split <;> simp

@[simp] theorem held_portWrite (a : Nat) (v : Word) (s : State) : (portWrite a v s).held = s.held := by simp [portWrite]

@[simp] theorem held_fabricWrite (a : Nat) (v : Word) (s : State) : (fabricWrite a v s).held = s.held := by
  simp [fabricWrite]

@[simp] theorem held_indirectWrite (space a : Nat) (v : Word) (s : State) : (indirectWrite space a v s).held = s.held := by
  unfold indirectWrite; split <;> simp

@[simp] theorem held_iaSelWriteEffect (v : Word) (s : State) : (iaSelWriteEffect v s).held = s.held := by
  simp [iaSelWriteEffect]

@[simp] theorem held_iaDone (ok : Bool) (s : State) : (iaDone ok s).held = s.held := (rfl)

@[simp] theorem held_iaReadEffect (s : State) : (iaReadEffect s).held = s.held := by simp [iaReadEffect]

@[simp] theorem held_iaWriteEffect (v : Word) (s : State) : (iaWriteEffect v s).held = s.held := by simp [iaWriteEffect]

@[simp] theorem held_baseWrite (i : Nat) (v : Word) (s : State) : (baseWrite i v s).held = s.held := by simp [baseWrite]

@[simp] theorem held_bootCtlWrite (v : Word) (s : State) : (bootCtlWrite v s).held = s.held := by simp [bootCtlWrite]

@[simp] theorem held_fabAddrWrite (v : Word) (s : State) : (fabAddrWrite v s).held = s.held := by simp [fabAddrWrite]

@[simp] theorem held_hstCtlWrite (v : Word) (s : State) : (hstCtlWrite v s).held = s.held := by simp [hstCtlWrite]

@[simp] theorem held_bar4Access (a size : Nat) (v : Word) (s : State) : (bar4Access a size v s).held = s.held := by
  simp [bar4Access]

@[simp] theorem held_bar0Read (a size : Nat) (s : State) : (bar0Read a size s).held = s.held := by simp [bar0Read]

@[simp] theorem held_sidebandEffect (addr : Nat) (write : Option Word) (s : State) :
    (sidebandEffect addr write s).held = s.held := by
  unfold sidebandEffect; split
  · rfl
  · split <;> simp

/-! ### Machine/Landing.lean -/

@[simp] theorem held_dropSettings (l : List Setting) (s : State) : (dropSettings l s).held = s.held := (rfl)

@[simp] theorem held_returnExtents (p : Nat) (s : State) : (returnExtents p s).held = s.held := (rfl)

@[simp] theorem held_stepCommit (p : Nat) (s : State) : (stepCommit p s).held = s.held := by simp [stepCommit]

@[simp] theorem held_stepSwap (p : Nat) (due : List Setting) (s : State) : (stepSwap p due s).1.held = s.held := by
  unfold stepSwap; dsimp only
  refine (held_foldl_fst _ _ _ (fun _ _ => ?_)).trans (by simp)
  split <;> simp

@[simp] theorem held_applyStash (p : Nat) (x : Setting) (hbm vault fb : Nat) (s : State) :
    (applyStash p x hbm vault fb s).1.held = s.held := by unfold applyStash; dsimp only; split <;> simp

@[simp] theorem held_applyFreeze (p : Nat) (x : Setting) (n : Nat) (frozen load clear : Bool) (mask : List Nat)
    (s : State) :
    (applyFreeze p x n frozen load clear mask s).1.held = s.held := by unfold applyFreeze; split <;> simp

@[simp] theorem held_applyTurn (p : Nat) (x : Setting) (select : Nat) (shares : List Nat) (strict : Nat) (s : State) :
    (applyTurn p x select shares strict s).1.held = s.held := by unfold applyTurn; split <;> simp

@[simp] theorem held_applySetting (p : Nat) (a : State × List Done) (x : Setting) :
    (applySetting p a x).1.held = a.1.held := by unfold applySetting; split <;> simp

@[simp] theorem held_stepEpochs (p : Nat) (due : List Setting) (s : State) : (stepEpochs p due s).held = s.held := (rfl)

@[simp] theorem held_landPages (q : Partition) (s : State) : (landPages q s).held = s.held := by
  unfold landPages
  refine held_foldl _ _ _ (fun _ _ => ?_)
  split <;> simp

@[simp] theorem held_landState (p : Nat) (s : State) : (landState p s).held = s.held := by simp [landState]

@[simp] theorem held_stepPreempt (p : Nat) (due : List Setting) (s : State) : (stepPreempt p due s).1.held = s.held := by
  unfold stepPreempt
  refine held_foldl_fst _ _ _ (fun _ _ => ?_)
  dsimp only; repeat' split
  all_goals simp

@[simp] theorem held_reloadCore (q : Partition) (c : Nat) (s : State) : (reloadCore q c s).held = s.held := by
  simp [reloadCore]

@[simp] theorem held_reloadCores (q : Partition) (s : State) : (reloadCores q s).held = s.held := by
  unfold reloadCores
  refine held_foldl _ _ _ (fun _ _ => ?_)
  split <;> simp

@[simp] theorem held_poisonClears (p : Nat) (s : State) : (poisonClears p s).held = s.held := by simp [poisonClears]

@[simp] theorem held_clearFlight (p : Nat) (f : Flight) (broken : Option Nat) (s : State) :
    (clearFlight p f broken s).held = s.held := by simp [clearFlight]

@[simp] theorem held_postFlight (f : Flight) (broken : Option Nat) (s : State) : (postFlight f broken s).held = s.held := by
  simp [postFlight]

@[simp] theorem held_beginFlight (p : Nat) (g : Plan) (s : State) : (beginFlight p g s).1.held = s.held := by
  simp [beginFlight]

@[simp] theorem held_takePlan (entries : Reports) (a : State × List Done) (p : Nat) :
    (takePlan entries a p).1.held = a.1.held := by
  unfold takePlan; dsimp only; repeat' split
  all_goals simp

@[simp] theorem held_applyDevice (a : State × List Done) (x : Setting) : (applyDevice a x).1.held = a.1.held := by
  unfold applyDevice; split <;> simp

@[simp] theorem held_landDevice (found : RiserFindings) (s : State) : (landDevice found s).1.held = s.held := by
  simp [landDevice]

@[simp] theorem held_applyStairwell (a : State × List Done) (x : Setting) : (applyStairwell a x).1.held = a.1.held := by
  unfold applyStairwell; split <;> simp

@[simp] theorem held_applyLeaderPending (s : State) : (applyLeaderPending s).held = s.held := by simp [applyLeaderPending]

@[simp] theorem held_landStairwell (s : State) : (landStairwell s).1.held = s.held := by simp [landStairwell]

@[simp] theorem held_landAll (device : Bool) (found : RiserFindings) (s : State) :
    (landAll device found s).1.held = s.held := by
  unfold landAll; split
  · rfl
  · split <;> simp

@[simp] theorem held_postDones (l : List Done) (s : State) : (postDones l s).held = s.held := by simp [postDones]

/-! ### Machine/Riser.lean -/

@[simp] theorem held_tickClock (s : State) : (tickClock s).held = s.held := by simp [tickClock]

@[simp] theorem held_setRun (n : Nat) (s : State) : (setRun n s).held = s.held := (rfl)

@[simp] theorem held_leaveHalt (s : State) : (leaveHalt s).held = s.held := by simp [leaveHalt]

@[simp] theorem held_haltHere (cause : Nat) (addr : Half) (s : State) : (haltHere cause addr s).held = s.held := by
  simp [haltHere]

@[simp] theorem held_riserKind (s : State) : (riserKind s).1.held = s.held := by
  unfold riserKind; repeat' split
  all_goals simp

@[simp] theorem held_setKind (k : TreadKind) (s : State) : (setKind k s).held = s.held := (rfl)

@[simp] theorem held_countKind (s : State) : (countKind s).held = s.held := by unfold countKind; split <;> simp

@[simp] theorem held_advanceFlights (ended : TreadKind) (s : State) : (advanceFlights ended s).held = s.held := by
  simp [advanceFlights]

@[simp] theorem held_countTreads (k : TreadKind) (s : State) : (countTreads k s).held = s.held := by simp [countTreads]

@[simp] theorem held_takeCommands (s : State) (p : Nat) : (takeCommands s p).held = s.held := by simp [takeCommands]

@[simp] theorem held_stepStop (s : State) (p : Nat) : (stepStop s p).held = s.held := by simp [stepStop]

@[simp] theorem held_failLate (n : Word) (code : Nat) (s : State) (rn : Nat) : (failLate n code s rn).held = s.held := by
  simp [failLate]

@[simp] theorem held_expireHead (n : Word) (s : State) (rn : Nat) : (expireHead n s rn).held = s.held := (rfl)

@[simp] theorem held_failUnmatched (p : Nat) (n : Word) (code : Nat) (s : State) :
    (failUnmatched p n code s).held = s.held := by simp [failUnmatched]

@[simp] theorem held_landingEnds (p : Nat) (n : Word) (s : State) : (landingEnds p n s).held = s.held := by
  simp [landingEnds]

@[simp] theorem held_countWaits (s : State) : (countWaits s).held = s.held := by simp [countWaits]

@[simp] theorem held_newTread (s : State) : (newTread s).held = s.held := by simp [newTread]

@[simp] theorem held_clearEnded (s : State) (e : Nat × Option Flight × FlightEnd) : (clearEnded s e).held = s.held := by
  unfold clearEnded; split <;> simp

@[simp] theorem held_postEnded (s : State) (e : Nat × Option Flight × FlightEnd) : (postEnded s e).held = s.held := by
  unfold postEnded; split <;> simp

@[simp] theorem held_mintLate (s : State) (r : Nat × Nat × Nat) : (mintLate s r).held = s.held := by
  unfold mintLate; split
  · split <;> simp
  · rfl

@[simp] theorem held_seqLate (s : State) (r : Nat × Nat × Nat) : (seqLate s r).held = s.held := by simp [seqLate]

@[simp] theorem held_announceSlip (c : SlipCause) (s : State) : (announceSlip c s).held = s.held := by simp [announceSlip]

@[simp] theorem held_announceHolds (us : Nat) (s : State) : (announceHolds us s).held = s.held := by simp [announceHolds]

@[simp] theorem held_noteStalls (l : List Progress) (s : State) : (noteStalls l s).held = s.held := (rfl)

@[simp] theorem held_budgetEffect (us : Nat) (l : List Progress) (s : State) : (budgetEffect us l s).held = s.held := by
  simp [budgetEffect]

/-! ### Machine/Stairwell.lean -/

@[simp] theorem held_modStw (s : State) (f : Stw → Stw) : (modStw s f).held = s.held := (rfl)

@[simp] theorem held_withStwCmd (op rn : Nat) (legal : StwState → Bool) (s : State) (k : Fetched → State → State)
    (hk : ∀ x s, (k x s).held = s.held) :
    (withStwCmd op rn legal s k).held = s.held := by unfold withStwCmd; split <;> simp [hk]

@[simp] theorem held_stwFormEffect (rn : Nat) (entries : List Half) (s : State) :
    (stwFormEffect rn entries s).held = s.held := by unfold stwFormEffect; split <;> simp

@[simp] theorem held_formationEffect (s : State) : (formationEffect s).held = s.held := by
  unfold formationEffect; split <;> simp

@[simp] theorem held_formationEnds (detail : Nat) (s : State) : (formationEnds detail s).held = s.held := by
  unfold formationEnds; split <;> simp

@[simp] theorem held_leaveStairwell (s : State) : (leaveStairwell s).held = s.held := (rfl)

@[simp] theorem held_decideResume (s : State) : (decideResume s).1.held = s.held := by
  unfold decideResume; repeat' split
  all_goals simp

@[simp] theorem held_stwResumeEffect (rn : Nat) (s : State) : (stwResumeEffect rn s).held = s.held := by
  simp [stwResumeEffect]

@[simp] theorem held_riserBeaconSendEffect (s : State) : (riserBeaconSendEffect s).held = s.held := by
  simp [riserBeaconSendEffect]

@[simp] theorem held_withBeacon (kind : Nat) (link : Nat) (f : Frame) (s : State) (k : Beacon → State → State)
    (hk : ∀ x s, (k x s).held = s.held) :
    (withBeacon kind link f s k).held = s.held := by simp [hk, withBeacon]

@[simp] theorem held_noteMember (a : Half) (b : Beacon) (s : State) : (noteMember a b s).held = s.held := by
  simp [noteMember]

@[simp] theorem held_stepCounter (b : Beacon) (s : State) : (stepCounter b s).held = s.held := by simp [stepCounter]

@[simp] theorem held_slewCounter (count : Nat) (s : State) : (slewCounter count s).held = s.held := by simp [slewCounter]

@[simp] theorem held_leaderBeacon (b : Beacon) (count : Nat) (s : State) : (leaderBeacon b count s).held = s.held := by
  simp [leaderBeacon]

@[simp] theorem held_poisonSet (riser : Nat) (s : State) (e : SetEntry) : (poisonSet riser s e).held = s.held := (rfl)

@[simp] theorem held_notePoison (src : Half) (b : Beacon) (s : State) : (notePoison src b s).held = s.held := (rfl)

@[simp] theorem held_riserBeaconEffect (link : Nat) (f : Frame) (count : Nat) (s : State) :
    (riserBeaconEffect link f count s).held = s.held := by simp [riserBeaconEffect]

@[simp] theorem held_lateBeacon (src : Half) (s : State) : (lateBeacon src s).held = s.held := by simp [lateBeacon]

@[simp] theorem held_refAt (stamp : Nat) (s : State) : (refAt stamp s).held = s.held := (rfl)

/-! ## Changes of the memories -/

/-- Every memory is in canonical form. -/
def Held.canonical (h : Held) : Prop := h.hbm.wf = true ∧ h.vault.wf = true ∧ h.pads.wf = true ∧ h.bufs.wf = true

/-- From h to k the queue has not changed, and canonical memories have stayed canonical. -/
def Held.Evolves (h k : Held) : Prop := k.queue = h.queue ∧ (h.canonical → k.canonical)

/-- What a command may do to the queue and the memories, said of what the states hold. -/
theorem evolves_iff_held (s t : State) : Evolves s t ↔ s.held.Evolves t.held := by
  unfold Evolves
  rw [memoriesWf_iff, memoriesWf_iff]
  exact Iff.rfl

@[simp] theorem Held.Evolves.refl (o : Held) : o.Evolves o := ⟨rfl, id⟩

theorem Held.Evolves.trans {o k l : Held} (hk : o.Evolves k) (kl : k.Evolves l) : o.Evolves l :=
  ⟨kl.1.trans hk.1, fun c => kl.2 (hk.2 c)⟩

/-- A choice evolves where both sides do. -/
@[simp] theorem Held.evolves_ite (o : Held) (c : Prop) [Decidable c] (k l : Held) :
    o.Evolves (if c then k else l) ↔ if c then o.Evolves k else o.Evolves l := by
  split <;> rfl

section
variable {o : Held} {s : State} {m : Memory} (ho : o.Evolves s.held)
include ho

theorem Held.Evolves.hbm_set (hm : s.hbm.wf = true → m.wf = true) :
    o.Evolves ⟨s.pending, m, s.vault, s.pads, s.bufs⟩ := ho.trans ⟨rfl, fun c => ⟨hm c.1, c.2⟩⟩

theorem Held.Evolves.vault_set (hm : s.vault.wf = true → m.wf = true) :
    o.Evolves ⟨s.pending, s.hbm, m, s.pads, s.bufs⟩ := ho.trans ⟨rfl, fun c => ⟨c.1, hm c.2.1, c.2.2⟩⟩

theorem Held.Evolves.pads_set (hm : s.pads.wf = true → m.wf = true) :
    o.Evolves ⟨s.pending, s.hbm, s.vault, m, s.bufs⟩ := ho.trans ⟨rfl, fun c => ⟨c.1, c.2.1, hm c.2.2.1, c.2.2.2⟩⟩

theorem Held.Evolves.bufs_set (hm : s.bufs.wf = true → m.wf = true) :
    o.Evolves ⟨s.pending, s.hbm, s.vault, s.pads, m⟩ := ho.trans ⟨rfl, fun c => ⟨c.1, c.2.1, c.2.2.1, hm c.2.2.2⟩⟩

end

/-- A fold of steps that each may be taken may be taken. -/
theorem evolves_foldl {β : Type} {o : Held} (f : State → β → State) (l : List β) (s : State)
    (hf : ∀ s b, o.Evolves s.held → o.Evolves (f s b).held) (ho : o.Evolves s.held) : o.Evolves (l.foldl f s).held :=
  List.foldlRecOn (motive := fun s => o.Evolves s.held) l f ho (fun s hs b _ => hf s b hs)

theorem evolves_foldl_fst {α β : Type} {o : Held} (f : State × α → β → State × α) (l : List β) (a : State × α)
    (hf : ∀ a b, o.Evolves a.1.held → o.Evolves (f a b).1.held) (ha : o.Evolves a.1.held) :
    o.Evolves (l.foldl f a).1.held :=
  List.foldlRecOn (motive := fun a => o.Evolves a.1.held) l f ha (fun a ha b _ => hf a b ha)

/-! ### Memories written through folds -/

/-- A fold of steps that each keep the canonical form keeps it. -/
theorem Memory.wf_foldl {β : Type} (f : Memory → β → Memory) (hf : ∀ m b, m.wf = true → (f m b).wf = true) (l : List β)
    (m : Memory) (hm : m.wf = true) : Memory.wf (l.foldl f m) = true :=
  List.foldlRecOn (motive := fun m => m.wf = true) l f hm (fun m hm b _ => hf m b hm)

theorem restoreCells_wf (m cells : Memory) (hm : m.wf = true) : (restoreCells m cells).wf = true :=
  Memory.wf_foldl_set cells Prod.fst m hm

theorem applyWrites_wf (m : Memory) (b : Nat) (ws : List VWrite) (hm : m.wf = true) : (applyWrites m b ws).wf = true :=
  Memory.wf_foldl _ (fun _ _ => Memory.wf_write _ _ _) ws m hm

theorem saveCore_wf (p : Nat) (flight : Word) (b : Nat) (m : Memory) (e : Nat × Core) (hm : m.wf = true) :
    (saveCore p flight b m e).wf = true := by
  unfold saveCore
  extract_lets k core used saved fed
  have hsaved : saved.wf = true := Memory.wf_foldl _ (fun m x hm => Memory.wf_write _ _ _ (Memory.wf_write _ _ _ hm)) _ m hm
  have hfed : fed.wf = true := by
    unfold fed; split
    · exact hsaved
    · exact Memory.wf_fill _ _ _ _ hsaved
  split
  · exact hfed
  · exact Memory.wf_fill _ _ _ _ hfed

theorem saveHall_wf (b : Nat) (m : Memory) (e : Nat × Hall) (hm : m.wf = true) : (saveHall b m e).wf = true := by
  unfold saveHall; split
  · exact hm
  · exact Memory.wf_fill _ _ _ _ hm

theorem saveWing_wf (p : Nat) (s : State) (m : Memory) (x : Nat × Nat) (hm : m.wf = true) :
    (saveWing p s m x).wf = true := by
  refine Memory.wf_foldl _ (fun m e => saveHall_wf _ m e) _ _ (Memory.wf_foldl _ (fun m e => saveCore_wf _ _ _ m e) _ _ ?_)
  exact Memory.wf_paste _ _ _ _ (Memory.wf_paste _ _ _ _ (Memory.wf_zero _ _ _ hm))

/-! ### Combinators -/

section
variable {o : Held}

theorem evolves_withRecord (op : Nat) (passed : List Nat) (c : Nat) (s : State) (k : Program → Nat → Bytes → State → State)
    (hk : ∀ g i r s, o.Evolves s.held → o.Evolves (k g i r s).held) (ho : o.Evolves s.held) :
    o.Evolves (withRecord op passed c s k).held := by
  unfold withRecord; split
  · exact ho
  · split
    · exact ho
    · split
      · exact ho
      · exact hk _ _ _ _ ho

theorem evolves_withLedger (op : Nat) (c : Nat) (s : State) (k : Program → Nat → Nat → Bytes → State → State)
    (hk : ∀ g i p r s, o.Evolves s.held → o.Evolves (k g i p r s).held) (ho : o.Evolves s.held) :
    o.Evolves (withLedger op c s k).held := by
  refine evolves_withRecord _ _ _ _ _ (fun g i r s ho => ?_) ho
  dsimp only; split
  · exact ho
  · split
    · simpa using ho
    · exact hk _ _ _ _ _ (by simpa using ho)

theorem evolves_withHallOp (op c : Nat) (s : State) (k : Program → Nat → Bytes → State → State)
    (hk : ∀ g i r s, o.Evolves s.held → o.Evolves (k g i r s).held) (ho : o.Evolves s.held) :
    o.Evolves (withHallOp op c s k).held := by
  unfold withHallOp; split
  · exact ho
  · split
    · exact ho
    · split
      · exact hk _ _ _ _ ho
      · exact ho

theorem evolves_withFrame (link : Nat) (f : Frame) (s : State) (k : State → State)
    (hk : ∀ s, o.Evolves s.held → o.Evolves (k s).held) (ho : o.Evolves s.held) :
    o.Evolves (withFrame link f s k).held := by
  unfold withFrame; dsimp only; split
  · simpa using ho
  · split
    · simpa using ho
    · split
      · exact hk _ (by simpa using ho)
      · simpa using ho

theorem evolves_receiveReliable (link : Nat) (f : Frame) (s : State) (k : State → State)
    (hk : ∀ s, o.Evolves s.held → o.Evolves (k s).held) (ho : o.Evolves s.held) :
    o.Evolves (receiveReliable link f s k).held := by
  refine evolves_withFrame _ _ _ _ (fun s ho => ?_) ho
  dsimp only; split
  · exact hk _ (by simpa using ho)
  · split <;> simpa using ho

end

/-! ## Operations that move data -/

/-! ### Machine/Faults.lean -/

@[simp] theorem evolves_hbmWrite (a : Nat) (bs : Bytes) (s : State) {o : Held} (ho : o.Evolves s.held) :
    o.Evolves (hbmWrite a bs s).held :=
  Held.Evolves.hbm_set (s := snoopLines a bs.length s) (by simpa using ho) (Memory.wf_write _ _ _)

@[simp] theorem evolves_hbmWrites (ws : List (Nat × Bytes)) (s : State) {o : Held} (ho : o.Evolves s.held) :
    o.Evolves (ws.foldl (fun s w => hbmWrite w.1 w.2 s) s).held :=
  evolves_foldl _ _ _ (fun _ _ ho => evolves_hbmWrite _ _ _ ho) ho

@[simp] theorem evolves_padWrite (core a : Nat) (bs : Bytes) (s : State) {o : Held} (ho : o.Evolves s.held) :
    o.Evolves (padWrite core a bs s).held := ho.pads_set (Memory.wf_write _ _ _)

/-! ### Machine/Programs.lean -/

@[simp] theorem evolves_checkpoint (part c p : Nat) (flight : Word) (s : State) {o : Held} (ho : o.Evolves s.held) :
    o.Evolves (checkpoint part c p flight s).held := by simp [checkpoint, ho]

@[simp] theorem evolves_passPage (g : Program) (c : Nat) (r : Bytes) (s : State) {o : Held} (ho : o.Evolves s.held) :
    o.Evolves (passPage g c r s).held := by simp [passPage, ho]

@[simp] theorem evolves_passRun (g : Program) (i : Nat) (r : Bytes) (c : Nat) (run : ArrayRun) (t : Tile) (s : State)
    {o : Held} (ho : o.Evolves s.held) :
    o.Evolves (passRun g i r c run t s).held := by simp [passRun, ho]

@[simp] theorem evolves_passEffect (c : Nat) (run : ArrayRun) (fault : Option PassFault) (s : State) {o : Held}
    (ho : o.Evolves s.held) :
    o.Evolves (passEffect c run fault s).held := by
  unfold passEffect
  refine evolves_withRecord _ _ _ _ _ (fun g i r s ho => ?_) ho
  split <;> simp [ho]

@[simp] theorem evolves_freeEffect (c : Nat) (s : State) {o : Held} (ho : o.Evolves s.held) :
    o.Evolves (freeEffect c s).held := by
  unfold freeEffect
  refine evolves_withRecord _ _ _ _ _ (fun g i r s ho => ?_) ho
  dsimp only; split <;> simp [ho]

@[simp] theorem evolves_drainEffect (c : Nat) (s : State) {o : Held} (ho : o.Evolves s.held) :
    o.Evolves (drainEffect c s).held := by
  unfold drainEffect
  refine evolves_withRecord _ _ _ _ _ (fun g i r s ho => ?_) ho
  dsimp only; split <;> simp [ho]

@[simp] theorem evolves_spillEffect (c : Nat) (s : State) {o : Held} (ho : o.Evolves s.held) :
    o.Evolves (spillEffect c s).held := by
  unfold spillEffect
  refine evolves_withLedger _ _ _ _ (fun g i p r s ho => ?_) ho
  dsimp only; split <;> simp [ho]

@[simp] theorem evolves_restoreEffect (c : Nat) (s : State) {o : Held} (ho : o.Evolves s.held) :
    o.Evolves (restoreEffect c s).held := by
  unfold restoreEffect
  refine evolves_withRecord _ _ _ _ _ (fun g i r s ho => ?_) ho
  dsimp only; split <;> simp [ho]

@[simp] theorem evolves_pageAddEffect (c : Nat) (s : State) {o : Held} (ho : o.Evolves s.held) :
    o.Evolves (pageAddEffect c s).held := by
  unfold pageAddEffect
  refine evolves_withLedger _ _ _ _ (fun g i p r s ho => ?_) ho
  dsimp only; repeat' split
  all_goals simp [ho]

@[simp] theorem evolves_spillWriteEffect (h tag : Nat) (s : State) {o : Held} (ho : o.Evolves s.held) :
    o.Evolves (spillWriteEffect h tag s).held := by unfold spillWriteEffect; split <;> simp [ho]

/-! ### Machine/Vector.lean -/

@[simp] theorem evolves_drainFillEffect (h n : Nat) (s : State) {o : Held} (ho : o.Evolves s.held) :
    o.Evolves (drainFillEffect h n s).held := by
  have hb : o.Evolves (beginFills h s).held := by simpa using ho
  unfold drainFillEffect; dsimp only; split
  · exact hb
  · split
    · exact hb
    · have hw := fun b bs => hb.bufs_set (Memory.wf_write _ b bs)
      simp [hw]

@[simp] theorem evolves_applyPad (c : Nat) (ws : List (Nat × Bytes)) (s : State) {o : Held} (ho : o.Evolves s.held) :
    o.Evolves (applyPad c ws s).held := by
  unfold applyPad
  refine evolves_foldl _ _ _ (fun _ _ ho => ?_) ho
  simp [ho]

@[simp] theorem evolves_vecEffect (op h : Nat) (s : State) {o : Held} (ho : o.Evolves s.held) :
    o.Evolves (vecEffect op h s).held := by
  refine evolves_withHallOp _ _ _ _ (fun g i r s ho => ?_) ho
  dsimp only; split
  · simpa using ho
  · split
    · simpa using ho.bufs_set (Memory.wf_write _ _ _)
    · rw [held_retireVec]
      exact evolves_applyPad _ _ _ (ho.bufs_set (applyWrites_wf _ _ _))

@[simp] theorem evolves_thinEffect (h : Nat) (s : State) {o : Held} (ho : o.Evolves s.held) :
    o.Evolves (thinEffect h s).held := by
  refine evolves_withHallOp _ _ _ _ (fun g i r s ho => ?_) ho
  dsimp only; split
  · simpa using ho
  · rw [held_beginFills, held_bump, held_setProgram]
    exact ho.bufs_set (Memory.wf_write _ _ _)

/-! ### Machine/Training.lean -/

@[simp] theorem evolves_xposeEffect (c : Nat) (s : State) {o : Held} (ho : o.Evolves s.held) :
    o.Evolves (xposeEffect c s).held := by
  refine evolves_withRecord _ _ _ _ _ (fun g i r s ho => ?_) ho
  dsimp only; split
  · exact ho
  · split
    · simpa using ho
    · rw [held_bump, held_setProgram]
      exact evolves_foldl _ _ _ (fun s x ho => by simp [ho]) ho

@[simp] theorem evolves_watchFold (g : Program) (i c : Nat) (r : Bytes) (s : State) {o : Held} (ho : o.Evolves s.held) :
    o.Evolves (watchFold g i c r s).held := by unfold watchFold; dsimp only; split <;> simp [ho]

@[simp] theorem evolves_watchEffect (c : Nat) (s : State) {o : Held} (ho : o.Evolves s.held) :
    o.Evolves (watchEffect c s).held := by
  unfold watchEffect
  refine evolves_withRecord _ _ _ _ _ (fun g i r s ho => ?_) ho
  split <;> simp [ho]

@[simp] theorem evolves_stashMoves (id i : Nat) (s : State) {o : Held} (ho : o.Evolves s.held) :
    o.Evolves (stashMoves id i s).held := by
  unfold stashMoves; split
  · exact ho
  · split <;> simp [ho]

@[simp] theorem evolves_copyIntoHbm (a n : Nat) (m : Memory) (bad : List (Nat × Nat)) (s : State) {o : Held}
    (ho : o.Evolves s.held) :
    o.Evolves (copyIntoHbm a n m bad s).held :=
  Held.Evolves.hbm_set (s := snoopLines a n s) (by simpa using ho) (Memory.wf_paste _ _ _ _)

@[simp] theorem evolves_copyInto (space c a n : Nat) (m : Memory) (bad : List (Nat × Nat)) (s : State) {o : Held}
    (ho : o.Evolves s.held) :
    o.Evolves (copyInto space c a n m bad s).held := by
  unfold copyInto; split
  · split
    · exact evolves_foldl _ _ _ (fun s p ho => by simp [ho]) ho
    · simp [ho]
  · exact ho.vault_set (Memory.wf_paste _ _ _ _)
  · simpa using ho
  · exact ho.pads_set (Memory.wf_paste _ _ _ _)

@[simp] theorem evolves_copyMoves (w : Work) (hostData : Bytes) (lost : Bool) (s : State) {o : Held}
    (ho : o.Evolves s.held) :
    o.Evolves (copyMoves w hostData lost s).held := by simp [copyMoves, ho]

@[simp] theorem evolves_strikeCopyMoves (w : Work) (s : State) {o : Held} (ho : o.Evolves s.held) :
    o.Evolves (strikeCopyMoves w s).held := by unfold strikeCopyMoves; dsimp only; split <;> simp [ho]

@[simp] theorem evolves_dmaEndEffect (h tag : Nat) (hostData : Bytes) (lost : Bool) (s : State) {o : Held}
    (ho : o.Evolves s.held) :
    o.Evolves (dmaEndEffect h tag hostData lost s).held := by
  unfold dmaEndEffect; repeat' split
  all_goals simp [ho]

/-! ### Machine/Usher.lean -/

@[simp] theorem evolves_usherStart (g : Nat) (s : State) {o : Held} (ho : o.Evolves s.held) :
    o.Evolves (usherStart g s).held := by
  unfold usherStart; split
  · exact ho
  · dsimp only; split
    · exact ho
    · simp [ho]

@[simp] theorem evolves_ushersGo (op rn : Nat) (s : State) {o : Held} (ho : o.Evolves s.held) :
    o.Evolves (ushersGo op rn s).held := by
  unfold ushersGo
  refine evolves_foldl _ _ _ (fun _ _ ho => ?_) ho
  split <;> simp [ho]

@[simp] theorem evolves_usherEffect (op rn : Nat) (s : State) {o : Held} (ho : o.Evolves s.held) :
    o.Evolves (usherEffect op rn s).held := by simp [usherEffect, ho]

@[simp] theorem evolves_usherLastEffect (g : Nat) (s : State) {o : Held} (ho : o.Evolves s.held) :
    o.Evolves (usherLastEffect g s).held := by
  unfold usherLastEffect; split
  · exact ho
  · split <;> simp [ho]

/-! ### Machine/Collectives.lean -/

@[simp] theorem evolves_reduceOwn (w : Work) (s : State) {o : Held} (ho : o.Evolves s.held) :
    o.Evolves (reduceOwn w s).held := by simp [reduceOwn, ho]

@[simp] theorem evolves_clearStart (w : Work) (s : State) {o : Held} (ho : o.Evolves s.held) :
    o.Evolves (clearStart w s).held := by
  unfold clearStart; dsimp only; repeat' split
  all_goals simp [ho]

@[simp] theorem evolves_a2aSecond (w : Work) (s : State) {o : Held} (ho : o.Evolves s.held) :
    o.Evolves (a2aSecond w s).held := by simp [a2aSecond, ho]

@[simp] theorem evolves_clearStep (w : Work) (s : State) {o : Held} (ho : o.Evolves s.held) :
    o.Evolves (clearStep w s).held := by simp [clearStep, ho]

@[simp] theorem evolves_popStart (w : Work) (x : Queue) (len : Nat) (s : State) {o : Held} (ho : o.Evolves s.held) :
    o.Evolves (popStart w x len s).held := by simp [popStart, ho]

@[simp] theorem evolves_queueStep (w : Work) (s : State) {o : Held} (ho : o.Evolves s.held) :
    o.Evolves (queueStep w s).held := by
  unfold queueStep; repeat' split
  all_goals simp [ho]

@[simp] theorem evolves_clearSweep (s : State) {o : Held} (ho : o.Evolves s.held) : o.Evolves (clearSweep s).held := by
  unfold clearSweep
  refine evolves_foldl _ _ _ (fun _ _ ho => ?_) ho
  split <;> simp [ho]

@[simp] theorem evolves_advanceClears (fuel : Nat) (s : State) {o : Held} (ho : o.Evolves s.held) :
    o.Evolves (advanceClears fuel s).held := by
  induction fuel generalizing s with
  | zero => exact ho
  | succ k ih => simp [advanceClears, ih, ho]

@[simp] theorem evolves_clearsRun (s : State) {o : Held} (ho : o.Evolves s.held) : o.Evolves (clearsRun s).held := by
  simp [clearsRun, ho]

@[simp] theorem evolves_clearEffect (op rn : Nat) (s : State) {o : Held} (ho : o.Evolves s.held) :
    o.Evolves (clearEffect op rn s).held := by simp [clearEffect, ho]

@[simp] theorem evolves_dataLands (f : Frame) (s : State) {o : Held} (ho : o.Evolves s.held) :
    o.Evolves (dataLands f s).held := by
  unfold dataLands; repeat' split
  all_goals simp [ho]

@[simp] theorem evolves_queueLands (f : Frame) (s : State) {o : Held} (ho : o.Evolves s.held) :
    o.Evolves (queueLands f s).held := by unfold queueLands; split <;> simp [ho]

/-! ### Machine/Mint.lean -/

@[simp] theorem evolves_tallyWakes (s : State) {o : Held} (ho : o.Evolves s.held) : o.Evolves (tallyWakes s).held := by
  simp [tallyWakes, ho]

@[simp] theorem evolves_stagedEffect (p n : Nat) (s : State) {o : Held} (ho : o.Evolves s.held) :
    o.Evolves (stagedEffect p n s).held := by
  unfold stagedEffect; split
  · exact ho
  · split
    · exact ho
    · split
      · exact ho
      · dsimp only; split
        · simpa using ho
        · simp [ho]

@[simp] theorem evolves_layerIoMoves (w : Work) (hostData : Bytes) (s : State) {o : Held} (ho : o.Evolves s.held) :
    o.Evolves (layerIoMoves w hostData s).held := by unfold layerIoMoves; dsimp only; split <;> simp [ho]

@[simp] theorem evolves_layerIoEndEffect (rn : Nat) (hostData : Bytes) (s : State) {o : Held} (ho : o.Evolves s.held) :
    o.Evolves (layerIoEndEffect rn hostData s).held := by unfold layerIoEndEffect; split <;> simp [ho]

/-! ### Machine/Rings.lean -/

@[simp] theorem evolves_accessFails (a : HostAccess) (s : State) {o : Held} (ho : o.Evolves s.held) :
    o.Evolves (accessFails a s).held := by
  unfold accessFails; split
  · exact ho
  · split <;> simp [ho]

@[simp] theorem evolves_accessTimesOut (a : HostAccess) (s : State) {o : Held} (ho : o.Evolves s.held) :
    o.Evolves (accessTimesOut a s).held := by simp [accessTimesOut, ho]

/-! ### Machine/Firmware.lean -/

@[simp] theorem evolves_releaseQuote (leaf : Nat) (q : Quote) (bs : Bytes) (s : State) {o : Held} (ho : o.Evolves s.held) :
    o.Evolves (releaseQuote leaf q bs s).held := by simp [releaseQuote, ho]

@[simp] theorem evolves_signBatch (writeOk : Bool) (s : State) {o : Held} (ho : o.Evolves s.held) :
    o.Evolves (signBatch writeOk s).held := by
  unfold signBatch; split
  · exact ho
  · simpa using ho
  · dsimp only; split
    · simpa using ho
    · split
      · simpa using ho
      · rw [held_keyEvents]
        exact evolves_foldl _ _ _ (fun s x ho => evolves_releaseQuote _ _ _ _ ho) (by simpa using ho)

/-! ### Machine/HostAttach.lean -/

@[simp] theorem evolves_hostLineWrite (a : Nat) (bs : Bytes) (s : State) {o : Held} (ho : o.Evolves s.held) :
    o.Evolves (hostLineWrite a bs s).held := by simp [hostLineWrite, ho]

@[simp] theorem evolves_hdmEffect (addr : Nat) (write : Option Bytes) (s : State) {o : Held} (ho : o.Evolves s.held) :
    o.Evolves (hdmEffect addr write s).held := by
  unfold hdmEffect; repeat' split
  all_goals simp [ho]

/-! ### Machine/Sequences.lean -/

@[simp] theorem evolves_zeroPage (p pg : Nat) (s : State) {o : Held} (ho : o.Evolves s.held) :
    o.Evolves (zeroPage p pg s).held :=
  Held.Evolves.hbm_set (s := snoopLines (poolAddr (s.part p) pg) 65536 s) (by simpa using ho) (Memory.wf_zero _ _ _)

@[simp] theorem evolves_grantStream (p n j : Nat) (s : State) {o : Held} (ho : o.Evolves s.held) :
    o.Evolves (grantStream p n j s).held := by
  unfold grantStream; dsimp only; rw [held_setSeq]
  exact evolves_foldl _ _ _ (fun s pg ho => evolves_zeroPage p pg s ho) ho

@[simp] theorem evolves_grantSlot (p n : Nat) (s : State) {o : Held} (ho : o.Evolves s.held) :
    o.Evolves (grantSlot p n s).held := by
  unfold grantSlot
  refine evolves_foldl _ _ _ (fun _ _ ho => ?_) ho
  simp [ho]

@[simp] theorem evolves_unparkBytes (p n : Nat) (s : State) {o : Held} (ho : o.Evolves s.held) :
    o.Evolves (unparkBytes p n s).held := by
  unfold unparkBytes; dsimp only; rw [held_setSeq]
  refine evolves_foldl _ _ _ (fun s w ho => ?_) ho
  exact Held.Evolves.hbm_set (s := snoopLines (poolAddr _ w.2.2) 65536 s) (by simpa using ho) (Memory.wf_paste _ _ _ _)

@[simp] theorem evolves_stepRenew (p : Nat) (s : State) {o : Held} (ho : o.Evolves s.held) :
    o.Evolves (stepRenew p s).held := by
  unfold stepRenew
  refine evolves_foldl _ _ _ (fun _ _ ho => ?_) ho
  simp [ho]

@[simp] theorem evolves_grantJoin (p n : Nat) (s : State) {o : Held} (ho : o.Evolves s.held) :
    o.Evolves (grantJoin p n s).held := by
  refine evolves_foldl _ _ _ (fun s j ho => ?_) ho
  rw [held_setSeq]
  exact evolves_foldl _ _ _ (fun s pg ho => evolves_zeroPage p pg s ho) ho

@[simp] theorem evolves_stepJoin (p pmax : Nat) (a : State × List Done) (q : Nat × Setting × Bool) {o : Held}
    (ho : o.Evolves a.1.held) :
    o.Evolves (stepJoin p pmax a q).1.held := by
  unfold stepJoin; dsimp only; repeat' split
  all_goals simp [ho]

@[simp] theorem evolves_seqStep4 (p : Nat) (due : List Setting) (s : State) {o : Held} (ho : o.Evolves s.held) :
    o.Evolves (seqStep4 p due s).1.held := by
  unfold seqStep4; dsimp only; rw [held_landFills]
  exact evolves_foldl_fst _ _ _ (fun a q ho => evolves_stepJoin _ _ a q ho) (evolves_stepRenew _ _ (by simpa using ho))

@[simp] theorem evolves_seqBroken (p : Nat) (s : State) {o : Held} (ho : o.Evolves s.held) :
    o.Evolves (seqBroken p s).held := by
  refine evolves_foldl _ _ _ (fun s e ho => evolves_foldl _ _ _ (fun s j ho => ?_) ho) ho
  rw [held_setSeq]
  refine evolves_foldl _ _ _ (fun s x ho => ?_) ho
  dsimp only; split
  · rw [held_modPart]
    exact Held.Evolves.hbm_set (s := snoopLines _ _ s) (by simpa using ho) (Memory.wf_zero _ _ _)
  · exact ho

/-! ### Machine/Partitions.lean -/

@[simp] theorem evolves_zeroWings (q : Partition) (s : State) {o : Held} (ho : o.Evolves s.held) :
    o.Evolves (zeroWings q s).held :=
  ho.trans ⟨rfl, fun ⟨hh, hv, hp, hb⟩ => ⟨hh, hv, Memory.wf_filter _ _ hp, Memory.wf_filter _ _ hb⟩⟩

@[simp] theorem evolves_zeroShares (q : Partition) (s : State) {o : Held} (ho : o.Evolves s.held) :
    o.Evolves (zeroShares q s).held := by
  have hs : o.Evolves (snoopLines (hbmShare q).1 (hbmShare q).2 s).held := by simpa using ho
  unfold zeroShares; dsimp only; rw [held_clearTallies]
  exact hs.trans ⟨rfl, fun ⟨hh, hv, hp, hb⟩ => ⟨Memory.wf_zero _ _ _ hh, Memory.wf_zero _ _ _ hv, hp, hb⟩⟩

@[simp] theorem evolves_scrubDoneEffect (p : Nat) (ok : Bool) (s : State) {o : Held} (ho : o.Evolves s.held) :
    o.Evolves (scrubDoneEffect p ok s).held := by simp [scrubDoneEffect, ho]

@[simp] theorem evolves_writeSave (p : Nat) (s : State) {o : Held} (ho : o.Evolves s.held) :
    o.Evolves (writeSave p s).held := by
  have hs : o.Evolves (snoopLines (s.part p).record.save (wingImageBytes * (wingsOf (s.part p)).length) s).held := by
    simpa using ho
  exact hs.hbm_set (Memory.wf_foldl _ (fun m x => saveWing_wf _ _ m x) _ _)

@[simp] theorem evolves_partSavedEffect (p : Nat) (ok : Bool) (s : State) {o : Held} (ho : o.Evolves s.held) :
    o.Evolves (partSavedEffect p ok s).held := by simp [partSavedEffect, ho]

@[simp] theorem evolves_returnWings (p : Nat) (s : State) {o : Held} (ho : o.Evolves s.held) :
    o.Evolves (returnWings p s).held :=
  ho.trans ⟨rfl, fun ⟨hh, hv, hp, hb⟩ => ⟨hh, hv, restoreCells_wf _ _ hp, restoreCells_wf _ _ hb⟩⟩

@[simp] theorem evolves_restoreEndEffect (p : Nat) (ok : Bool) (s : State) {o : Held} (ho : o.Evolves s.held) :
    o.Evolves (restoreEndEffect p ok s).held := by simp [restoreEndEffect, ho]

/-! ### Machine/PowerReset.lean -/

@[simp] theorem evolves_resetState (s : State) {o : Held} (ho : o.Evolves s.held) : o.Evolves (resetState s).held :=
  ho.trans ⟨rfl, fun _ => ⟨rfl, rfl, rfl, rfl⟩⟩

@[simp] theorem evolves_bootReset (s : State) {o : Held} (ho : o.Evolves s.held) : o.Evolves (bootReset s).held := ho

@[simp] theorem evolves_warmEffect (s : State) {o : Held} (ho : o.Evolves s.held) : o.Evolves (warmEffect s).held := by
  simp [warmEffect, ho]

@[simp] theorem evolves_coldEffect (s : State) {o : Held} (ho : o.Evolves s.held) : o.Evolves (coldEffect s).held := by
  simp [coldEffect, ho]

@[simp] theorem evolves_releaseEffect (s : State) {o : Held} (ho : o.Evolves s.held) :
    o.Evolves (releaseEffect s).held := by simp [releaseEffect, ho]

@[simp] theorem evolves_pulseEffect (s : State) {o : Held} (ho : o.Evolves s.held) : o.Evolves (pulseEffect s).held := by
  simp [pulseEffect, ho]

@[simp] theorem evolves_offEffect (s : State) {o : Held} (ho : o.Evolves s.held) : o.Evolves (offEffect s).held := by
  simp [offEffect, ho]

@[simp] theorem evolves_warmRequest (s : State) {o : Held} (ho : o.Evolves s.held) : o.Evolves (warmRequest s).held := by
  simp [warmRequest, ho]

@[simp] theorem evolves_coldRequest (s : State) {o : Held} (ho : o.Evolves s.held) : o.Evolves (coldRequest s).held := by
  simp [coldRequest, ho]

@[simp] theorem evolves_galleryStep (found : BootFindings) (s : State) {o : Held} (ho : o.Evolves s.held) :
    o.Evolves (galleryStep found s).held := by
  have hv : o.Evolves (changeVolts 12 found.avs0 found.avs1 s).1.held := by simpa using ho
  exact hv.trans ⟨rfl, fun ⟨hh, hv, _, _⟩ => ⟨hh, hv, rfl, rfl⟩⟩

@[simp] theorem evolves_bootAction (step : Nat) (found : BootFindings) (s : State) {o : Held} (ho : o.Evolves s.held) :
    o.Evolves (bootAction step found s).held := by
  unfold bootAction; split
  case h_8 => exact ho.hbm_set (fun _ => rfl)
  case h_10 => exact ho.vault_set (fun _ => rfl)
  all_goals simp [ho]

@[simp] theorem evolves_bootStepEffect (found : BootFindings) (s : State) {o : Held} (ho : o.Evolves s.held) :
    o.Evolves (bootStepEffect found s).held := by
  have ha := fun (k : Nat) (f : Dev → Dev) => evolves_bootAction k found (modDev s f) (o := o) (by simpa using ho)
  unfold bootStepEffect; split
  · exact ho
  · dsimp only; split <;> simp [ha]

@[simp] theorem evolves_standbyState (s : State) {o : Held} (ho : o.Evolves s.held) : o.Evolves (standbyState s).held := by
  simp [standbyState, ho]

@[simp] theorem evolves_shutdownStepEffect (s : State) {o : Held} (ho : o.Evolves s.held) :
    o.Evolves (shutdownStepEffect s).held := by
  unfold shutdownStepEffect; repeat' split
  all_goals simp [ho]

/-! ### Machine/Registers.lean -/

@[simp] theorem evolves_devCtlWrite (v : Word) (s : State) {o : Held} (ho : o.Evolves s.held) :
    o.Evolves (devCtlWrite v s).held := by unfold devCtlWrite; split <;> simp [ho]

@[simp] theorem evolves_directWrite (a : Nat) (v : Word) (s : State) {o : Held} (ho : o.Evolves s.held) :
    o.Evolves (directWrite a v s).held := by
  unfold directWrite; repeat' split
  all_goals simp [ho]

@[simp] theorem evolves_bar0Write (a size : Nat) (v : Word) (s : State) {o : Held} (ho : o.Evolves s.held) :
    o.Evolves (bar0Write a size v s).held := by simp [bar0Write, ho]

/-! ### Machine/Landing.lean -/

@[simp] theorem evolves_watchReports (p : Nat) (flight : Word) (s : State) {o : Held} (ho : o.Evolves s.held) :
    o.Evolves (watchReports p flight s).held := by
  unfold watchReports
  refine evolves_foldl _ _ _ (fun _ _ ho => ?_) ho
  simp [ho]

@[simp] theorem evolves_queueReports (p : Nat) (s : State) {o : Held} (ho : o.Evolves s.held) :
    o.Evolves (queueReports p s).held := by
  unfold queueReports
  refine evolves_foldl _ _ _ (fun _ _ ho => ?_) ho
  simp [ho]

@[simp] theorem evolves_landPartition (p : Nat) (ended begins : Option Word) (s : State) {o : Held}
    (ho : o.Evolves s.held) :
    o.Evolves (landPartition p ended begins s).1.held := by
  unfold landPartition
  extract_lets due s₁ a b s₂ c s₃ d
  have ha : o.Evolves a.1.held := by simpa [a, s₁] using ho
  have h₂ : o.Evolves s₂.held := evolves_watchReports _ _ _ (evolves_seqStep4 _ _ _ ha)
  have h₃ : o.Evolves s₃.held := by simp [s₃, c, h₂]
  simpa [d] using h₃

@[simp] theorem evolves_breakLanding (p : Nat) (s : State) {o : Held} (ho : o.Evolves s.held) :
    o.Evolves (breakLanding p s).1.held := by
  unfold breakLanding; dsimp only
  rw [held_discardMint, held_poisonClears]
  exact evolves_seqBroken _ _ (by simpa using ho)

/-! ### Machine/Riser.lean -/

@[simp] theorem evolves_landOne (entries : Reports) (a : State × List Done) (e : Nat × Option Flight × FlightEnd) {o : Held}
    (ho : o.Evolves a.1.held) :
    o.Evolves (landOne entries a e).1.held := by
  unfold landOne; dsimp only; split
  · exact evolves_breakLanding _ _ ho
  · exact evolves_landPartition _ _ _ _ ho
  · split
    · exact evolves_landPartition _ _ _ _ ho
    · exact ho

@[simp] theorem evolves_riserEffect (found : RiserFindings) (s : State) {o : Held} (ho : o.Evolves s.held) :
    o.Evolves (riserEffect found s).held := by
  unfold riserEffect
  extract_lets ended s₁ entries k s₂ parts s₃ ends s₄ a b s₅ c s₆
  have h₄ : s₄.held = s.held := by simp [s₄, s₃, s₂, k, s₁]
  have ha : o.Evolves a.1.held := evolves_foldl_fst _ _ _ (fun a e ho => evolves_landOne _ a e ho) (h₄ ▸ ho)
  have h₅ : s₅.held = a.1.held := by simp [s₅, b]
  have hc : c.1.held = s₅.held := by
    unfold c; split <;> simp
  have h₆ : s₆.held = c.1.held := by simp [s₆]
  rw [held_mintRun]
  refine evolves_clearsRun _ ?_
  rw [held_newTread, held_countWaits, h₆, hc, h₅]
  exact ha

/-! ## What each command answers -/

/-- What command c may answer in state s: a state that has kept the queue and the form of the memories, and, in a bound block
and for operands of the right form, a state at all. -/
structure Answers (c : Instr) (s : State) (r : Result) : Prop where
  evolves : ∀ t, r = .next t → Evolves s t
  completes : s.dev.unbound = false → c.wellFormed = true → ∃ t, r = .next t

section
variable {c : Instr} {s : State} {f : State → State} (hf : s.held.Evolves (f s).held)
include hf

theorem answers_next : Answers c s (.next (f s)) where
  evolves t h := by cases h; exact (evolves_iff_held _ _).mpr hf
  completes _ _ := ⟨_, rfl⟩

theorem answers_whenBound : Answers c s (whenBound s f) where
  evolves t h := by rw [(whenBound_next h).2]; exact (evolves_iff_held _ _).mpr hf
  completes hb _ := ⟨_, whenBound_bound f hb⟩

theorem answers_whenOn : Answers c s (whenOn s f) := by
  refine answers_whenBound ?_
  split
  · exact hf
  · exact .refl _

theorem answers_whenUp : Answers c s (whenUp s f) := by
  refine answers_whenBound ?_
  split
  · exact hf
  · exact .refl _

theorem answers_whenUpWf (m : String) : Answers c s (whenUpWf c.wellFormed m s f) where
  evolves t h := by
    rw [whenUpWf_wf m f (whenUpWf_next h).1] at h
    exact (answers_whenUp (c := c) hf).evolves t h
  completes hb hw := by
    rw [whenUpWf_wf m f hw]
    exact (answers_whenUp hf).completes hb hw

end

/-- A command whose operands' form is tested first. -/
theorem answers_ifWf {c : Instr} {s : State} {r : Result} {e : Refusal} (h : Answers c s r) :
    Answers c s (if c.wellFormed then r else .refused e) where
  evolves t ht := by
    split at ht
    · exact h.evolves t ht
    · cases ht
  completes hb hw := by rw [if_pos hw]; exact h.completes hb hw

/-- Every command answers as `Answers` says, by the gate of its meaning and by what its effect leaves alone. -/
theorem exec_answers (c : Instr) (s : State) : Answers c s (exec c s) := by
  cases c with
  | resetNPulse | vauxRemoved | coldReset =>
    apply answers_next; simp
  | vauxUp | mainEnAssert | resetNRelease | forcedShutdown | warmReset | orderlyShutdown | shutdownStepEnd
  | moduleTrip | porterLightChange | harvest | bootRingsEnable | bootRingsDisable | iaSelWrite | iaDataRead
  | iaDataWrite | fabricEnable | portEnable | portDisable | secureChannelRemove | routeEntryCommit | wakePatternSend
  | sidebandRegisterAccess | msixUnmask | ucieTrainingEnd | ucieRetrain | ucieRetrainEnd | hostSnoop
  | hdmDecoderCommit =>
    apply answers_whenBound; simp
  | fwKick | submissionDoorbell | consumerDoorbell | galleryTempStretch | galleryCurrentStretch | droopStretch
  | droopStretchEnd | stretchEnd | mintDieThrottle | memoryStackThrottle | throttleEnd | opticsOff | opticsOn =>
    apply answers_whenOn; simp
  | wakePatternEnd | interruptTimeout | hostAccessTimeout | nop | tally | ringEnable | ringPause | ringResume
  | ringDisable | ringClear | stwDissolve | stwHalt | stwResume | flightPlan | stwSet | fwActivate | pwrSet | mintSet
  | freezeSet | genSet | fwLoad | stashSet | watchSet | fwQuote | partStart | partStop | partPreempt | partEvict
  | partResume | partRelease | turnSet | mapSet | copy | strikeCopy | reduceScatter | allGather | allReduce
  | broadcast | allToAll | queuePush | queuePop | layerDef | layerUndef | update | strike | layerIo | route | dispatch
  | combine | embGather | embSegsum | evict | seqJoin | seqLeave | seqPark | seqUnpark | seqPrio | load | pass | thin
  | tallyRecord | tileNop | drain | free | spill | restore | pageAdd | vload | vstore | arith | func | rowred
  | smax | norm | dropout | convert | xpose | stash | unstash | sdrop | lease | watch | programEnd | drainFillEnd
  | spillWriteEnd | restoreFillEnd | dmaTransferEnd | parkCopyEnd | saveStart | partSaved | requestFence | restoreEnd
  | scrubDone | checkpointReloadEnd | fwImageChecked | handoverReady | handoverTimeout | tellerWatchdogExpiry
  | tellerRestartDone | quoteBatchClose | batchSigned | traversalRebuildEnd | riser | riserBeaconSend
  | budgetEvaluation | alignTimeout | memberBeaconTimeout | formationComplete | formationTimeout | probeSend
  | helloSend | neighbourTimeout | ackTimer | resendTimeout | pauseFrame | lldpduReceived | frameDrop | pauseExpired
  | xoffRepeat | pauseStorm | stormEnd | lldpSend | lldpTtlExpiry | linkUp | linkDown | calibrationWindow
  | hostAccessAborted | usherLastWrite | layerIoCopyEnd | zeroFillEnd | signalDetected | alignmentMarkerLock =>
    apply answers_whenUp; simp
  | descriptorFetched | stwForm | partConfig | mintExchangeReceived | helloReceived | riserBeaconReceived
  | slipBeaconReceived | holdBeaconReceived | poisonBeaconReceived | haltBeaconReceived | resumeBeaconReceived
  | probeRequestReceived | remoteAddReq | stwResumeReq | readyReq | countReq | respReceived | creditReceived
  | frameRelay | pfcFrame | fecInterval =>
    apply answers_whenUpWf; simp
  | bootStepEnd | hdmAccess =>
    apply answers_ifWf; apply answers_whenBound; simp
  | estimateTick =>
    apply answers_ifWf; apply answers_whenOn; simp
  | registerWrite =>
    apply answers_whenBound
    split <;> simp
  | program =>
    apply answers_whenUp
    split <;> simp
  | programIf =>
    apply answers_whenUp
    split
    · simp
    · dsimp only; repeat' split
      all_goals simp
  | updateStaged =>
    apply answers_whenUp; dsimp only
    split <;> simp
  | waitLimitExpiry =>
    apply answers_whenUp
    split <;> simp
  | ackReceived =>
    apply answers_whenUpWf
    exact evolves_withFrame _ _ _ _ (fun s ho => evolves_clearsRun _ (by simpa using ho)) (.refl _)
  | probeResponseReceived =>
    apply answers_whenUpWf
    refine evolves_withFrame _ _ _ _ (fun s ho => ?_) (.refl _)
    dsimp only; repeat' split
    all_goals simpa using ho
  | collectiveData link frame =>
    apply answers_whenUpWf
    exact evolves_clearsRun _ (evolves_receiveReliable _ _ _ _ (fun s => evolves_dataLands frame s) (.refl _))
  | queueData link frame =>
    apply answers_whenUpWf
    exact evolves_clearsRun _ (evolves_receiveReliable _ _ _ _ (fun s => evolves_queueLands frame s) (.refl _))
  | _ => -- SEAL alone, whose constructor's name is a keyword of Lean
    apply answers_whenUp; simp

end Sys2Proof.Machine

open Sys2Proof Sys2Proof.Machine

/-- Settles O2: a step runs the front command on the state with the rest of the queue, and `exec_answers` says what that
command may answer. -/
theorem everyStepKeepsQueueOrderAndMemoryForm : Obligations.EveryStepKeepsQueueOrderAndMemoryForm := by
  refine ⟨fun c rest s t hp hs => ?_, fun c s hb hw => ?_⟩
  · have hx : exec c { s with pending := rest } = .next t := by simpa only [step, hp] using hs
    obtain ⟨hqueue, hform⟩ := (exec_answers c _).evolves t hx
    exact ⟨hqueue, hform⟩
  · obtain ⟨t, ht⟩ := (exec_answers c s).completes hb hw
    exact ⟨t, ht, ((exec_answers c s).evolves t ht).1⟩
end

section
/-!
The records of 08_training_passes.md (O46): XPOSE, WATCH, STASH, UNSTASH, SDROP and LEASE, and the end of a stash transfer.
First the record that a core runs next and its program, then aborts, pages and the stash, then what each command answers.
-/
namespace Sys2Proof.Machine

/-! ## Programs and the record that a core runs next -/

/-- A command of Ready and Running runs its effect where the block serves. -/
theorem whenUp_serves {s : State} (f : State → State) (h : s.serves = true) : whenUp s f = .next (f s) := by
  simp only [State.serves, Bool.and_eq_true, Bool.not_eq_true'] at h
  exact whenUp_up f h.1 h.2

/-- The answer of a command of Ready and Running, from what its effect computes. -/
theorem whenUp_effect {s t : State} {f : State → State} (h : s.serves = true) (hf : f s = t) : whenUp s f = .next t :=
  (whenUp_serves f h).trans (congrArg _ hf)

theorem id_of_program? {s : State} {id : Nat} {g : Program} (h : s.program? id = some g) : g.id = id := by
  simpa using List.find?_some h

/-- A program put in place of an admitted one of its number is found there. -/
theorem program?_setProgram {s : State} {g : Program} {id : Nat} (hid : g.id = id) (h : (s.program? id).isSome = true) :
    (s.setProgram g).program? id = some g := by
  subst hid
  have hsame : ((fun x : Program => x.id == g.id) ∘ fun x => if x.id == g.id then g else x) = fun x => x.id == g.id := by
    funext x
    by_cases hx : x.id = g.id <;> simp [hx]
  obtain ⟨x, hx⟩ := Option.isSome_iff_exists.mp h
  have hid := id_of_program? hx
  simp only [State.program?] at hx
  simp only [State.program?, State.setProgram, List.find?_map, hsame, hx, Option.map_some, hid, beq_self_eq_true, if_true]

/-- The program of the next record is admitted. -/
theorem program?_of_nextOn {s : State} {op c i : Nat} {passed : List Nat} {g : Program} {r : Bytes}
    (h : s.nextOn op passed c = some (g, i, r)) : (s.program? g.id).isSome = true := by
  obtain ⟨x, hx, hr⟩ := Option.bind_eq_some_iff.mp h
  have hgx : x = g := by
    split at hr
    · cases hr
    · obtain ⟨y, _, hy⟩ := Option.map_eq_some_iff.mp hr
      exact congrArg Prod.fst hy
  subst hgx
  have hmem : x ∈ livePrograms s := List.mem_of_find?_eq_some (Option.filter_eq_some_iff.mp hx).1
  exact List.find?_isSome.mpr ⟨x, (List.mem_filter.mp hmem).1, by simp⟩

/-- The gate of a record gives the next one to its effect. -/
theorem withRecord_nextOn {s : State} {op c i : Nat} {passed : List Nat} {g : Program} {r : Bytes}
    (k : Program → Nat → Bytes → State → State) (h : s.nextOn op passed c = some (g, i, r)) :
    withRecord op passed c s k = k g i r s := by
  obtain ⟨x, hx, hr⟩ := Option.bind_eq_some_iff.mp h
  split at hr
  · cases hr
  · next hw =>
    obtain ⟨⟨j, b⟩, hn, hy⟩ := Option.map_eq_some_iff.mp hr
    cases hy
    simp [withRecord, hx, hw, hn]

/-! What charged cycles leave of a program, and what leaves the programs of a state alone. -/

@[simp] theorem charge_id (c n : Nat) (g : Program) : (charge c n g).id = g.id := rfl
@[simp] theorem charge_records (c n : Nat) (g : Program) : (charge c n g).records = g.records := rfl

@[simp] theorem program?_bump (s : State) (k n id : Nat) : (s.bump k n).program? id = s.program? id := by
  simp [State.program?]

@[simp] theorem part_bump (s : State) (k n p : Nat) : (s.bump k n).part p = s.part p := by simp [State.part]

/-- A record marked done in its program. -/
theorem program?_markDone {s : State} {id : Nat} {g : Program} (i : Nat) (h : s.program? id = some g) :
    (markDone id i s).program? id = some (issue i true g) := by
  simp only [markDone, h]
  exact program?_setProgram (id_of_program? (g := g) h) (by simp [h])

/-! ## Stores -/

theorem State.sameStores_refl (s : State) : s.sameStores s := ⟨rfl, rfl, rfl, rfl, rfl, rfl, rfl⟩

theorem State.sameStores.trans {s t u : State} (h : s.sameStores t) (k : t.sameStores u) : s.sameStores u := by
  obtain ⟨h1, h2, h3, h4, h5, h6, h7⟩ := h
  obtain ⟨k1, k2, k3, k4, k5, k6, k7⟩ := k
  exact ⟨k1.trans h1, k2.trans h2, k3.trans h3, k4.trans h4, k5.trans h5, k6.trans h6, k7.trans h7⟩

theorem State.sameStores_bump (s : State) (k n : Nat) : s.sameStores (s.bump k n) := by
  simp [State.sameStores]

theorem State.sameStores_setProgram (s : State) (g : Program) : s.sameStores (s.setProgram g) := s.sameStores_refl

/-! ## Aborts (R466) -/

/-- The state without what poisoning a flight may change: the partitions, what a beacon of it changes, and reports. -/
def State.apartFromPoison (s : State) : State := { s.apartFromSending with parts := [] }

theorem apartFromPoison_of_sending {s t : State} (h : t.apartFromSending = s.apartFromSending) :
    t.apartFromPoison = s.apartFromPoison := by
  simp only [State.apartFromPoison, h]

@[simp] theorem apartFromPoison_poisonFlight (p d : Nat) (s : State) :
    (poisonFlight p d s).apartFromPoison = s.apartFromPoison := rfl

@[simp] theorem apartFromPoison_setPoison (p d : Nat) (s : State) : (setPoison p d s).apartFromPoison = s.apartFromPoison := by
  have hpeers : ((setPeers p s).foldl (fun s x => poisonFlight x 3 s) (poisonFlight p d s)).apartFromPoison =
      s.apartFromPoison := foldl_keeps State.apartFromPoison _ (fun s x => apartFromPoison_poisonFlight x 3 s) _ _
  unfold setPoison; dsimp only; split
  · exact hpeers
  · exact (apartFromPoison_of_sending (apartFromSending_sendBeacon _ _)).trans hpeers

/-- An abort that poisons no page stops the program and poisons its flight set, reports apart. -/
theorem apartFromPoison_abortProgram {s : State} {id : Nat} {g : Program} (i d c : Nat) (h : s.program? id = some g) :
    (abortProgram id i d c [] s).apartFromPoison = (s.setProgram (stopProgram 0x30 d (issue i true g))).apartFromPoison := by
  simp only [abortProgram, h, passAbortEvent, List.foldl_nil]
  rw [apartFromPoison_of_sending (apartFromSending_postEvent ..), apartFromPoison_of_sending (apartFromSending_postEvent ..),
    apartFromPoison_of_sending (apartFromSending_bump ..), apartFromPoison_setPoison,
    apartFromPoison_of_sending (apartFromSending_bump ..)]

/-- A state that differs by poisoned flights alone has the same stores and programs. -/
theorem sameStores_of_apartFromPoison {s t : State} (h : t.apartFromPoison = s.apartFromPoison) : s.sameStores t := by
  have k : s.apartFromPoison.sameStores t.apartFromPoison := by rw [h]; exact State.sameStores_refl _
  exact k

theorem program?_of_apartFromPoison {s t : State} (h : t.apartFromPoison = s.apartFromPoison) (id : Nat) :
    t.program? id = s.program? id := by
  have k := congrArg (fun s => State.program? s id) h
  exact k

/-- No record of a stopped program is left to issue. -/
theorem issued_of_stopProgram (st d : Nat) (g : Program) : ∀ v ∈ (stopProgram st d g).records, v.issued = true := by
  intro v hv
  obtain ⟨x, _, rfl⟩ := List.mem_map.mp hv
  split
  · assumption
  · rfl

/-- An abort with no outcome before it: the program ends with POISONED and its detail, nothing of it issues, and no store
changes. -/
theorem abortProgram_stops {s : State} {id : Nat} {g : Program} (i d c : Nat) (h : s.program? id = some g)
    (ho : g.outcome = none) :
    ∃ v, (abortProgram id i d c [] s).program? id = some v ∧ v.outcome = some (0x30, d) ∧
      (∀ x ∈ v.records, x.issued = true) ∧ s.sameStores (abortProgram id i d c [] s) := by
  have ha := apartFromPoison_abortProgram i d c h
  have hprog : (s.setProgram (stopProgram 0x30 d (issue i true g))).program? id =
      some (stopProgram 0x30 d (issue i true g)) := program?_setProgram (id_of_program? (g := g) h) (by simp [h])
  refine ⟨_, (program?_of_apartFromPoison ha _).trans hprog, ?_, issued_of_stopProgram _ _ _,
    (State.sameStores_setProgram s _).trans (sameStores_of_apartFromPoison ha)⟩
  simp [stopProgram, issue, ho]

/-! ## XPOSE (R231, R233, R234) -/

/-- The rows of an XPOSE, and for an MX format their scales, written into the scratchpad of core c. -/
def xposeWrites (c : Nat) (r : Bytes) (s : State) : State :=
  (List.range (u16 r 18)).foldl (fun u j =>
    let u := padWrite c (u32 r 8 + j * u16 r 14) (packCodes (byteAt r 2) (xposeRow s.pads (padBase c) r j).1) u
    if fmtMx (byteAt r 2) then
      padWrite c (u32 r 24 + j * scalePitch (byteAt r 2) (u16 r 14))
        ((xposeRow s.pads (padBase c) r j).2.map (BitVec.ofNat 8)) u
    else u) s

/-- The state without its scratchpads and their poison. -/
def State.apartFromPads (s : State) : State := { s with pads := [], padPoison := [] }

@[simp] theorem apartFromPads_padWrite (c a : Nat) (bs : Bytes) (s : State) :
    (padWrite c a bs s).apartFromPads = s.apartFromPads := rfl

/-- The writes of an XPOSE change scratchpads and their poison only. -/
theorem apartFromPads_xposeWrites (c : Nat) (r : Bytes) (s : State) :
    (xposeWrites c r s).apartFromPads = s.apartFromPads := by
  unfold xposeWrites
  refine foldl_keeps State.apartFromPads _ (fun u j => ?_) _ s
  dsimp only; split <;> simp

section
variable {s : State} {c i : Nat} {g : Program} {r : Bytes} (hn : s.nextOn 0x40 [] c = some (g, i, r))
  (hw : padWaits g c (xposeRanges r).1 (xposeRanges r).2 = false)
include hn hw

/-- An XPOSE of poisoned bytes aborts its program. -/
theorem xposeEffect_poisoned (hp : (xposeRanges r).1.any (fun p => padPoisoned c p.1 p.2 s) = true) :
    xposeEffect c s = abortProgram g.id i 2 c [] s := by
  simp only [xposeEffect, withRecord_nextOn _ hn, hw, hp, if_true]
  rfl

/-- Any other XPOSE writes its rows and retires. -/
theorem xposeEffect_clean (hp : (xposeRanges r).1.any (fun p => padPoisoned c p.1 p.2 s) = false) :
    ∃ h : Program, h.id = g.id ∧ h.records = (issue i true g).records ∧
      xposeEffect c s = ((xposeWrites c r s).setProgram h).bump (kTrn 1) := by
  simp only [xposeEffect, withRecord_nextOn _ hn, hw, hp, List.foldl_map]
  refine ⟨_, ?_, ?_, rfl⟩
  · rw [charge_id]; split <;> rfl
  · rw [charge_records]; split <;> rfl

end

/-! ## Pages -/

theorem pageOf_of_cores {s t : State} (h : t.cores = s.cores) (c p : Nat) : pageOf c p t = pageOf c p s := by
  simp [pageOf, State.core, h]

@[simp] theorem pageOf_bump (c p : Nat) (s : State) (k n : Nat) : pageOf c p (s.bump k n) = pageOf c p s :=
  pageOf_of_cores (State.bump_cores s k n) c p

@[simp] theorem pageOf_setProgram (c p : Nat) (s : State) (g : Program) : pageOf c p (s.setProgram g) = pageOf c p s := rfl

@[simp] theorem pageOf_setPage_same (c p : Nat) (x : Page) (s : State) : pageOf c p (setPage c p x s) = x := by
  simp [pageOf, setPage, State.modCore]

theorem pageOf_setPage_ne {p k : Nat} (c : Nat) (x : Page) (s : State) (h : k ≠ p) :
    pageOf c k (setPage c p x s) = pageOf c k s := by
  simp [pageOf, setPage, State.modCore, tget_tset_ne _ _ _ h]

/-- A page slot written with what it has in some view keeps that view of every page of its core. -/
theorem pageOf_setPage_keeps {α : Type} (view : Page → α) {c p : Nat} {x : Page} {s : State}
    (h : view x = view (pageOf c p s)) (k : Nat) : view (pageOf c k (setPage c p x s)) = view (pageOf c k s) := by
  by_cases hk : k = p
  · subst hk; simp [h]
  · rw [pageOf_setPage_ne c x s hk]

@[simp] theorem snoopLines_cores (a n : Nat) (s : State) : (snoopLines a n s).cores = s.cores := by
  unfold snoopLines; dsimp only; split <;> simp

@[simp] theorem pageOf_hbmWrite (c p a : Nat) (bs : Bytes) (s : State) : pageOf c p (hbmWrite a bs s) = pageOf c p s :=
  pageOf_of_cores (snoopLines_cores a bs.length s) c p

/-- A checkpoint keeps every image of its core (R192). -/
@[simp] theorem image_checkpoint (part c p : Nat) (fl : Word) (s : State) (k : Nat) :
    (pageOf c k (checkpoint part c p fl s)).image = (pageOf c k s).image := by
  have hkept : ∀ (y : Page) (j a : Nat) (bs : Bytes) (s : State), y = pageOf c j s →
      (pageOf c k (setPage c j { y with ckpt := true } (hbmWrite a bs s))).image = (pageOf c k s).image := by
    rintro y j a bs s rfl
    rw [pageOf_setPage_keeps Page.image (by simp), pageOf_hbmWrite]
  unfold checkpoint; dsimp only
  split
  · rfl
  · rw [pageOf_bump]
    split
    · rw [hkept _ _ _ _ _ rfl, hkept _ _ _ _ _ rfl]
    · rw [hkept _ _ _ _ _ rfl]

/-- A page freed is Free. -/
theorem image_freePage_same (c p : Nat) (s : State) : (pageOf c p (freePage c p s)).image = PageImage.free := by
  unfold freePage; dsimp only
  split
  · rw [pageOf_setPage_ne _ _ _ (by omega), pageOf_setPage_same]
  · rw [pageOf_setPage_same]

/-- Freeing a page that is no pair leaves every other page alone. -/
theorem pageOf_freePage_ne {c p k : Nat} {s : State} (h : k ≠ p) (ht : (pageOf c p s).image.type ≠ .pair) :
    pageOf c k (freePage c p s) = pageOf c k s := by
  simp [freePage, ht, pageOf_setPage_ne _ _ _ h]

/-- No page becomes a pair when a page is freed. -/
theorem type_freePage_ne_pair {c k : Nat} {s : State} (p : Nat) (h : (pageOf c k s).image.type ≠ .pair) :
    (pageOf c k (freePage c p s)).image.type ≠ .pair := by
  have hset : ∀ (j : Nat) (x : Page) (s : State), (pageOf c k s).image.type ≠ .pair →
      (pageOf c k (setPage c j { x with image := PageImage.free } s)).image.type ≠ .pair := by
    intro j x s h
    by_cases hk : k = j
    · subst hk; simp [PageImage.free]
    · rwa [pageOf_setPage_ne _ _ _ hk]
  unfold freePage; dsimp only
  split
  · exact hset _ _ _ (hset _ _ _ h)
  · exact hset _ _ _ h

/-- Opening a page with a type that is no pair leaves every other page alone. -/
theorem pageOf_openPage_ne {c p k : Nat} {ty : PageType} (s : State) (h : k ≠ p) (ht : ty ≠ .pair) :
    pageOf c k (openPage c p ty s) = pageOf c k s := by
  simp [openPage, ht, pageOf_setPage_ne _ _ _ h]

/-- A page that is not Free is as the operation finds it. -/
theorem unwritten_of_ne_free {c p : Nat} {s : State} (ty : PageType) (h : (pageOf c p s).image.state ≠ .free) :
    unwritten c p ty s = s := by
  simp [unwritten, h]

/-- What a Free page is taken to hold, where it is no pair, is no other page's matter. -/
theorem pageOf_unwritten_ne {c p k : Nat} {ty : PageType} (s : State) (h : k ≠ p) (ht : ty ≠ .pair) :
    pageOf c k (unwritten c p ty s) = pageOf c k s := by
  unfold unwritten; dsimp only
  split
  · rw [pageOf_setPage_ne _ _ _ h]; rfl
  · rfl

/-- No page becomes a pair when a page is found unwritten with another type. -/
theorem type_unwritten_ne_pair {c p k : Nat} {ty : PageType} {s : State} (ht : ty ≠ .pair)
    (h : (pageOf c k s).image.type ≠ .pair) : (pageOf c k (unwritten c p ty s)).image.type ≠ .pair := by
  by_cases hk : k = p
  · subst hk
    unfold unwritten; dsimp only
    split
    · rw [pageOf_setPage_same]; exact ht
    · exact h
  · rwa [pageOf_unwritten_ne s hk ht]

/-! A promotion in two parts: its pages, and what its program reports. -/

/-- Page p with the promoted entries and their conditions, and its lo page for a pair. -/
def promotedPages (c p : Nat) (a : PageAcc) (s : State) : State :=
  let x := pageOf c p s
  let s := setPage c p { x with image := ({ x.image with state := .open_, entries := a.hi }).addFlags a.flags } s
  if x.image.type = .pair then
    let y := pageOf c (p + 1) s
    setPage c (p + 1) { y with image := { y.image with entries := a.lo } } s
  else s

/-- A program with more conditions. -/
def reportConditions (id : Nat) (f : PageFlags) (s : State) : State :=
  match s.program? id with
  | none => s
  | some g => s.setProgram { g with flags := g.flags ||| BitVec.ofNat 8 f.toNat }

/-- A promotion is both, for the entries and conditions that it computes. -/
theorem promoteInto_eq (c p : Nat) (blocks : Nat → Nat → List BlockVal) (id : Nat) (s : State) :
    ∃ a : PageAcc, promoteInto c p blocks id s =
      reportConditions id a.flags ((promotedPages c p a s).bump (kGal 5 4 c) a.flagged) := by
  refine ⟨promotePage (pageOf c p s).image.type (pageOf c p s).image.entries (loEntries c p s) blocks, ?_⟩
  unfold promoteInto promotedPages; dsimp only
  generalize promotePage (pageOf c p s).image.type (pageOf c p s).image.entries (loEntries c p s) blocks = a
  unfold reportConditions; rfl

theorem reportConditions_cores (id : Nat) (f : PageFlags) (s : State) : (reportConditions id f s).cores = s.cores := by
  unfold reportConditions; split <;> rfl

theorem pageOf_reportConditions (c k id : Nat) (f : PageFlags) (s : State) :
    pageOf c k (reportConditions id f s) = pageOf c k s := pageOf_of_cores (reportConditions_cores id f s) c k

/-- The conditions of a program are no matter of its records. -/
theorem program?_reportConditions {s : State} {id : Nat} {g : Program} (f : PageFlags) (h : s.program? id = some g) :
    ∃ v, (reportConditions id f s).program? id = some v ∧ v.records = g.records := by
  simp only [reportConditions, h]
  exact ⟨_, program?_setProgram (id_of_program? (g := g) h) (by simp [h]), rfl⟩

theorem promotedPages_programs (c p : Nat) (a : PageAcc) (s : State) : (promotedPages c p a s).programs = s.programs := by
  unfold promotedPages; dsimp only; split <;> rfl

/-- A promotion leaves its page Open (R167). -/
theorem state_promoteInto (c p : Nat) (blocks : Nat → Nat → List BlockVal) (id : Nat) (s : State) :
    (pageOf c p (promoteInto c p blocks id s)).image.state = .open_ := by
  obtain ⟨a, ha⟩ := promoteInto_eq c p blocks id s
  rw [ha, pageOf_reportConditions, pageOf_bump]
  unfold promotedPages; dsimp only
  split
  · rw [pageOf_setPage_ne _ _ _ (by omega), pageOf_setPage_same]; rfl
  · rw [pageOf_setPage_same]; rfl

/-- A promotion keeps the type of every page. -/
theorem type_promoteInto (c p : Nat) (blocks : Nat → Nat → List BlockVal) (id : Nat) (s : State) (k : Nat) :
    (pageOf c k (promoteInto c p blocks id s)).image.type = (pageOf c k s).image.type := by
  have hkeeps : ∀ (j : Nat) (x : Page) (s : State), x.image.type = (pageOf c j s).image.type →
      (pageOf c k (setPage c j x s)).image.type = (pageOf c k s).image.type :=
    fun _ _ _ hx => pageOf_setPage_keeps (fun y => y.image.type) hx k
  obtain ⟨a, ha⟩ := promoteInto_eq c p blocks id s
  rw [ha, pageOf_reportConditions, pageOf_bump]
  unfold promotedPages; dsimp only
  split
  · rw [hkeeps, hkeeps] <;> rfl
  · rw [hkeeps]; rfl

/-- A promotion changes the conditions of its program, not its records (R173, R196). -/
theorem program?_promoteInto {s : State} {id : Nat} {g : Program} (c p : Nat) (blocks : Nat → Nat → List BlockVal)
    (h : s.program? id = some g) : ∃ v, (promoteInto c p blocks id s).program? id = some v ∧ v.records = g.records := by
  obtain ⟨a, ha⟩ := promoteInto_eq c p blocks id s
  rw [ha]
  refine program?_reportConditions _ ?_
  simpa [State.program?, promotedPages_programs] using h

/-! ## What the operations on pages leave alone -/

/-- The state without what an operation on pages may change: cores, HBM and what goes with its writes, counters, free values. -/
def State.apartFromPages (s : State) : State :=
  { s with cores := [], hbm := [], hbmPoison := [], flt := { s.flt with counted := [] },
           host := { s.host with hostLines := [] }, out := [], cnt := [], free := 0 }

@[simp] theorem apartFromPages_bump (s : State) (k n : Nat) : (s.bump k n).apartFromPages = s.apartFromPages := by
  unfold State.bump; split <;> rfl

@[simp] theorem apartFromPages_setPage (c p : Nat) (x : Page) (s : State) :
    (setPage c p x s).apartFromPages = s.apartFromPages := (rfl)

@[simp] theorem apartFromPages_snoopLines (a n : Nat) (s : State) : (snoopLines a n s).apartFromPages = s.apartFromPages := by
  unfold snoopLines; dsimp only; split
  · rfl
  · rw [apartFromPages_bump]; rfl

@[simp] theorem apartFromPages_hbmWrite (a : Nat) (bs : Bytes) (s : State) :
    (hbmWrite a bs s).apartFromPages = s.apartFromPages := apartFromPages_snoopLines a bs.length s

@[simp] theorem apartFromPages_checkpoint (part c p : Nat) (fl : Word) (s : State) :
    (checkpoint part c p fl s).apartFromPages = s.apartFromPages := by
  unfold checkpoint; dsimp only
  split
  · rfl
  · split <;> simp

@[simp] theorem apartFromPages_freePage (c p : Nat) (s : State) : (freePage c p s).apartFromPages = s.apartFromPages := by
  unfold freePage; dsimp only; split <;> simp

@[simp] theorem apartFromPages_openPage (c p : Nat) (ty : PageType) (s : State) :
    (openPage c p ty s).apartFromPages = s.apartFromPages := by
  unfold openPage; dsimp only; split <;> simp

@[simp] theorem apartFromPages_unwritten (c p : Nat) (ty : PageType) (s : State) :
    (unwritten c p ty s).apartFromPages = s.apartFromPages := by
  unfold unwritten; dsimp only
  split
  · split <;> simp <;> rfl
  · rfl

/-- States that differ by pages alone have the same programs, partitions, scratchpads and tile buffers. -/
theorem fields_of_apartFromPages {s t : State} (h : t.apartFromPages = s.apartFromPages) :
    t.programs = s.programs ∧ t.parts = s.parts ∧ t.pads = s.pads ∧ t.bufs = s.bufs := by
  have k := congrArg (fun s : State => (s.programs, s.parts, s.pads, s.bufs)) h
  simp only [Prod.mk.injEq] at k
  exact k

theorem program?_of_apartFromPages {s t : State} (h : t.apartFromPages = s.apartFromPages) (id : Nat) :
    t.program? id = s.program? id := by
  rw [State.program?, (fields_of_apartFromPages h).1]; rfl

/-- A promotion changes no partition, scratchpad or tile buffer. -/
theorem promoteInto_frame (c p : Nat) (blocks : Nat → Nat → List BlockVal) (id : Nat) (s : State) :
    (promoteInto c p blocks id s).parts = s.parts ∧ (promoteInto c p blocks id s).pads = s.pads ∧
      (promoteInto c p blocks id s).bufs = s.bufs := by
  obtain ⟨a, ha⟩ := promoteInto_eq c p blocks id s
  have hpages : (promotedPages c p a s).apartFromPages = s.apartFromPages := by
    unfold promotedPages; dsimp only; split <;> simp
  obtain ⟨-, hparts, hpads, hbufs⟩ := fields_of_apartFromPages hpages
  rw [ha]
  unfold reportConditions; split <;> simp [hparts, hpads, hbufs]

theorem sameStores_setPage (c p : Nat) (x : Page) (s : State) : s.sameStores (setPage c p x s) := s.sameStores_refl

theorem sameStores_freshWords (n : Nat) (s : State) : s.sameStores (s.freshWords n).2 := s.sameStores_refl

/-- A page found unwritten is no matter of the stores. -/
theorem sameStores_unwritten (c p : Nat) (ty : PageType) (s : State) : s.sameStores (unwritten c p ty s) := by
  unfold unwritten; dsimp only
  split
  · have hpage := fun (k : Nat) (x : Page) (u : State) => (sameStores_freshWords 2048 u).trans (sameStores_setPage c k x _)
    split
    · exact (hpage _ _ _).trans (hpage _ _ _)
    · exact hpage _ _ _
  · exact s.sameStores_refl

/-! ## WATCH (R237, R238) -/

/-- The state in which a WATCH finds the page that it watches or folds into: what an aborted program did not write holds free
values, unless the record opens the page itself (assumption log 105). -/
def watchFound (c : Nat) (r : Bytes) (s : State) : State :=
  if bit (byteAt r 2) 1 then s else unwritten c (byteAt r 4) .fp32 s

@[simp] theorem apartFromPages_watchFound (c : Nat) (r : Bytes) (s : State) :
    (watchFound c r s).apartFromPages = s.apartFromPages := by
  unfold watchFound; split <;> simp

theorem sameStores_watchFound (c : Nat) (r : Bytes) (s : State) : s.sameStores (watchFound c r s) := by
  unfold watchFound; split
  · exact s.sameStores_refl
  · exact sameStores_unwritten ..

theorem watchFound_of_ne_free {c : Nat} {r : Bytes} {s : State} (h : (pageOf c (byteAt r 4) s).image.state ≠ .free) :
    watchFound c r s = s := by
  rw [watchFound, unwritten_of_ne_free _ h, ite_self]

/-- A page that is not Free is found as it stands. -/
theorem pageOf_watchFound {c k : Nat} {r : Bytes} {s : State} (h : (pageOf c k s).image.state ≠ .free) :
    pageOf c k (watchFound c r s) = pageOf c k s := by
  by_cases hk : k = byteAt r 4
  · rw [watchFound_of_ne_free (by rwa [← hk])]
  · unfold watchFound; split
    · rfl
    · exact pageOf_unwritten_ne s hk (by decide)

/-- No page is found to be a pair that is none. -/
theorem type_watchFound_ne_pair {c k : Nat} {s : State} (r : Bytes) (h : (pageOf c k s).image.type ≠ .pair) :
    (pageOf c k (watchFound c r s)).image.type ≠ .pair := by
  unfold watchFound; split
  · exact h
  · exact type_unwritten_ne_pair (by decide) h

section
variable {s : State} {c i : Nat} {g : Program} {r : Bytes} (hn : s.nextOn 0x45 [] c = some (g, i, r))
  (hp : pageBusy c (byteAt r 4) s = false)
include hn hp

/-- A WATCH of a Poisoned page is left out (R194). -/
theorem watchEffect_poisoned (hq : bit (byteAt r 2) 0 = false → pageBusy c (byteAt r 5) s = false)
    (h : (pageOf c (byteAt r 4) s).image.state = .poisoned ∨
      bit (byteAt r 2) 0 = false ∧ (pageOf c (byteAt r 5) s).image.state = .poisoned) :
    watchEffect c s = skipPoisoned g.id i s := by
  have hbusy : (pageBusy c (byteAt r 4) s || !bit (byteAt r 2) 0 && pageBusy c (byteAt r 5) s) = false := by
    cases hf : bit (byteAt r 2) 0 <;> simp [hp, hq, hf]
  simp only [watchEffect, withRecord_nextOn _ hn, hbusy, h, if_true, Bool.false_eq_true, if_false]

/-- A final WATCH of another page (R237). -/
theorem watchEffect_final (hf : bit (byteAt r 2) 0 = true) (h : (pageOf c (byteAt r 4) s).image.state ≠ .poisoned) :
    watchEffect c s = watchFinal g i c r (watchFound c r s) := by
  simp [watchEffect, watchFound, withRecord_nextOn _ hn, hp, hf, h]

/-- A fold of another page (R237). -/
theorem watchEffect_fold (hf : bit (byteAt r 2) 0 = false) (hq : pageBusy c (byteAt r 5) s = false)
    (h : (pageOf c (byteAt r 4) s).image.state ≠ .poisoned) (h' : (pageOf c (byteAt r 5) s).image.state ≠ .poisoned) :
    watchEffect c s = watchFold g i c r (unwritten c (byteAt r 5) .fp32 (watchFound c r s)) := by
  simp [watchEffect, watchFound, withRecord_nextOn _ hn, hp, hq, hf, h, h']

end

/-- A changed watch reads as changed. -/
theorem watch_modWatch (p k : Nat) (f : Watch → Watch) (s : State) :
    tget Watch.atReset ((modWatch p k f s).part p).watches k = f (tget Watch.atReset (s.part p).watches k) := by
  simp [modWatch, tmod]

/-- What a final WATCH does: it adds the squares of its page to the watch, and retires. -/
theorem watchFinal_next {s : State} {g : Program} (i c : Nat) (r : Bytes) (hg : (s.program? g.id).isSome = true) :
    tget Watch.atReset ((watchFinal g i c r s).part g.part).watches (byteAt r 3) =
      { tget Watch.atReset (s.part g.part).watches (byteAt r 3) with
        s2 := dyAdd (tget Watch.atReset (s.part g.part).watches (byteAt r 3)).s2
          (squares (pageOf c (byteAt r 4) s).image.entries).1
        finals := (tget Watch.atReset (s.part g.part).watches (byteAt r 3)).finals + 1
        nan := (tget Watch.atReset (s.part g.part).watches (byteAt r 3)).nan ||
          (squares (pageOf c (byteAt r 4) s).image.entries).2 } ∧
    (watchFinal g i c r s).program? g.id = some (charge c 128 (issue i true g)) ∧
    (watchFinal g i c r s).cores = s.cores ∧ s.sameStores (watchFinal g i c r s) := by
  refine ⟨watch_modWatch _ _ _ s, ?_, rfl, s.sameStores_refl⟩
  exact program?_setProgram rfl hg

/-- The pages of a fold while its target is made ready: the checkpoint, and the opening where the record asks for it. -/
def foldTarget (g : Program) (c : Nat) (r : Bytes) (s : State) : State :=
  let s := checkpoint g.part c (byteAt r 4) g.flight s
  if bit (byteAt r 2) 1 then openPage c (byteAt r 4) .fp32 (freePage c (byteAt r 4) s) else s

/-- The promotion of a fold, and the folded page freed. -/
def foldPages (g : Program) (c : Nat) (r : Bytes) (img : PageImage) (s : State) : State :=
  freePage c (byteAt r 5) (checkpoint g.part c (byteAt r 5) g.flight
    (promoteInto c (byteAt r 4) (sourceBlocks img []) g.id (foldTarget g c r s)))

/-- A fold's squares in its watch, and its record retired. -/
def foldNoted (g : Program) (i c : Nat) (r : Bytes) (s : State) : State :=
  let v := squares (pageOf c (byteAt r 5) s).image.entries
  let s := modWatch g.part (byteAt r 3) (fun w =>
    { w with s1 := dyAdd w.s1 v.1, folds := w.folds + 1, nan := w.nan || v.2 }) s
  s.setProgram (issue i true (keepPinned (keepPinned g i c (byteAt r 4) s) i c (byteAt r 5) s))

theorem watchFold_eq {s : State} {g v : Program} (i c : Nat) (r : Bytes)
    (h : (foldPages g c r (pageOf c (byteAt r 5) s).image (foldNoted g i c r s)).program? g.id = some v) :
    watchFold g i c r s =
      ((foldPages g c r (pageOf c (byteAt r 5) s).image (foldNoted g i c r s)).setProgram (charge c 256 v)).bump (kTrn 6) := by
  unfold watchFold
  unfold foldPages foldTarget foldNoted at h ⊢
  dsimp only at h ⊢
  rw [h]

@[simp] theorem apartFromPages_foldTarget (g : Program) (c : Nat) (r : Bytes) (s : State) :
    (foldTarget g c r s).apartFromPages = s.apartFromPages := by
  unfold foldTarget; dsimp only; split <;> simp

/-- Making a fold's target ready makes no other page a pair. -/
theorem type_foldTarget_ne_pair {c k : Nat} {r : Bytes} {s : State} (g : Program) (hk : k ≠ byteAt r 4)
    (h : (pageOf c k s).image.type ≠ .pair) : (pageOf c k (foldTarget g c r s)).image.type ≠ .pair := by
  have hc : (pageOf c k (checkpoint g.part c (byteAt r 4) g.flight s)).image.type ≠ .pair := by rwa [image_checkpoint]
  unfold foldTarget; dsimp only
  split
  · rw [pageOf_openPage_ne _ hk (by decide)]; exact type_freePage_ne_pair _ hc
  · exact hc

/-- A fold frees the folded page. -/
theorem image_foldPages_source (g : Program) (c : Nat) (r : Bytes) (img : PageImage) (s : State) :
    (pageOf c (byteAt r 5) (foldPages g c r img s)).image = PageImage.free := image_freePage_same _ _ _

/-- A fold leaves its target Open, where the folded page is another one and no pair. -/
theorem state_foldPages_target {c : Nat} {r : Bytes} {s : State} (g : Program) (img : PageImage)
    (hpq : byteAt r 4 ≠ byteAt r 5) (ht : (pageOf c (byteAt r 5) s).image.type ≠ .pair) :
    (pageOf c (byteAt r 4) (foldPages g c r img s)).image.state = .open_ := by
  have hq := type_foldTarget_ne_pair g hpq.symm ht
  rw [← type_promoteInto c (byteAt r 4) (sourceBlocks img []) g.id] at hq
  unfold foldPages
  rw [pageOf_freePage_ne hpq (by rwa [image_checkpoint]), image_checkpoint, state_promoteInto]

/-- A fold keeps the records of its program, and changes no partition, scratchpad or tile buffer. -/
theorem foldPages_frame {c : Nat} {r : Bytes} {s : State} {g v : Program} (img : PageImage)
    (h : s.program? g.id = some v) :
    (∃ w, (foldPages g c r img s).program? g.id = some w ∧ w.records = v.records) ∧
      (foldPages g c r img s).parts = s.parts ∧ (foldPages g c r img s).pads = s.pads ∧
      (foldPages g c r img s).bufs = s.bufs := by
  have htarget : (foldTarget g c r s).apartFromPages = s.apartFromPages := by simp
  have hafter : (foldPages g c r img s).apartFromPages =
      (promoteInto c (byteAt r 4) (sourceBlocks img []) g.id (foldTarget g c r s)).apartFromPages := by simp [foldPages]
  obtain ⟨-, hparts, hpads, hbufs⟩ := fields_of_apartFromPages htarget
  obtain ⟨hparts', hpads', hbufs'⟩ := promoteInto_frame c (byteAt r 4) (sourceBlocks img []) g.id (foldTarget g c r s)
  obtain ⟨-, hparts'', hpads'', hbufs''⟩ := fields_of_apartFromPages hafter
  have hv := (program?_of_apartFromPages htarget g.id).trans h
  obtain ⟨w, hw, hr⟩ := program?_promoteInto c (byteAt r 4) (sourceBlocks img []) hv
  exact ⟨⟨w, (program?_of_apartFromPages hafter g.id).trans hw, hr⟩, hparts''.trans (hparts'.trans hparts),
    hpads''.trans (hpads'.trans hpads), hbufs''.trans (hbufs'.trans hbufs)⟩

/-- What a fold does: it adds the squares of the folded page to the watch, frees that page, opens its target, and retires. -/
theorem watchFold_next {s : State} {g : Program} (i c : Nat) (r : Bytes) (hg : (s.program? g.id).isSome = true) :
    tget Watch.atReset ((watchFold g i c r s).part g.part).watches (byteAt r 3) =
      { tget Watch.atReset (s.part g.part).watches (byteAt r 3) with
        s1 := dyAdd (tget Watch.atReset (s.part g.part).watches (byteAt r 3)).s1
          (squares (pageOf c (byteAt r 5) s).image.entries).1
        folds := (tget Watch.atReset (s.part g.part).watches (byteAt r 3)).folds + 1
        nan := (tget Watch.atReset (s.part g.part).watches (byteAt r 3)).nan ||
          (squares (pageOf c (byteAt r 5) s).image.entries).2 } ∧
    (pageOf c (byteAt r 5) (watchFold g i c r s)).image = PageImage.free ∧
    (byteAt r 4 ≠ byteAt r 5 → (pageOf c (byteAt r 5) s).image.type ≠ .pair →
      (pageOf c (byteAt r 4) (watchFold g i c r s)).image.state = .open_) ∧
    (∃ h, (watchFold g i c r s).program? g.id = some h ∧ h.records = (issue i true g).records) ∧
    (watchFold g i c r s).pads = s.pads ∧ (watchFold g i c r s).bufs = s.bufs := by
  have hnoted : ∃ v, (foldNoted g i c r s).program? g.id = some v ∧ v.records = (issue i true g).records :=
    ⟨_, program?_setProgram rfl hg, rfl⟩
  obtain ⟨v, hv, hvr⟩ := hnoted
  obtain ⟨⟨w, hw, hwr⟩, hparts, hpads, hbufs⟩ :=
    foldPages_frame (c := c) (r := r) (pageOf c (byteAt r 5) s).image hv
  rw [watchFold_eq i c r hw]
  refine ⟨?_, ?_, fun hpq ht => ?_, ⟨charge c 256 w, ?_, hwr.trans hvr⟩, ?_, ?_⟩
  · rw [part_bump]
    simp only [State.part, State.setProgram_parts, hparts]
    exact watch_modWatch _ _ _ s
  · rw [pageOf_bump, pageOf_setProgram, image_foldPages_source]
  · rw [pageOf_bump, pageOf_setProgram]
    exact state_foldPages_target g _ hpq ht
  · rw [program?_bump]
    exact program?_setProgram (id_of_program? (g := w) hw) (by simp [hw])
  · rw [State.bump_pads, State.setProgram_pads, hpads]; rfl
  · rw [State.bump_bufs, State.setProgram_bufs, hbufs]; rfl

/-! ## The stash (R240 to R243) -/

theorem stashOf_of_parts {s t : State} (h : t.parts = s.parts) (p e : Nat) : stashOf p e t = stashOf p e s := by
  simp [stashOf, State.part, h]

/-- Stash entry k of partition p replaced. -/
def setEntry (p k : Nat) (x : StashEntry) (s : State) : State := s.modPart p (fun q => { q with stash := tset q.stash k x })

/-- A stash entry replaced is read back, and the partition's other entries stay. -/
theorem stashOf_setEntry (p k : Nat) (x : StashEntry) (s : State) :
    stashOf p k (setEntry p k x s) = x ∧ ∀ n, n ≠ k → stashOf p n (setEntry p k x s) = stashOf p n s := by
  refine ⟨by simp [stashOf, setEntry], fun n hn => ?_⟩
  simp [stashOf, setEntry, tget_tset_ne _ _ _ hn]

theorem program?_setEntry (p k id : Nat) (x : StashEntry) (s : State) : (setEntry p k x s).program? id = s.program? id := rfl

theorem program?_takeTag (h id : Nat) (d : Dma) (s : State) : (takeTag h d s).program? id = s.program? id := rfl

/-- A dropped entry is Empty, and the partition's other entries stay (R243). -/
theorem stashOf_dropEntry (p k : Nat) (s : State) :
    stashOf p k (dropEntry p k s) = StashEntry.empty ∧ ∀ n, n ≠ k → stashOf p n (dropEntry p k s) = stashOf p n s := by
  refine ⟨by simp [stashOf, dropEntry, tget], fun n hn => ?_⟩
  simp [stashOf, dropEntry, tget, tget?_tdel_ne _ hn]

/-- A tag taken is listed last in its hall. -/
theorem dma_takeTag (h : Nat) (d : Dma) (s : State) : ((takeTag h d s).hall h).dma = (s.hall h).dma ++ [d] := by
  simp [takeTag, State.hall, State.modHall]

section
variable {op : Nat} {s : State} {c i : Nat} {g : Program} {r : Bytes} (hn : s.nextOn op [] c = some (g, i, r))
include hn

/-- A part aimed at an entry that is not held retires at once (R241). -/
theorem stashEffect_unheld (he : (entryFor g (u16 r 4) s).holds = false) :
    stashEffect op c s = s.setProgram (issue i true g) := by
  simp [stashEffect, withRecord_nextOn _ hn, he]

/-- Any other STASH or UNSTASH that need not wait takes the lowest free tag; a STASH places its entry (R240, R241). -/
theorem stashEffect_held {k : Nat} (he : (entryFor g (u16 r 4) s).holds = true)
    (hw : (if op = 0x41 then padWaits g c [(u32 r 8, u32 r 12)] [] || extentsWait g.part (entryFor g (u16 r 4) s) s
      else padWaits g c [] [(u32 r 8, u32 r 12)]) = false)
    (hk : freeTag (hallOfCore c) s = some k) :
    stashEffect op c s = takeTag (hallOfCore c) { tag := k, kind := .stash g.id i }
      ((if op = 0x41 then
          setEntry g.part (u16 r 4) { entryFor g (u16 r 4) s with placed := true } s
        else s).setProgram (issue i false g)) := by
  simp only [stashEffect, withRecord_nextOn _ hn, he, hw, hk, Bool.true_eq_false, Bool.false_eq_true, if_false]
  rfl

end

/-- What an SDROP does (R243). -/
theorem sdropEffect_nextOn {s : State} {c i : Nat} {g : Program} {r : Bytes} (hn : s.nextOn 0x43 [] c = some (g, i, r)) :
    sdropEffect c s = dropEntry g.part (u16 r 4)
      (s.setProgram { issue i true g with dropped := tset g.dropped (u16 r 4) (stashOf g.part (u16 r 4) s) }) := by
  simp only [sdropEffect, withRecord_nextOn _ hn]
  rfl

/-! ## LEASE (R249) -/

/-- The lease that a LEASE record takes: its layer, and the current strike of that. -/
def currentLease (p : Nat) (r : Bytes) (s : State) : LeaseSlot :=
  { layer := u16 r 6, strike := ((layerOf (s.part p) (u16 r 6)).map Layer.current).getD 0 }

/-- A LEASE with its release bit deletes the lease of its slot; another holds its layer's current strike. -/
theorem leaseEffect_nextOn {s : State} {c i : Nat} {g : Program} {r : Bytes} (hn : s.nextOn 0x44 [] c = some (g, i, r)) :
    leaseEffect c s =
      if bit (byteAt r 2) 0 then
        (s.setProgram (charge c 1 (issue i true g))).modPart g.part (fun q => { q with leases := tdel q.leases (u16 r 4) })
      else
        ((s.setProgram (charge c 1 (issue i true g))).modPart g.part (fun q =>
          { q with leases := tset q.leases (u16 r 4) (currentLease g.part r s) })).bump (kTrn 7) := by
  simp only [leaseEffect, withRecord_nextOn _ hn]
  rfl

/-! ## The end of a stash transfer (R240, R465) -/

/-- The end of a host access changes the accesses that wait and a counter only. -/
theorem accessDone_eq (a : HostAccess) (s : State) : ∃ h c, accessDone a s = { s with host := h, cnt := c } := by
  unfold accessDone
  split
  · exact ⟨_, _, rfl⟩
  · obtain ⟨c, hc⟩ := bump_eq (setReissues a 0 s) kCe 1
    exact ⟨_, c, hc⟩

/-- The transfers of a hall without a tag. -/
def releaseTag (h tag : Nat) (s : State) : State :=
  s.modHall h (fun x => { x with dma := x.dma.filter (fun d => d.tag != tag) })

/-- A tag released is no transfer's. -/
theorem tag_releaseTag (h tag : Nat) (s : State) : ∀ d ∈ ((releaseTag h tag s).hall h).dma, d.tag ≠ tag := by
  simp [releaseTag, State.hall, State.modHall]

theorem dmaEndEffect_stash {h tag id i : Nat} {s : State} (bs : Bytes) (lost : Bool)
    (hd : (s.hall h).dma.find? (fun d => d.tag == tag) = some { tag := tag, kind := .stash id i }) :
    dmaEndEffect h tag bs lost s = stashMoves id i (releaseTag h tag s) := by
  simp only [dmaEndEffect, hd]
  rfl

@[simp] theorem hall_markDone (id i h : Nat) (s : State) : (markDone id i s).hall h = s.hall h := by
  unfold markDone; split <;> rfl

@[simp] theorem parts_markDone (id i : Nat) (s : State) : (markDone id i s).parts = s.parts := by
  unfold markDone; split <;> rfl

theorem sameStores_markDone (id i : Nat) (s : State) : s.sameStores (markDone id i s) := by
  unfold markDone; split <;> exact s.sameStores_refl

section
variable {s : State} {g : Program} {i : Nat} {x : Record} (hg : s.program? g.id = some g) (hx : g.records[i]? = some x)
include hg hx

/-- An UNSTASH writes the bytes of its entry into the scratchpad, and is done. -/
theorem stashMoves_unstash (hop : recOp x.bytes ≠ 0x41) :
    stashMoves g.id i s = markDone g.id i (padWrite (16 * g.hall + byteAt x.bytes 1) (u32 x.bytes 8)
      ((entryFor g (u16 x.bytes 4) s).data.read (u32 x.bytes 16) (u32 x.bytes 12)) s) := by
  simp only [stashMoves, hg, hx, hop, if_false]

/-- A STASH of bytes without poison writes them into its entry, and is done. -/
theorem stashMoves_stash (hop : recOp x.bytes = 0x41)
    (hp : padPoisoned (16 * g.hall + byteAt x.bytes 1) (u32 x.bytes 8) (u32 x.bytes 12) s = false) :
    stashMoves g.id i s = markDone g.id i (setEntry g.part (u16 x.bytes 4)
      { entryFor g (u16 x.bytes 4) s with
          data := (entryFor g (u16 x.bytes 4) s).data.write (u32 x.bytes 16)
            (padRead (16 * g.hall + byteAt x.bytes 1) (u32 x.bytes 8) (u32 x.bytes 12) s) } s) := by
  simp only [stashMoves, hg, hx, hop, hp, if_true, Bool.false_eq_true, if_false]
  rfl

end

/-- DMA_TRANSFER_END of a stash transfer: its bytes move in the state whose tag is free, which differs in nothing that the
transfer reads. -/
theorem exec_dmaTransferEnd_stash {hall : HallNo} {tag id i : Nat} {s : State} (data : Bytes) (hs : s.serves = true)
    (hd : (s.hall hall).dma.find? (fun d => d.tag == tag) = some { tag := tag, kind := .stash id i }) :
    ∃ h c, exec (.dmaTransferEnd hall tag data) s =
      .next (stashMoves id i (releaseTag hall tag { s with host := h, cnt := c })) := by
  obtain ⟨h, c, ha⟩ := accessDone_eq (.read hall tag) s
  refine ⟨h, c, ?_⟩
  have hx : exec (.dmaTransferEnd hall tag data) s =
      .next (dmaEndEffect hall tag data false (accessDone (.read hall tag) s)) :=
    whenUp_serves (fun s => dmaEndEffect hall tag data false (accessDone (.read hall tag) s)) hs
  rw [hx, ha, dmaEndEffect_stash (s := { s with host := h, cnt := c }) data false hd]

/-! ## What each command answers -/

section
variable {c : CoreNo} {g : Program} {i : Nat} {r : Bytes} {s : State} (hs : s.serves = true)
include hs

/-- An XPOSE of bytes without poison writes its rows and retires; nothing else of its stores changes. -/
theorem exec_xpose_clean (hn : s.nextOn 0x40 [] c = some (g, i, r))
    (hw : padWaits g c (xposeRanges r).1 (xposeRanges r).2 = false)
    (hp : (xposeRanges r).1.any (fun p => padPoisoned c p.1 p.2 s) = false) :
    ∃ (t : State) (h : Program), exec (.xpose c) s = .next t ∧ t.pads = (xposeWrites c r s).pads ∧
      t.program? g.id = some h ∧ h.records = (issue i true g).records ∧ t.hbm = s.hbm ∧ t.bufs = s.bufs ∧
      t.parts = s.parts := by
  obtain ⟨h, hid, hr, he⟩ := xposeEffect_clean hn hw hp
  have hkept := apartFromPads_xposeWrites c r s
  have hprog : (xposeWrites c r s).program? g.id = s.program? g.id := by
    have k := congrArg (fun s => State.program? s g.id) hkept
    exact k
  have hfields := congrArg (fun s : State => (s.hbm, s.bufs, s.parts)) hkept
  simp only [Prod.mk.injEq] at hfields
  obtain ⟨hhbm, hbufs, hparts⟩ := hfields
  refine ⟨_, h, whenUp_effect hs he, ?_, ?_, hr, ?_, ?_, ?_⟩
  · simp
  · rw [program?_bump]
    exact program?_setProgram hid (by rw [hprog]; exact program?_of_nextOn hn)
  · rw [State.bump_hbm]; exact hhbm
  · rw [State.bump_bufs]; exact hbufs
  · rw [State.bump_parts]; exact hparts

/-- An XPOSE of poisoned bytes ends its program with POISONED, detail 2 (R465). -/
theorem exec_xpose_poisoned (hn : s.nextOn 0x40 [] c = some (g, i, r))
    (hw : padWaits g c (xposeRanges r).1 (xposeRanges r).2 = false)
    (hp : (xposeRanges r).1.any (fun p => padPoisoned c p.1 p.2 s) = true) (hg : s.program? g.id = some g)
    (ho : g.outcome = none) :
    ∃ (t : State) (h : Program), exec (.xpose c) s = .next t ∧ t.program? g.id = some h ∧ h.outcome = some (0x30, 2) ∧
      (∀ v ∈ h.records, v.issued = true) ∧ s.sameStores t := by
  obtain ⟨h, hh⟩ := abortProgram_stops i 2 c hg ho
  exact ⟨_, h, whenUp_effect hs (xposeEffect_poisoned hn hw hp), hh⟩

/-- A final WATCH adds its page's squares to its watch (R237, R238). -/
theorem exec_watch_final {w : Watch} (hn : s.nextOn 0x45 [] c = some (g, i, r))
    (hw : w = tget Watch.atReset (s.part g.part).watches (byteAt r 3)) (hp : pageBusy c (byteAt r 4) s = false)
    (hf : bit (byteAt r 2) 0 = true) (hp' : (pageOf c (byteAt r 4) s).image.state ≠ .poisoned) :
    ∃ (t : State) (h : Program) (v : Dy × Bool), exec (.watch c) s = .next t ∧
      tget Watch.atReset (t.part g.part).watches (byteAt r 3) =
        { w with s2 := dyAdd w.s2 v.1, finals := w.finals + 1, nan := w.nan || v.2 } ∧
      ((pageOf c (byteAt r 4) s).image.state ≠ .free →
        v = squares (pageOf c (byteAt r 4) s).image.entries ∧ t.cores = s.cores) ∧
      t.program? g.id = some h ∧ h.records = (issue i true g).records ∧ s.sameStores t := by
  subst hw
  have hpages := apartFromPages_watchFound c r s
  obtain ⟨-, hparts, -, -⟩ := fields_of_apartFromPages hpages
  have hpart : (watchFound c r s).part g.part = s.part g.part := by simp only [State.part, hparts]
  have hg : ((watchFound c r s).program? g.id).isSome = true := by
    rw [program?_of_apartFromPages hpages]; exact program?_of_nextOn hn
  obtain ⟨hwatch, hprog, hcores, hsame⟩ := watchFinal_next i c r hg
  rw [hpart] at hwatch
  refine ⟨_, _, _, whenUp_effect hs (watchEffect_final hn hp hf hp'), hwatch, fun h => ?_, hprog, rfl,
    (sameStores_watchFound c r s).trans hsame⟩
  rw [hcores, watchFound_of_ne_free h]
  exact ⟨rfl, rfl⟩

/-- A fold adds the folded page's squares to its watch and frees that page; its target is Open (R237, R238). -/
theorem exec_watch_fold {w : Watch} (hn : s.nextOn 0x45 [] c = some (g, i, r))
    (hw : w = tget Watch.atReset (s.part g.part).watches (byteAt r 3)) (hp : pageBusy c (byteAt r 4) s = false)
    (hf : bit (byteAt r 2) 0 = false) (hq : pageBusy c (byteAt r 5) s = false)
    (hp' : (pageOf c (byteAt r 4) s).image.state ≠ .poisoned) (hq' : (pageOf c (byteAt r 5) s).image.state ≠ .poisoned) :
    ∃ (t : State) (h : Program) (v : Dy × Bool), exec (.watch c) s = .next t ∧
      tget Watch.atReset (t.part g.part).watches (byteAt r 3) =
        { w with s1 := dyAdd w.s1 v.1, folds := w.folds + 1, nan := w.nan || v.2 } ∧
      ((pageOf c (byteAt r 5) s).image.state ≠ .free → v = squares (pageOf c (byteAt r 5) s).image.entries) ∧
      (pageOf c (byteAt r 5) t).image = PageImage.free ∧
      (byteAt r 4 ≠ byteAt r 5 → (pageOf c (byteAt r 5) s).image.type ≠ .pair →
        (pageOf c (byteAt r 4) t).image.state = .open_) ∧
      t.program? g.id = some h ∧ h.records = (issue i true g).records ∧ t.pads = s.pads ∧ t.bufs = s.bufs := by
  subst hw
  generalize hu : unwritten c (byteAt r 5) .fp32 (watchFound c r s) = u
  have he : watchEffect c s = watchFold g i c r u := (watchEffect_fold hn hp hf hq hp' hq').trans (by rw [hu])
  have hpages : u.apartFromPages = s.apartFromPages := by simp [← hu]
  obtain ⟨-, hparts, hpads, hbufs⟩ := fields_of_apartFromPages hpages
  have hpart : u.part g.part = s.part g.part := by simp only [State.part, hparts]
  have hg : (u.program? g.id).isSome = true := by rw [program?_of_apartFromPages hpages]; exact program?_of_nextOn hn
  have hfound : (pageOf c (byteAt r 5) s).image.state ≠ .free → pageOf c (byteAt r 5) u = pageOf c (byteAt r 5) s :=
    fun h => by
      have hkept := pageOf_watchFound (r := r) h
      rw [← hu, unwritten_of_ne_free _ (by rwa [hkept]), hkept]
  have htype : (pageOf c (byteAt r 5) s).image.type ≠ .pair → (pageOf c (byteAt r 5) u).image.type ≠ .pair := fun h => by
    rw [← hu]
    exact type_unwritten_ne_pair (by decide) (type_watchFound_ne_pair r h)
  obtain ⟨hwatch, hfree, hopen, ⟨h, hprog, hr⟩, hpads', hbufs'⟩ := watchFold_next i c r hg
  rw [hpart] at hwatch
  exact ⟨_, h, _, whenUp_effect hs he, hwatch, fun h => by rw [hfound h], hfree,
    fun hpq ht => hopen hpq (htype ht), hprog, hr, hpads'.trans hpads, hbufs'.trans hbufs⟩

/-- A STASH into an entry that is held places it and takes the lowest free DMA tag (R240, R241). -/
theorem exec_stash_held {k : Nat} (hn : s.nextOn 0x41 [] c = some (g, i, r))
    (he : (entryFor g (u16 r 4) s).holds = true) (hw : padWaits g c [(u32 r 8, u32 r 12)] [] = false)
    (hx : extentsWait g.part (entryFor g (u16 r 4) s) s = false) (hk : freeTag (hallOfCore c) s = some k) :
    ∃ (t : State) (h : Program), exec (.stash c) s = .next t ∧
      (t.hall (hallOfCore c)).dma = (s.hall (hallOfCore c)).dma ++ [{ tag := k, kind := .stash g.id i }] ∧
      stashOf g.part (u16 r 4) t = { entryFor g (u16 r 4) s with placed := true } ∧
      (∀ n, n ≠ u16 r 4 → stashOf g.part n t = stashOf g.part n s) ∧
      t.program? g.id = some h ∧ h.records = (issue i false g).records ∧ s.sameStores t := by
  have heff := stashEffect_held hn he (by simp [hw, hx]) hk
  rw [if_pos rfl] at heff
  obtain ⟨hsame, hother⟩ := stashOf_setEntry g.part (u16 r 4) { entryFor g (u16 r 4) s with placed := true } s
  refine ⟨_, issue i false g, whenUp_effect hs heff, ?_, hsame, hother, ?_, rfl, s.sameStores_refl⟩
  · rw [dma_takeTag]; rfl
  · rw [program?_takeTag]
    exact program?_setProgram rfl (by rw [program?_setEntry]; exact program?_of_nextOn hn)

/-- An UNSTASH of an entry that is held takes the lowest free DMA tag (R240). -/
theorem exec_unstash_held {k : Nat} (hn : s.nextOn 0x42 [] c = some (g, i, r))
    (he : (entryFor g (u16 r 4) s).holds = true) (hw : padWaits g c [] [(u32 r 8, u32 r 12)] = false)
    (hk : freeTag (hallOfCore c) s = some k) :
    ∃ (t : State) (h : Program), exec (.unstash c) s = .next t ∧
      (t.hall (hallOfCore c)).dma = (s.hall (hallOfCore c)).dma ++ [{ tag := k, kind := .stash g.id i }] ∧
      t.program? g.id = some h ∧ h.records = (issue i false g).records ∧ s.sameStores t ∧ t.parts = s.parts := by
  have heff := stashEffect_held hn he (by simp [hw]) hk
  rw [if_neg (by decide)] at heff
  refine ⟨_, issue i false g, whenUp_effect hs heff, ?_, ?_, rfl, s.sameStores_refl, rfl⟩
  · rw [dma_takeTag]; rfl
  · rw [program?_takeTag]
    exact program?_setProgram rfl (program?_of_nextOn hn)

/-- SDROP empties its entry, whose content stays with its program (R243). -/
theorem exec_sdrop (hn : s.nextOn 0x43 [] c = some (g, i, r)) :
    ∃ (t : State) (h : Program), exec (.sdrop c) s = .next t ∧
      stashOf g.part (u16 r 4) t = StashEntry.empty ∧ (∀ e, e ≠ u16 r 4 → stashOf g.part e t = stashOf g.part e s) ∧
      t.program? g.id = some h ∧ h.records = (issue i true g).records ∧
      tget? h.dropped (u16 r 4) = some (stashOf g.part (u16 r 4) s) ∧ s.sameStores t := by
  generalize hg' : ({ issue i true g with dropped := tset g.dropped (u16 r 4) (stashOf g.part (u16 r 4) s) } : Program) = g'
  have heff := sdropEffect_nextOn hn
  rw [hg'] at heff
  obtain ⟨hempty, hother⟩ := stashOf_dropEntry g.part (u16 r 4) (s.setProgram g')
  refine ⟨_, g', whenUp_effect hs heff, hempty, hother, ?_, by rw [← hg'], by simp [← hg'], s.sameStores_refl⟩
  exact program?_setProgram (by rw [← hg']; rfl) (program?_of_nextOn hn)

/-- LEASE releases the lease of its slot, or holds its layer's current strike there (R249). -/
theorem exec_lease (hn : s.nextOn 0x44 [] c = some (g, i, r)) :
    ∃ (t : State) (h : Program), exec (.lease c) s = .next t ∧
      (bit (byteAt r 2) 0 = true → tget? (t.part g.part).leases (u16 r 4) = none) ∧
      (∀ l, bit (byteAt r 2) 0 = false → layerOf (s.part g.part) (u16 r 6) = some l →
        tget? (t.part g.part).leases (u16 r 4) = some { layer := u16 r 6, strike := l.current }) ∧
      t.program? g.id = some h ∧ h.records = (issue i true g).records ∧ s.sameStores t := by
  have hprog : (s.setProgram (charge c 1 (issue i true g))).program? g.id = some (charge c 1 (issue i true g)) :=
    program?_setProgram rfl (program?_of_nextOn hn)
  have heff := leaseEffect_nextOn hn
  cases hb : bit (byteAt r 2) 0 <;> simp only [hb, if_true, Bool.false_eq_true, if_false] at heff
  · refine ⟨_, charge c 1 (issue i true g), whenUp_effect hs heff, by simp, fun l _ hl => ?_, ?_, rfl,
      State.sameStores_bump _ _ _⟩
    · simp [currentLease, hl]
    · rw [program?_bump]; exact hprog
  · exact ⟨_, charge c 1 (issue i true g), whenUp_effect hs heff, fun _ => by simp,
      by simp, hprog, rfl, s.sameStores_refl⟩

end

section
variable {hall : HallNo} {tag i : Nat} (data : Bytes) {g : Program} {x : Record} {s : State} (hs : s.serves = true)
  (hd : (s.hall hall).dma.find? (fun d => d.tag == tag) = some { tag := tag, kind := .stash g.id i })
  (hg : s.program? g.id = some g) (hx : g.records[i]? = some x)
include hs hd hg hx

/-- At the end of an UNSTASH's transfer its bytes stand in the scratchpad (R240). -/
theorem exec_dmaTransferEnd_unstash (hop : recOp x.bytes = 0x42) :
    ∃ (t : State) (h : Program), exec (.dmaTransferEnd hall tag data) s = .next t ∧
      t.pads = (padWrite (16 * g.hall + byteAt x.bytes 1) (u32 x.bytes 8)
        ((entryFor g (u16 x.bytes 4) s).data.read (u32 x.bytes 16) (u32 x.bytes 12)) s).pads ∧
      (∀ d ∈ (t.hall hall).dma, d.tag ≠ tag) ∧ t.program? g.id = some h ∧ h.records = (issue i true g).records ∧
      t.hbm = s.hbm ∧ t.parts = s.parts := by
  obtain ⟨a, b, he⟩ := exec_dmaTransferEnd_stash data hs hd
  rw [stashMoves_unstash (s := releaseTag hall tag { s with host := a, cnt := b }) hg hx (by simp [hop])] at he
  obtain ⟨hhbm, -, hpads, -, -, -, -⟩ := sameStores_markDone g.id i
    (padWrite (16 * g.hall + byteAt x.bytes 1) (u32 x.bytes 8)
      ((entryFor g (u16 x.bytes 4) s).data.read (u32 x.bytes 16) (u32 x.bytes 12))
      (releaseTag hall tag { s with host := a, cnt := b }))
  refine ⟨_, issue i true g, he, hpads, ?_, program?_markDone i hg, rfl, hhbm, ?_⟩
  · rw [hall_markDone]; exact tag_releaseTag hall tag { s with host := a, cnt := b }
  · rw [parts_markDone]; rfl

/-- At the end of a STASH's transfer its bytes stand in the entry (R240). -/
theorem exec_dmaTransferEnd_stashed (hop : recOp x.bytes = 0x41)
    (hp : padPoisoned (16 * g.hall + byteAt x.bytes 1) (u32 x.bytes 8) (u32 x.bytes 12) s = false) :
    ∃ (t : State) (h : Program), exec (.dmaTransferEnd hall tag data) s = .next t ∧
      stashOf g.part (u16 x.bytes 4) t = { entryFor g (u16 x.bytes 4) s with
        data := (entryFor g (u16 x.bytes 4) s).data.write (u32 x.bytes 16)
          (padRead (16 * g.hall + byteAt x.bytes 1) (u32 x.bytes 8) (u32 x.bytes 12) s) } ∧
      (∀ d ∈ (t.hall hall).dma, d.tag ≠ tag) ∧ t.program? g.id = some h ∧ h.records = (issue i true g).records ∧
      s.sameStores t := by
  obtain ⟨a, b, he⟩ := exec_dmaTransferEnd_stash data hs hd
  rw [stashMoves_stash (s := releaseTag hall tag { s with host := a, cnt := b }) hg hx hop hp] at he
  refine ⟨_, issue i true g, he, ?_, ?_, program?_markDone i hg, rfl, ?_⟩
  · rw [stashOf_of_parts (parts_markDone ..)]
    exact (stashOf_setEntry _ _ _ _).1
  · rw [hall_markDone]; exact tag_releaseTag hall tag { s with host := a, cnt := b }
  · exact State.sameStores.trans s.sameStores_refl (sameStores_markDone _ _ _)

end

end Sys2Proof.Machine

open Sys2Proof Sys2Proof.Machine

/-- Settles O46: record by record, from what each command answers. -/
theorem trainingRecordsTakeEffect : Obligations.TrainingRecordsTakeEffect := by
  refine ⟨fun c g i r s hs => ⟨fun hn hw => ⟨fun hp => ?_, fun hp hg ho => ?_⟩,
    fun p q w hn ep eq hw hp => ?_, fun e k hn he => ?_, fun e k hn he => ?_, fun hn => ?_, fun hn => ?_⟩,
    fun hall tag data g i c x r e s hs hd hg hx hr hc he => ?_⟩
  · exact exec_xpose_clean hs hn hw hp
  · exact exec_xpose_poisoned hs hn hw hp hg ho
  · subst ep eq
    refine ⟨fun hf h => exec_watch_final hs hn hw hp hf h, fun hf hq h h' => exec_watch_fold hs hn hw hp hf hq h h',
      fun hq h => ?_⟩
    exact whenUp_effect hs (watchEffect_poisoned hn hp hq h)
  · subst he
    refine ⟨fun he => ?_, fun he hw hx hk => exec_stash_held hs hn he hw hx hk⟩
    exact whenUp_effect hs (stashEffect_unheld hn he)
  · subst he
    refine ⟨fun he => ?_, fun he hw hk => exec_unstash_held hs hn he hw hk⟩
    exact whenUp_effect hs (stashEffect_unheld hn he)
  · exact exec_sdrop hs hn
  · exact exec_lease hs hn
  · subst hr hc he
    exact ⟨exec_dmaTransferEnd_unstash data hs hd hg hx, exec_dmaTransferEnd_stashed data hs hd hg hx⟩
end

section
/-!
The layers of 09_mint_and_vault.md (O47): LAYER_DEF, LAYER_UNDEF and LAYER_IO. First what reports leave alone, layers and the
mint's gate, then what each effect computes, then what each command answers.
-/
namespace Sys2Proof.Machine

/-! ## What reports leave alone -/

theorem parts_of_sending {s t : State} (h : t.apartFromSending = s.apartFromSending) : t.parts = s.parts := by
  have k := congrArg State.parts h
  exact k

theorem parts_of_reports {s t : State} (h : t.apartFromReports = s.apartFromReports) : t.parts = s.parts :=
  parts_of_sending (apartFromSending_of_reports h)

theorem sameStores_of_sending {s t : State} (h : t.apartFromSending = s.apartFromSending) : s.sameStores t :=
  sameStores_of_apartFromPoison (apartFromPoison_of_sending h)

theorem sameStores_of_reports {s t : State} (h : t.apartFromReports = s.apartFromReports) : s.sameStores t :=
  sameStores_of_sending (apartFromSending_of_reports h)

theorem sameStores_finish (rn : Nat) (tag : Word) (st d res aux : Nat) {s t : State} (h : s.sameStores t) :
    s.sameStores (finish rn tag st d res aux t) := h.trans (sameStores_of_reports (apartFromReports_finish ..))

theorem part_of_parts {s t : State} (h : t.parts = s.parts) (p : Nat) : t.part p = s.part p := by simp only [State.part, h]

@[simp] theorem parts_finish (rn : Nat) (tag : Word) (st d res aux : Nat) (s : State) :
    (finish rn tag st d res aux s).parts = s.parts := parts_of_reports (apartFromReports_finish rn tag st d res aux s)

@[simp] theorem parts_popHead (rn : Nat) (s : State) : (popHead rn s).parts = s.parts := rfl

/-- A work item that is dropped is no longer found. -/
@[simp] theorem work?_dropWork (s : State) (id : Nat) : (s.dropWork id).work? id = none := by
  simp [State.work?, State.dropWork]

/-! ## Layers -/

theorem state_ne_undefined_of_layerOf {q : Partition} {n : Nat} {l : Layer} (h : layerOf q n = some l) :
    l.state ≠ .undefined_ := by
  simpa using (Option.filter_eq_some_iff.mp h).2

/-- A defined layer put in place is found there. -/
theorem layerOf_setLayer_same (p n : Nat) {l : Layer} (s : State) (h : l.state ≠ .undefined_) :
    layerOf ((setLayer p n l s).part p) n = some l := by
  simp [layerOf, setLayer, Option.filter_some, h]

theorem layerOf_setLayer_ne (p : Nat) {n k : Nat} (l : Layer) (s : State) (h : k ≠ n) :
    layerOf ((setLayer p n l s).part p) k = layerOf (s.part p) k := by
  simp [layerOf, setLayer, tget?_tset_ne _ _ h]

/-- A part read in leaves the state of its layer. -/
@[simp] theorem state_partIn (l : Layer) (part : Nat) (bs : Bytes) : (partIn l part bs).state = l.state := by
  unfold partIn; split <;> rfl

/-! ## The gate of the mint (R260, R374) -/

/-- A descriptor that the mint takes is given to its effect, with the owner of its ring. -/
theorem withMint_mints {op n : Nat} {f : Fetched} {s : State} (k : Fetched → Nat → State → State)
    (h : s.mints op n f = true) : withMint op n s k = k f (s.ring n).owner s := by
  simp only [State.mints, Bool.and_eq_true, beq_iff_eq, Bool.not_eq_true'] at h
  obtain ⟨⟨hhead, hbusy⟩, hgate⟩ := h
  simp [withMint, hhead, hbusy, hgate, ringPart]

theorem opcode_of_mints {op n : Nat} {f : Fetched} {s : State} (h : s.mints op n f = true) : byteAt f.bytes 0 = op := by
  simp only [State.mints, Bool.and_eq_true, beq_iff_eq] at h
  exact (headOf_some h.1.1).2.2.1

/-! ## LAYER_DEF, LAYER_UNDEF and LAYER_IO (R257, R261, R262, R280) -/

section
variable {n : Nat} {f : Fetched} {s : State}

/-- The layer that the LAYER_DEF f describes in state s, for partition p (R257). -/
def describedLayer (f : Fetched) (p : Nat) (s : State) : Layer :=
  layerFrom f.bytes (if byteAt f.bytes 35 = 1 then [(fabAddr s, p)] else peerEntries f.bytes s) s.free

theorem layerDefEffect_defines (hm : s.mints 0x40 n f = true)
    (hr : layerDefReject f.bytes (s.ring n).owner (describedLayer f (s.ring n).owner s) s = none) :
    layerDefEffect n s = finish n f.tag 0x00 0 (layerExtents (describedLayer f (s.ring n).owner s)) 0
      (popHead n (setLayer (s.ring n).owner (mintLayer f.bytes) (describedLayer f (s.ring n).owner s)
        { s with free := s.free + masterBytes (describedLayer f (s.ring n).owner s) })) := by
  rw [describedLayer] at hr
  simp only [layerDefEffect, withMint_mints _ hm, hr]
  rfl

theorem layerDefEffect_rejects {r : Reject} (hm : s.mints 0x40 n f = true)
    (hr : layerDefReject f.bytes (s.ring n).owner (describedLayer f (s.ring n).owner s) s = some r) :
    layerDefEffect n s = rejectHead n f r s := by
  rw [describedLayer] at hr
  simp only [layerDefEffect, withMint_mints _ hm, hr]

/-- An Idle layer goes, unless a held lease names its current strike (R249, R262). -/
theorem layerUndefEffect_removes {l : Layer} (hm : s.mints 0x41 n f = true)
    (hl : layerOf (s.part (s.ring n).owner) (mintLayer f.bytes) = some l) (hi : l.state = .idle)
    (hc : l.current = 0 ∨ heldLease (s.part (s.ring n).owner) (mintLayer f.bytes) l.current = false) :
    layerUndefEffect n s = finish n f.tag 0x00 0 0 0 (popHead n
      (s.modPart (s.ring n).owner (fun q => { q with layers := tdel q.layers (mintLayer f.bytes) }))) := by
  have hfree : ¬(l.current ≠ 0 ∧ heldLease (s.part (s.ring n).owner) (mintLayer f.bytes) l.current = true) := by
    rintro ⟨h0, hlease⟩
    rcases hc with hc | hc
    · exact h0 hc
    · rw [hc] at hlease; cases hlease
  simp only [layerUndefEffect, withMint_mints _ hm, hl, hi, ne_eq, not_true_eq_false, if_false]
  rw [if_neg hfree]

theorem layerUndefEffect_undefined (hm : s.mints 0x41 n f = true)
    (hl : layerOf (s.part (s.ring n).owner) (mintLayer f.bytes) = none) :
    layerUndefEffect n s = rejectHead n f (badState 0) s := by
  simp only [layerUndefEffect, withMint_mints _ hm, hl]

/-- The copy of a LAYER_IO of layer l. -/
def layerCopy (n : Nat) (f : Fetched) (l : Layer) (s : State) : Work :=
  { newWork s n f (s.ring n).owner 512 (partBytes l (byteAt f.bytes 18)) [] with started := true }

/-- A LAYER_IO whose memory its partition owns becomes a copy (R280). -/
theorem layerIoEffect_copies {l : Layer} (hm : s.mints 0x44 n f = true)
    (hl : layerOf (s.part (s.ring n).owner) (mintLayer f.bytes) = some l) (hi : l.state = .idle)
    (hhbm : byteAt f.bytes 20 = 0 →
      hbmAllowed (s.part (s.ring n).owner) (u64 f.bytes 24) (partBytes l (byteAt f.bytes 18)) = true)
    (hhost : byteAt f.bytes 20 ≠ 0 →
      hostAllowed (s.part (s.ring n).owner) (u64 f.bytes 24) (partBytes l (byteAt f.bytes 18)) = true) :
    layerIoEffect n s = { popHead n s with work := s.work ++ [layerCopy n f l s], nextId := s.nextId + 1 } := by
  have hok : (if byteAt f.bytes 20 = 0 then
      hbmAllowed (s.part (s.ring n).owner) (u64 f.bytes 24) (partBytes l (byteAt f.bytes 18))
    else hostAllowed (s.part (s.ring n).owner) (u64 f.bytes 24) (partBytes l (byteAt f.bytes 18))) = true := by
    split
    · exact hhbm ‹_›
    · exact hhost ‹_›
  simp only [layerIoEffect, withMint_mints _ hm, hl, hok, hi, Bool.true_eq_false, ne_eq, not_true_eq_false, if_false]
  rfl

end

section
variable {n : Nat} {data : Bytes} {w : Work} {l : Layer} {s : State}

/-- The end of a copy that needs no data from the host, or has them, moves its bytes (R280, R400). -/
theorem layerIoEndEffect_moves (hw : s.work.find? (fun w => w.opcode == 0x44 && w.ring == n) = some w)
    (hdata : bit (byteAt w.bytes 19) 0 = false ∨ byteAt w.bytes 20 ≠ 2 ∨ (data.length = w.left ∧ s.host.halves ≠ [])) :
    layerIoEndEffect n data s = layerIoMoves w data s := by
  simp only [layerIoEndEffect, hw]
  rw [if_neg]
  rcases hdata with h | h | ⟨h, h'⟩ <;> simp [h]
  exact fun _ _ => h'

/-- A part of a layer goes out to HBM or the host (R280). -/
theorem layerIoMoves_out (hl : layerOf (s.part w.part) (mintLayer w.bytes) = some l)
    (hd : bit (byteAt w.bytes 19) 0 = false) :
    layerIoMoves w data s = finish w.ring w.tag 0x00 0 (partBytes l (byteAt w.bytes 18)) 0
      (if byteAt w.bytes 20 = 0 then hbmWrite (u64 w.bytes 24) (partOut l (byteAt w.bytes 18)) (s.dropWork w.id)
      else toHost (u64 w.bytes 24) (partOut l (byteAt w.bytes 18)) false (s.dropWork w.id)) := by
  simp only [layerIoMoves, hl, hd, Bool.false_eq_true, if_false]

/-- Bytes without poison come in to their part of the layer (R280). -/
theorem layerIoMoves_in (hl : layerOf (s.part w.part) (mintLayer w.bytes) = some l)
    (hd : bit (byteAt w.bytes 19) 0 = true)
    (hp : byteAt w.bytes 20 = 0 → hbmPoisoned (u64 w.bytes 24) (partBytes l (byteAt w.bytes 18)) s = false) :
    layerIoMoves w data s = finish w.ring w.tag 0x00 0 (partBytes l (byteAt w.bytes 18)) 0
      (setLayer w.part (mintLayer w.bytes) (partIn l (byteAt w.bytes 18)
        (if byteAt w.bytes 20 = 0 then hbmRead (u64 w.bytes 24) (partBytes l (byteAt w.bytes 18)) s else data))
        (s.dropWork w.id)) := by
  have hclean : ¬(byteAt w.bytes 20 = 0 ∧
      hbmPoisoned (u64 w.bytes 24) (partBytes l (byteAt w.bytes 18)) (s.dropWork w.id) = true) := by
    rintro ⟨h0, hpoison⟩
    exact Bool.false_ne_true ((hp h0).symm.trans hpoison)
  simp only [layerIoMoves, hl, hd, if_true]
  rw [if_neg hclean]
  rfl

/-- Poisoned bytes of HBM end the copy with POISONED 2 (R465, assumption log 17). -/
theorem layerIoMoves_poisoned (hl : layerOf (s.part w.part) (mintLayer w.bytes) = some l)
    (hd : bit (byteAt w.bytes 19) 0 = true) (h0 : byteAt w.bytes 20 = 0)
    (hp : hbmPoisoned (u64 w.bytes 24) (partBytes l (byteAt w.bytes 18)) s = true) :
    layerIoMoves w data s = finish w.ring w.tag 0x30 2 0 0 ((s.dropWork w.id).bump kPoison) := by
  simp only [layerIoMoves, hl, hd, if_true]
  exact if_pos ⟨h0, hp⟩

end

/-! What each command on layers answers. -/

section
variable {n : RingNo} {f : Fetched} {p : Nat} {s : State} (hs : s.serves = true) (hp : p = (s.ring n).owner)
include hs hp

/-- LAYER_DEF defines its layer, Idle, or is rejected. -/
theorem exec_layerDef {peers : List (Half × Nat)} {l : Layer} (hm : s.mints 0x40 n f = true)
    (hpeers : peers = (if byteAt f.bytes 35 = 1 then [(fabAddr s, p)] else peerEntries f.bytes s))
    (hl : l = layerFrom f.bytes peers s.free) :
    (layerDefReject f.bytes p l s = none →
      ∃ u, exec (.layerDef n) s = .next (finish n f.tag 0x00 0 (layerExtents l) 0 u) ∧
        layerOf (u.part p) (mintLayer f.bytes) = some l ∧ l.state = .idle ∧ u.free = s.free + masterBytes l ∧
        (∀ k, k ≠ mintLayer f.bytes → layerOf (u.part p) k = layerOf (s.part p) k) ∧ s.sameStores u) ∧
    (∀ r, layerDefReject f.bytes p l s = some r → exec (.layerDef n) s = .next (rejectHead n f r s)) := by
  subst hpeers hp
  obtain rfl : l = describedLayer f (s.ring n).owner s := hl
  refine ⟨fun hr => ?_, fun r hr => whenUp_effect hs (layerDefEffect_rejects hm hr)⟩
  exact ⟨_, whenUp_effect hs (layerDefEffect_defines hm hr), layerOf_setLayer_same _ _ _ (fun h => nomatch h), rfl, rfl,
    fun k hk => layerOf_setLayer_ne _ _ _ hk, s.sameStores_refl⟩

/-- LAYER_UNDEF removes an Idle layer alone. -/
theorem exec_layerUndef_removes {l : Layer} (hm : s.mints 0x41 n f = true)
    (hl : layerOf (s.part p) (mintLayer f.bytes) = some l) (hi : l.state = .idle)
    (hc : l.current = 0 ∨ heldLease (s.part p) (mintLayer f.bytes) l.current = false) :
    ∃ t, exec (.layerUndef n) s = .next t ∧ layerOf (t.part p) (mintLayer f.bytes) = none ∧
      (∀ k, k ≠ mintLayer f.bytes → layerOf (t.part p) k = layerOf (s.part p) k) ∧ s.sameStores t := by
  subst hp
  refine ⟨_, whenUp_effect hs (layerUndefEffect_removes hm hl hi hc), ?_, fun k hk => ?_,
    sameStores_finish _ _ _ _ _ _ s.sameStores_refl⟩
  all_goals rw [part_of_parts (parts_finish ..), part_of_parts (parts_popHead ..), State.part_modPart_same]
  · simp [layerOf]
  · simp [layerOf, tget?_tdel_ne _ hk]

/-- LAYER_IO of an Idle layer whose memory its partition owns adds its copy to the work, and changes no layer. -/
theorem exec_layerIo {l : Layer} {b : Bytes} (hm : s.mints 0x44 n f = true) (hb : b = f.bytes)
    (hl : layerOf (s.part p) (mintLayer b) = some l) (hi : l.state = .idle)
    (hhbm : byteAt b 20 = 0 → hbmAllowed (s.part p) (u64 b 24) (partBytes l (byteAt b 18)) = true)
    (hhost : byteAt b 20 ≠ 0 → hostAllowed (s.part p) (u64 b 24) (partBytes l (byteAt b 18)) = true) :
    ∃ (t : State) (w : Work), exec (.layerIo n) s = .next t ∧ t.work = s.work ++ [w] ∧ w.opcode = 0x44 ∧ w.ring = n ∧
      w.bytes = b ∧ w.part = p ∧ w.left = partBytes l (byteAt b 18) ∧ t.parts = s.parts ∧ s.sameStores t := by
  subst hp hb
  exact ⟨_, layerCopy n f l s, whenUp_effect hs (layerIoEffect_copies hm hl hi hhbm hhost), rfl, opcode_of_mints hm, rfl,
    rfl, rfl, rfl, rfl, s.sameStores_refl⟩

end

section
variable {n : RingNo} {data : Bytes} {w : Work} {l : Layer} {s : State} (hs : s.serves = true)
  (hw : s.work.find? (fun w => w.opcode == 0x44 && w.ring == n.val) = some w)
  (hl : layerOf (s.part w.part) (mintLayer w.bytes) = some l)
include hs hw

/-- LAYER_IO_COPY_END, from what the moving of its bytes computes. -/
theorem exec_layerIoCopyEnd {t : State}
    (hdata : bit (byteAt w.bytes 19) 0 = false ∨ byteAt w.bytes 20 ≠ 2 ∨ (data.length = w.left ∧ s.host.halves ≠ []))
    (ht : layerIoMoves w data s = t) : exec (.layerIoCopyEnd n data) s = .next t :=
  whenUp_effect hs ((layerIoEndEffect_moves hw hdata).trans ht)

include hl

/-- Bytes that have come in stand in their part of the layer, and the copy is over. -/
theorem exec_layerIoCopyEnd_in (hd : bit (byteAt w.bytes 19) 0 = true)
    (hdata : byteAt w.bytes 20 ≠ 2 ∨ (data.length = w.left ∧ s.host.halves ≠ []))
    (hp : byteAt w.bytes 20 = 0 → hbmPoisoned (u64 w.bytes 24) (partBytes l (byteAt w.bytes 18)) s = false) :
    ∃ u, exec (.layerIoCopyEnd n data) s =
        .next (finish w.ring w.tag 0x00 0 (partBytes l (byteAt w.bytes 18)) 0 u) ∧ u.work? w.id = none ∧
      layerOf (u.part w.part) (mintLayer w.bytes) = some (partIn l (byteAt w.bytes 18)
        (if byteAt w.bytes 20 = 0 then hbmRead (u64 w.bytes 24) (partBytes l (byteAt w.bytes 18)) s else data)) ∧
      s.sameStores u :=
  ⟨_, exec_layerIoCopyEnd hs hw (.inr hdata) (layerIoMoves_in hl hd hp), work?_dropWork s w.id,
    layerOf_setLayer_same _ _ _ (by rw [state_partIn]; exact state_ne_undefined_of_layerOf hl), s.sameStores_refl⟩

/-- Poisoned bytes change no layer. -/
theorem exec_layerIoCopyEnd_poisoned (hd : bit (byteAt w.bytes 19) 0 = true) (h0 : byteAt w.bytes 20 = 0)
    (hp : hbmPoisoned (u64 w.bytes 24) (partBytes l (byteAt w.bytes 18)) s = true) :
    ∃ u, exec (.layerIoCopyEnd n data) s = .next (finish w.ring w.tag 0x30 2 0 0 u) ∧ u.work? w.id = none ∧
      u.parts = s.parts ∧ s.sameStores u := by
  refine ⟨_, exec_layerIoCopyEnd hs hw (.inr (.inl (by omega))) (layerIoMoves_poisoned hl hd h0 hp), ?_,
    State.bump_parts _ _ _, State.sameStores.trans s.sameStores_refl (State.sameStores_bump _ _ _)⟩
  rw [State.work?, State.bump_work]
  exact work?_dropWork s w.id

end

end Sys2Proof.Machine

open Sys2Proof Sys2Proof.Machine

/-- Settles O47: command by command, from what each answers. -/
theorem layersAreDefinedReadAndWritten : Obligations.LayersAreDefinedReadAndWritten := by
  refine ⟨fun n f p peers l s hs hm hp hpeers hl => exec_layerDef hs hp hm hpeers hl,
    fun n f p s hs hm hp => ⟨fun l hl hi hc => exec_layerUndef_removes hs hp hm hl hi hc, fun hl => ?_⟩,
    fun n f p l b s hs hm hp hb hl hi hhbm hhost => exec_layerIo hs hp hm hb hl hi hhbm hhost,
    fun n data w l k part a len s hs hw hk hl hpart ha hlen => ?_⟩
  · subst hp
    exact whenUp_effect hs (layerUndefEffect_undefined hm hl)
  · subst hk hpart ha hlen
    refine ⟨fun hd h0 => ?_, fun hd h0 => ?_, fun hd h0 hclean => ?_, fun hd h0 hpoison => ?_, fun hd h2 hlen hhost => ?_⟩
    · exact exec_layerIoCopyEnd hs hw (.inl hd) ((layerIoMoves_out hl hd).trans (by rw [if_pos h0]))
    · exact exec_layerIoCopyEnd hs hw (.inl hd) ((layerIoMoves_out hl hd).trans (by rw [if_neg h0]))
    · have hx := exec_layerIoCopyEnd_in (data := data) hs hw hl hd (.inl (by omega)) (fun _ => hclean)
      rwa [if_pos h0] at hx
    · exact exec_layerIoCopyEnd_poisoned hs hw hl hd h0 hpoison
    · have hx := exec_layerIoCopyEnd_in (data := data) hs hw hl hd (.inr ⟨hlen, hhost⟩) (fun h0 => by omega)
      rwa [if_neg (by omega)] at hx
end

section
/-!
The jobs of 09_mint_and_vault.md (O48): UPDATE and STRIKE, the end of their striking and its faults, and the frames of exchange
bodies. It builds on the layers and the gate of O47.
-/
namespace Sys2Proof.Machine

/-! ## UPDATE and STRIKE (R264 to R271, R279) -/

/-- A job past round 0, or one whose tally is not met, does not begin. -/
theorem mintStart_stays {p n : Nat} {l : Layer} {j : MintJob} {s : State} (hl : layerOf (s.part p) n = some l)
    (hj : l.job = some j) (h : j.round ≠ 0 ∨ updateTallyMet j.bytes s = false) : mintStart p n s = s := by
  simp only [mintStart, hl, hj]
  refine if_neg ?_
  rintro ⟨-, hround, hmet⟩
  rcases h with h | h
  · exact h hround
  · rw [h] at hmet; cases hmet

section
variable {n : Nat} {f : Fetched} {l : Layer} {s : State}

/-- The job of the UPDATE f of layer l, which waits for its tally at round 0 (R264, R269). -/
def updateJob (n : Nat) (f : Fetched) (l : Layer) (s : State) : MintJob :=
  let q := s.part (s.ring n).owner
  let x := shadowExtents l ((touchedRows l f.bytes s).filter (· < l.n))
  { newJob n f q l false with extents := if x - poolFree q = 0 then x else 0, short := x - poolFree q }

/-- Layer l with the UPDATE f running, and f taken from ring n. -/
def updateRuns (n : Nat) (f : Fetched) (l : Layer) (s : State) : State :=
  setLayer (s.ring n).owner (mintLayer f.bytes) { l with state := .running, job := some (updateJob n f l s) } (popHead n s)

theorem updateTake_undefined (hm : s.mints 0x42 n f = true)
    (hl : layerOf (s.part (s.ring n).owner) (mintLayer f.bytes) = none) :
    updateTake n s = rejectHead n f (badState 0) s := by
  simp only [updateTake, withMint_mints _ hm, hl]

theorem updateTake_rejects {r : Reject} (hm : s.mints 0x42 n f = true)
    (hl : layerOf (s.part (s.ring n).owner) (mintLayer f.bytes) = some l)
    (hr : (updateFields (s.part (s.ring n).owner) l f.bytes).or
      (jobReject (s.part (s.ring n).owner) (mintLayer f.bytes) l false) = some r) :
    updateTake n s = rejectHead n f r s := by
  simp only [updateTake, withMint_mints _ hm, hl, hr]

theorem updateTake_runs (hm : s.mints 0x42 n f = true)
    (hl : layerOf (s.part (s.ring n).owner) (mintLayer f.bytes) = some l)
    (hf : updateFields (s.part (s.ring n).owner) l f.bytes = none)
    (hj : jobReject (s.part (s.ring n).owner) (mintLayer f.bytes) l false = none) :
    updateTake n s = mintStart (s.ring n).owner (mintLayer f.bytes) (updateRuns n f l s) := by
  simp only [updateTake, withMint_mints _ hm, hl, hf, hj, Option.or_none]
  rfl

/-- The job of the STRIKE f of layer l, which has no rounds to exchange (R279). -/
def strikeJobOf (n : Nat) (f : Fetched) (l : Layer) (s : State) : MintJob :=
  { newJob n f (s.part (s.ring n).owner) l true with
    round := 3, extents := (regionExtents l).2.1, frozenRows := ((List.range l.n).filter (rowFrozen l)).length }

theorem strikeTake_undefined (hm : s.mints 0x43 n f = true)
    (hl : layerOf (s.part (s.ring n).owner) (mintLayer f.bytes) = none) :
    strikeTake n s = rejectHead n f (badState 0) s := by
  simp only [strikeTake, withMint_mints _ hm, hl]

theorem strikeTake_rejects {r : Reject} (hm : s.mints 0x43 n f = true)
    (hl : layerOf (s.part (s.ring n).owner) (mintLayer f.bytes) = some l)
    (hr : jobReject (s.part (s.ring n).owner) (mintLayer f.bytes) l true = some r) :
    strikeTake n s = rejectHead n f r s := by
  simp only [strikeTake, withMint_mints _ hm, hl, hr]

theorem strikeTake_runs (hm : s.mints 0x43 n f = true)
    (hl : layerOf (s.part (s.ring n).owner) (mintLayer f.bytes) = some l)
    (hj : jobReject (s.part (s.ring n).owner) (mintLayer f.bytes) l true = none)
    (hroom : (regionExtents l).2.1 ≤ poolFree (s.part (s.ring n).owner)) :
    strikeTake n s = setLayer (s.ring n).owner (mintLayer f.bytes)
      { l with state := .running, job := some (strikeJobOf n f l s) } (popHead n s) := by
  simp only [strikeTake, withMint_mints _ hm, hl, hj]
  rw [if_neg (by omega)]
  rfl

theorem strikeTake_noRoom (hm : s.mints 0x43 n f = true)
    (hl : layerOf (s.part (s.ring n).owner) (mintLayer f.bytes) = some l)
    (hj : jobReject (s.part (s.ring n).owner) (mintLayer f.bytes) l true = none)
    (hroom : poolFree (s.part (s.ring n).owner) < (regionExtents l).2.1) :
    strikeTake n s = finish n f.tag 0x13 1 ((regionExtents l).2.1 - poolFree (s.part (s.ring n).owner)) 0
      ((popHead n s).bump (kMnt 4)) := by
  simp only [strikeTake, withMint_mints _ hm, hl, hj]
  rw [if_pos hroom]

end

/-! ## Poisoned flights (R62, R465, R467) -/

theorem nextOpenRiser_of_time {s t : State} (h : t.time = s.time) : nextOpenRiser t = nextOpenRiser s := by
  simp only [nextOpenRiser, pastDeadline, comingRiser, decide_eq_true_eq, h]

/-- The poison of a flight set reaches the peers of p in other partitions only: p has what its own flight's poison leaves. -/
theorem part_setPoison_same (p d : Nat) (s : State) : (setPoison p d s).part p = (poisonFlight p d s).part p := by
  have hpeers : ((setPeers p s).foldl (fun s x => poisonFlight x 3 s) (poisonFlight p d s)).part p =
      (poisonFlight p d s).part p := by
    refine List.foldlRecOn (motive := fun t : State => t.part p = (poisonFlight p d s).part p) _ _ rfl ?_
    intro t ht x hx
    have hne : p ≠ x := by
      rintro rfl
      simp [setPeers] at hx
    exact (State.part_setPart_ne t _ hne).trans ht
  unfold setPoison; dsimp only; split
  · exact hpeers
  · exact (part_of_parts (parts_of_sending (apartFromSending_sendBeacon _ _)) p).trans hpeers

theorem layers_setPoison (p d : Nat) (s : State) : ((setPoison p d s).part p).layers = (s.part p).layers := by
  simp [part_setPoison_same, poisonFlight]

/-- A flight that is not poisoned yet takes the detail, for the next open riser. -/
theorem poison_setPoison {p : Nat} (d : Nat) {s : State} (hf : (s.part p).flight.isSome = true)
    (hp : (s.part p).poison = none) : ((setPoison p d s).part p).poison = some (d, nextOpenRiser s) := by
  simp [part_setPoison_same, poisonFlight, hf, hp]

/-- A job whose fault poisons the flight waits for its broken landing. -/
theorem layerOf_poisonMint {p n : Nat} {l : Layer} (j : MintJob) (d : Nat) (s : State) (hl : l.state ≠ .undefined_) :
    layerOf ((poisonMint p n l j d s).part p) n = some { l with job := some { j with round := 9 } } := by
  rw [poisonMint, layerOf, layers_setPoison, part_bump]
  exact layerOf_setLayer_same p n s hl

theorem poison_poisonMint {p n : Nat} (l : Layer) (j : MintJob) (d : Nat) {s : State}
    (hf : (s.part p).flight.isSome = true) (hp : (s.part p).poison = none) :
    ((poisonMint p n l j d s).part p).poison = some (d, nextOpenRiser s) := by
  refine (poison_setPoison d ?_ ?_).trans ?_
  · rw [part_bump, setLayer, State.part_modPart_same]; exact hf
  · rw [part_bump, setLayer, State.part_modPart_same]; exact hp
  · rw [nextOpenRiser_of_time (State.bump_time _ _ _)]; rfl

/-! ## A vault line that fails (R463, R464) -/

/-- What decides how a flight is poisoned: the partitions and the time. -/
def State.flights (s : State) : Table Partition × Time := (s.parts, s.time)

@[simp] theorem flights_modFlt (s : State) (f : Flt → Flt) : (modFlt s f).flights = s.flights := (rfl)

@[simp] theorem flights_bump (s : State) (k n : Nat) : (s.bump k n).flights = s.flights := by simp [State.flights]

@[simp] theorem flights_postEvent (o code sev src pl : Nat) (s : State) :
    (postEvent o code sev src pl s).flights = s.flights := by
  have k := congrArg State.flights (apartFromReports_postEvent o code sev src pl s)
  exact k

@[simp] theorem flights_retire (r : Resource) (cause : Nat) (s : State) : (retire r cause s).flights = s.flights := by
  unfold retire; dsimp only; repeat' split
  all_goals simp

@[simp] theorem flights_thresholdCrossed (r : Resource) (cause n t : Nat) (s : State) :
    (thresholdCrossed r cause n t s).flights = s.flights := by
  unfold thresholdCrossed; repeat' split
  all_goals simp

@[simp] theorem flights_uncorrected (r : Resource) (a o : Nat) (s : State) : (uncorrected r a o s).flights = s.flights := by
  unfold uncorrected; dsimp only; split <;> simp

@[simp] theorem flights_vaultLineFails (a : Nat) (s : State) : (vaultLineFails a s).flights = s.flights := by
  have hmarked : ∀ m, State.flights { s.bump kRetry 3 with vaultPoison := m } = s.flights := fun _ => flights_bump s kRetry 3
  unfold vaultLineFails; dsimp only; split
  · exact hmarked _
  · rw [flights_uncorrected, flights_modFlt]; exact hmarked _

theorem parts_vaultLineFails (a : Nat) (s : State) : (vaultLineFails a s).parts = s.parts :=
  congrArg Prod.fst (flights_vaultLineFails a s)

theorem time_vaultLineFails (a : Nat) (s : State) : (vaultLineFails a s).time = s.time :=
  congrArg Prod.snd (flights_vaultLineFails a s)

/-! ## Staged (R270, R276 to R279) -/

section
variable {p n : Nat} {l : Layer} {j : MintJob} {s : State}

/-- Whether the end of pass C and the striking finds poisoned bytes (R465). -/
def strikePoisoned (l : Layer) (j : MintJob) (s : State) : Bool :=
  copyPoisoned l (struckRows l j s) s ||
    (!j.isStrike && !(List.range l.n).all (rowFrozen l) && gradPoisoned l j.bytes s)

/-- The strike of a job written into its slot. -/
def strikeWritten (p n : Nat) (l : Layer) (j : MintJob) (s : State) : State :=
  (strikeWrites { l with masters := (jobShadow p n l j s).1.masters } j.newStrike (struckRows l j s) s).foldl
    (fun s w => hbmWrite w.1 w.2 s) s

/-- The strike that waited in the slot of a new one is reported discarded (R278). -/
def pendingDiscarded (p n : Nat) (l : Layer) (s : State) : State :=
  if l.pending = 0 then s else postEvent p 0x9002 0 n l.pending.toNat s

/-- A job with its shadow made. -/
def stagedJob (p n : Nat) (l : Layer) (j : MintJob) (s : State) : MintJob :=
  { j with round := 4, shadow := some (jobShadow p n l j s).1, clip := (jobShadow p n l j s).2.1,
           sat := (jobShadow p n l j s).2.2 }

/-- Layer n staged: its strike written, its shadow kept in its job. -/
def stagedState (p n : Nat) (l : Layer) (j : MintJob) (s : State) : State :=
  setLayer p n { l with state := .staged, pending := 0, job := some (stagedJob p n l j s) }
    (pendingDiscarded p n l (strikeWritten p n l j s))

@[simp] theorem held_pendingDiscarded (p n : Nat) (l : Layer) (s : State) : (pendingDiscarded p n l s).held = s.held := by
  unfold pendingDiscarded; split <;> simp

/-- A strike is written into HBM: the vault and the scratchpads stay. -/
theorem vault_pads_strikeWritten (p n : Nat) (l : Layer) (j : MintJob) (s : State) :
    (strikeWritten p n l j s).vault = s.vault ∧ (strikeWritten p n l j s).pads = s.pads := by
  have h := foldl_keeps State.apartFromPages (fun (s : State) (w : Nat × Bytes) => hbmWrite w.1 w.2 s)
    (fun s w => apartFromPages_hbmWrite w.1 w.2 s)
    (strikeWrites { l with masters := (jobShadow p n l j s).1.masters } j.newStrike (struckRows l j s) s) s
  have hvault := congrArg State.vault h
  have hpads := congrArg State.pads h
  exact ⟨hvault, hpads⟩

section
variable (hl : layerOf (s.part p) n = some l) (hj : l.job = some j) (hrun : l.state = .running)
include hl hj hrun

/-- The striking of clean bytes stages the layer and posts DEFERRED. -/
theorem stagedEffect_clean (hround : j.round = 3) (hc : strikePoisoned l j s = false) :
    stagedEffect p n s = interim j.ring j.tag 0 (halves j.newStrike.toNat (jobShadow p n l j s).1.step.toNat)
      (halves j.frozenRows l.current.toNat) (stagedState p n l j s) := by
  rw [strikePoisoned] at hc
  simp only [stagedEffect, hl, hj, hrun, hround, ne_eq, not_true_eq_false, or_self, hc, Bool.false_eq_true, if_false]
  rfl

theorem stagedEffect_poisoned (hround : j.round = 3) (hc : strikePoisoned l j s = true) :
    stagedEffect p n s = poisonMint p n l j 2 s := by
  rw [strikePoisoned] at hc
  simp only [stagedEffect, hl, hj, hrun, hround, ne_eq, not_true_eq_false, or_self, hc, if_true, if_false]

theorem mintFaultEffect_engine : mintFaultEffect p n .engine s = poisonMint p n l j 1 s := by
  simp only [mintFaultEffect, hl, hj, hrun, ne_eq, not_true_eq_false, if_false]

theorem mintFaultEffect_vaultLine {a : Nat} (ha : vaultAllowed (s.part p) a 1 = true) :
    mintFaultEffect p n (.vaultLine a) s = poisonMint p n l j 2 (vaultLineFails a s) := by
  simp only [mintFaultEffect, hl, hj, hrun, ne_eq, not_true_eq_false, ha, if_true, if_false]

end

end

/-! What the commands of jobs answer. -/

theorem exec_update {n : RingNo} {s t : State} (hs : s.serves = true) (h : updateTake n s = t) :
    exec (.update n) s = .next (mintRun t) :=
  whenUp_effect (f := fun s => mintRun (updateTake n s)) hs (congrArg mintRun h)

section
variable {n : RingNo} {f : Fetched} {p k : Nat} {l : Layer} {s : State} (hs : s.serves = true)
  (hp : p = (s.ring n).owner) (hk : k = mintLayer f.bytes) (hl : layerOf (s.part p) k = some l)
include hs hp hk hl

/-- An accepted UPDATE runs on its layer at round 0, and begins where its tally is met. -/
theorem exec_update_runs (hm : s.mints 0x42 n f = true) (hf : updateFields (s.part p) l f.bytes = none)
    (hj : jobReject (s.part p) k l false = none) :
    ∃ (u : State) (j : MintJob), exec (.update n) s = .next (mintRun (mintStart p k u)) ∧
      layerOf (u.part p) k = some { l with state := .running, job := some j } ∧ j.ring = n ∧ j.tag = f.tag ∧
      j.bytes = f.bytes ∧ j.isStrike = false ∧ j.round = 0 ∧ j.newStrike = nextStrike l ∧ s.sameStores u ∧
      (updateTallyMet f.bytes s = false → mintStart p k u = u) := by
  subst hp hk
  have hlayer : layerOf ((updateRuns n f l s).part (s.ring n).owner) (mintLayer f.bytes) =
      some { l with state := .running, job := some (updateJob n f l s) } :=
    layerOf_setLayer_same _ _ _ (fun h => nomatch h)
  exact ⟨_, updateJob n f l s, exec_update hs (updateTake_runs hm hl hf hj), hlayer, rfl, rfl, rfl, rfl,
    rfl, rfl, s.sameStores_refl, fun ht => mintStart_stays hlayer rfl (.inr ht)⟩

/-- An accepted STRIKE with room for its shadow runs on its layer at round 3. -/
theorem exec_strike_runs (hm : s.mints 0x43 n f = true) (hj : jobReject (s.part p) k l true = none)
    (hroom : (regionExtents l).2.1 ≤ poolFree (s.part p)) :
    ∃ (t : State) (j : MintJob), exec (.strike n) s = .next t ∧
      layerOf (t.part p) k = some { l with state := .running, job := some j } ∧ j.isStrike = true ∧ j.round = 3 ∧
      j.newStrike = nextStrike l ∧ j.extents = (regionExtents l).2.1 ∧ s.sameStores t := by
  subst hp hk
  exact ⟨_, strikeJobOf n f l s, whenUp_effect hs (strikeTake_runs hm hl hj hroom),
    layerOf_setLayer_same _ _ _ (fun h => nomatch h), rfl, rfl, rfl, rfl, s.sameStores_refl⟩

/-- A STRIKE short of room completes with NO_ROOM 1 and the extents that lack. -/
theorem exec_strike_noRoom (hm : s.mints 0x43 n f = true) (hj : jobReject (s.part p) k l true = none)
    (hroom : poolFree (s.part p) < (regionExtents l).2.1) :
    ∃ u, exec (.strike n) s = .next (finish n f.tag 0x13 1 ((regionExtents l).2.1 - poolFree (s.part p)) 0 u) ∧
      u.parts = s.parts := by
  subst hp hk
  exact ⟨_, whenUp_effect hs (strikeTake_noRoom hm hl hj hroom), by rw [State.bump_parts, parts_popHead]⟩

end

section
variable {p : PartNo} {k : Nat} {l : Layer} {j : MintJob} {s : State} (hs : s.serves = true)
  (hl : layerOf (s.part p) k = some l) (hj : l.job = some j) (hrun : l.state = .running) (hround : j.round = 3)
include hs hl hj hround

/-- UPDATE_STAGED of a job in round 3 begins nothing that waits: the striking ends. -/
theorem exec_updateStaged_none : exec (.updateStaged p k none) s = .next (stagedEffect p k s) := by
  have hstart : mintStart p k s = s := mintStart_stays hl hj (.inl (by omega))
  exact whenUp_effect (f := fun s => stagedEffect p k (mintStart p k s)) hs (congrArg (stagedEffect p k) hstart)

/-- UPDATE_STAGED of a job in round 3 with a fault begins nothing that waits either. -/
theorem exec_updateStaged_some (e : MintFault) :
    exec (.updateStaged p k (some e)) s = .next (mintFaultEffect p k e s) := by
  have hstart : mintStart p k s = s := mintStart_stays hl hj (.inl (by omega))
  exact whenUp_effect (f := fun s => mintFaultEffect p k e (mintStart p k s)) hs (congrArg (mintFaultEffect p k e) hstart)

include hrun

/-- Clean bytes leave the layer Staged, its masters and current strike as they were, and the new strike in its slot. -/
theorem exec_updateStaged_clean (hc : strikePoisoned l j s = false) :
    ∃ (t : State) (m : Layer), exec (.updateStaged p k none) s = .next t ∧ layerOf (t.part p) k = some m ∧
      m.state = .staged ∧ m.pending = 0 ∧ m.current = l.current ∧ m.masters = l.masters ∧ m.step = l.step ∧
      t.hbm = (strikeWritten p k l j s).hbm ∧ t.vault = s.vault ∧ t.pads = s.pads := by
  generalize ht : interim j.ring j.tag 0 (halves j.newStrike.toNat (jobShadow p k l j s).1.step.toNat)
    (halves j.frozenRows l.current.toNat) (stagedState p k l j s) = t
  have hparts : t.parts = (stagedState p k l j s).parts := by rw [← ht]; exact parts_of_reports (apartFromReports_interim ..)
  have hheld : t.held = (strikeWritten p k l j s).held := by rw [← ht]; simp [stagedState]
  have hhbm := congrArg Held.hbm hheld
  have hvault := congrArg Held.vault hheld
  have hpads := congrArg Held.pads hheld
  obtain ⟨hvault', hpads'⟩ := vault_pads_strikeWritten p k l j s
  refine ⟨t, { l with state := .staged, pending := 0, job := some (stagedJob p k l j s) },
    (exec_updateStaged_none hs hl hj hround).trans ?_, ?_, ?_⟩
  · rw [stagedEffect_clean hl hj hrun hround hc, ht]
  · rw [part_of_parts hparts]
    exact layerOf_setLayer_same _ _ _ (fun h => nomatch h)
  · exact ⟨rfl, rfl, rfl, rfl, rfl, hhbm, Eq.trans hvault hvault', Eq.trans hpads hpads'⟩

/-- Poisoned bytes, a fault of a mint engine and a vault line that no retry corrects take the job to its broken landing and
poison the flight, with their detail of Table 17-4. -/
theorem exec_updateStaged_fault {fault : Option MintFault} {d : Nat}
    (h : (fault = none ∧ strikePoisoned l j s = true ∧ d = 2) ∨ (fault = some .engine ∧ d = 1) ∨
      (∃ a, fault = some (.vaultLine a) ∧ vaultAllowed (s.part p) a 1 = true ∧ d = 2)) :
    ∃ u, exec (.updateStaged p k fault) s = .next (poisonMint p k l j d u) ∧ u.flights = s.flights ∧ u.held = s.held := by
  rcases h with ⟨rfl, hc, rfl⟩ | ⟨rfl, rfl⟩ | ⟨a, rfl, ha, rfl⟩
  · rw [exec_updateStaged_none hs hl hj hround, stagedEffect_poisoned hl hj hrun hround hc]
    exact ⟨s, rfl, rfl, rfl⟩
  · rw [exec_updateStaged_some hs hl hj hround, mintFaultEffect_engine hl hj hrun]
    exact ⟨s, rfl, rfl, rfl⟩
  · rw [exec_updateStaged_some hs hl hj hround, mintFaultEffect_vaultLine hl hj hrun ha]
    exact ⟨_, rfl, flights_vaultLineFails a s, held_vaultLineFails a s⟩

end

/-- What a poisoned job leaves: its layer with the job at its broken landing, every store's bytes, and the poison of its
flight. -/
theorem poisonMint_leaves {p n : Nat} {l : Layer} (j : MintJob) (d : Nat) {s u : State} (hl : l.state ≠ .undefined_)
    (hflights : u.flights = s.flights) (hheld : u.held = s.held) :
    layerOf ((poisonMint p n l j d u).part p) n = some { l with job := some { j with round := 9 } } ∧
      (poisonMint p n l j d u).hbm = s.hbm ∧ (poisonMint p n l j d u).vault = s.vault ∧
      ((s.part p).flight.isSome = true → (s.part p).poison = none →
        ((poisonMint p n l j d u).part p).poison = some (d, nextOpenRiser s)) := by
  have hpart : u.part p = s.part p := part_of_parts (congrArg Prod.fst hflights) p
  have htime : u.time = s.time := congrArg Prod.snd hflights
  have hstores : (poisonMint p n l j d u).held = s.held := (held_poisonMint ..).trans hheld
  refine ⟨layerOf_poisonMint j d u hl, congrArg Held.hbm hstores, congrArg Held.vault hstores, fun hf hp => ?_⟩
  rw [poison_poisonMint l j d (by rwa [hpart]) (by rwa [hpart]), nextOpenRiser_of_time htime]

/-! ## Frames of a connection (R320) -/

theorem connOf_id (id : ConnId) (s : State) : (connOf id s).id = id := by
  unfold connOf
  cases hfind : s.fab.conns.find? (fun c => c.id == id) with
  | none => rfl
  | some c => simpa using List.find?_some hfind

/-- A connection put in place is found there. -/
theorem connOf_setConn_same {c : Conn} {id : ConnId} (hid : c.id = id) (s : State) : connOf id (setConn c s) = c := by
  subst hid
  have hmap : ((fun d : Conn => d.id == c.id) ∘ fun d => if d.id == c.id then c else d) = fun d => d.id == c.id := by
    funext d
    by_cases hd : d.id = c.id <;> simp [hd]
  simp only [connOf, setConn, modFab]
  cases hfind : s.fab.conns.find? (fun d => d.id == c.id) with
  | none =>
    have hany : s.fab.conns.any (fun d => d.id == c.id) = false := by simpa using hfind
    simp [hany, List.find?_append, hfind]
  | some d =>
    have hid : d.id = c.id := by simpa using List.find?_some hfind
    have hany : s.fab.conns.any (fun d => d.id == c.id) = true :=
      List.any_eq_true.mpr ⟨d, List.mem_of_find?_eq_some hfind, by simp [hid]⟩
    simp only [hany, if_true, List.find?_map, hmap, hfind, Option.map_some, hid, beq_self_eq_true, Option.getD_some]

@[simp] theorem fabAddr_setConn (c : Conn) (s : State) : fabAddr (setConn c s) = fabAddr s := rfl

@[simp] theorem fabAddr_bump (s : State) (k n : Nat) : fabAddr (s.bump k n) = fabAddr s := by simp [fabAddr]

@[simp] theorem connOf_bump (s : State) (k n : Nat) (id : ConnId) : connOf id (s.bump k n) = connOf id s := by simp [connOf]

theorem fab_of_sending {s t : State} (h : t.apartFromSending = s.apartFromSending) :
    fabAddr t = fabAddr s ∧ t.fab.partial_ = s.fab.partial_ := by
  have haddr := congrArg fabAddr h
  have hpartial := congrArg (fun s : State => s.fab.partial_) h
  exact ⟨haddr, hpartial⟩

/-- A frame to the own address changes no connection by being sent (assumption log 14). -/
theorem connOf_emitFrame_none (f : Frame) (s : State) (id : ConnId) : connOf id (emitFrame none f s) = connOf id s := by
  rw [show emitFrame none f s = if s.fab.enable = false then s else (s.bump kTx).emit (.loopback f) from rfl]
  split
  · rfl
  · exact connOf_bump s kTx 1 id

/-- An acknowledgement to the own address leaves the frames of its connection that wait for one. -/
theorem unacked_sendAck_self {id : ConnId} {s : State} (h : id.peer = fabAddr s) :
    (connOf id (sendAck id s)).unacked = (connOf id s).unacked := by
  have hsame := connOf_setConn_same (c := { connOf id s with owed := 0 }) (connOf_id id s) s
  unfold sendAck; dsimp only
  rw [if_pos (by rwa [fabAddr_setConn]), connOf_emitFrame_none, hsame]

/-- The sender of a frame is known by the own address and the connection's frames that wait. -/
theorem sentBy_congr {f : Frame} {s t : State} (ha : fabAddr t = fabAddr s)
    (hu : f.src = fabAddr s → (connOf (connIn f) t).unacked = (connOf (connIn f) s).unacked) : sentBy f t = sentBy f s := by
  simp only [sentBy, ha]
  split
  · next h => rw [hu h]
  · rfl

theorem sentBy_sendAck (f : Frame) (s : State) : sentBy f (sendAck (connIn f) s) = sentBy f s :=
  sentBy_congr (fab_of_sending (apartFromSending_sendAck _ _)).1 (fun h => unacked_sendAck_self h)

/-- A connection that has taken one more frame. -/
def heardOn (id : ConnId) (s : State) : Conn :=
  { connOf id s with expect := (connOf id s).expect + 1, owed := (connOf id s).owed + 1 }

/-- The state in which a connection has counted the frame f that it has taken, and has acknowledged 16 (R320). -/
def frameTaken (f : Frame) (s : State) : State :=
  let u := (setConn (heardOn (connIn f) s) s).bump kRx
  if 16 ≤ (heardOn (connIn f) s).owed then sendAck (connIn f) u else u

/-- A frame that this device takes reaches what its row does. -/
theorem receiveReliable_takesInOrder {l : Nat} {f : Frame} {s : State} (k : State → State) (h : s.takesInOrder l f = true) :
    receiveReliable l f s k = k (frameTaken f (takeAck (connIn f) f.ack (macReceive l f s))) := by
  simp only [State.takesInOrder, Bool.and_eq_true, beq_iff_eq] at h
  rw [receiveReliable, withFrame_hears _ h.1]
  dsimp only
  rw [if_pos h.2]
  rfl

theorem apartFromSending_frameTaken (f : Frame) (s : State) : (frameTaken f s).apartFromSending = s.apartFromSending := by
  unfold frameTaken; dsimp only; split <;> simp

theorem sentBy_frameTaken (f : Frame) (s : State) : sentBy f (frameTaken f s) = sentBy f s := by
  have hcounted : sentBy f ((setConn (heardOn (connIn f) s) s).bump kRx) = sentBy f s := by
    refine sentBy_congr (by simp) (fun _ => ?_)
    rw [connOf_bump, connOf_setConn_same (c := heardOn (connIn f) s) (connOf_id (connIn f) s)]
    rfl
  unfold frameTaken; dsimp only; split
  · exact (sentBy_sendAck f _).trans hcounted
  · exact hcounted

/-! ## Exchange bodies (R266, R327) -/

/-- The key under which the frames of a body of one sender are put together (assumption log 14). -/
def bodyKey (f : Frame) (sender : Option Nat) : Word :=
  BitVec.ofNat 32 (f.operation.toNat % 65536 + 65536 * sender.getD deviceOwner)

/-- What has come of the body of a key before the frame f. -/
def bodySoFar (f : Frame) (key : Word) (s : State) : Bytes :=
  match s.fab.partial_.find? (fun x => x.1 == f.src && x.2.1 == key) with
  | some x => x.2.2
  | none => []

/-- The bodies put together, without the one of a key. -/
def withoutBody (f : Frame) (key : Word) (s : State) : State :=
  modFab s (fun g => { g with partial_ := g.partial_.filter (fun x => !(x.1 == f.src && x.2.1 == key)) })

section
variable {f : Frame} {key : Word} {b : Bytes} {s : State} (hkey : key = bodyKey f (sentBy f s))
  (hb : b = bodySoFar f key s ++ f.payload)
include hkey hb

/-- A frame that does not complete its body is kept with what has come before it. -/
theorem exchangeLands_short (h : b.length < bodyBytes b) :
    exchangeLands f s =
      modFab (withoutBody f key s) (fun g => { g with partial_ := g.partial_ ++ [(f.src, key, b)] }) := by
  subst hkey hb
  exact if_neg (by exact Nat.not_le.mpr h)

/-- A whole body is delivered. -/
theorem exchangeLands_whole (h : bodyBytes b ≤ b.length) :
    exchangeLands f s = bodyIn f.src (sentBy f s) (b.take (bodyBytes b)) (withoutBody f key s) := by
  subst hkey hb
  exact if_pos h

end

section
variable {src : Half} {sender : Option Nat} {b : Bytes} {s : State} {here : Option (Nat × Partition)}
  (hhere : here = (s.parts.filter (fun e => awaitsBody src sender b e.2)).find? (fun e =>
    e.2.flight.map (fun x => x.plan.flight.toNat) == some (u32 b 12)))
include hhere

/-- A body that no partition awaits in its flight is at most counted (R266). -/
theorem bodyIn_unawaited (h : here = none) : (bodyIn src sender b s).apartFromReports = s.apartFromReports := by
  subst hhere
  simp only [bodyIn, h]
  split
  · rfl
  · exact apartFromReports_bump _ _ _

/-- A body that a partition awaits is held by its layer, and moves its job on. -/
theorem bodyIn_awaited {e : Nat × Partition} {m : Layer} (h : here = some e) (hm : layerOf e.2 (u16 b 0) = some m) :
    bodyIn src sender b s = mintAdvance e.1 (u16 b 0) 3 (setLayer e.1 (u16 b 0)
      { m with bodies := m.bodies ++ [{ shard := byteAt b 2, round := byteAt b 4, bytes := b }] } s) := by
  subst hhere
  simp only [bodyIn, h, hm]

end

section
variable {l : LinkNo} {f : Frame} {s : State} {sender : Option Nat} {key : Word} {b : Bytes} (hs : s.serves = true)
  (hwf : (Instr.mintExchangeReceived l f).wellFormed = true) (ht : s.takesInOrder l f = true)
  (hsender : sender = sentBy f (takeAck (connIn f) f.ack (macReceive l f s))) (hkey : key = bodyKey f sender)
  (hb : b = bodySoFar f key s ++ f.payload)
include hs hwf ht hsender hb

/-- What the frame of an exchange body finds, once its connection has taken it: a state that only the transport has changed. -/
theorem exec_mintExchangeReceived :
    ∃ u, exec (.mintExchangeReceived l f) s = .next (exchangeLands f u) ∧ u.apartFromSending = s.apartFromSending ∧
      sentBy f u = sender ∧ b = bodySoFar f key u ++ f.payload := by
  refine ⟨frameTaken f (takeAck (connIn f) f.ack (macReceive l f s)), ?_, ?_, ?_, ?_⟩
  · exact (whenUpWf_wf _ _ hwf).trans (whenUp_effect hs (receiveReliable_takesInOrder _ ht))
  · simp [apartFromSending_frameTaken]
  · rw [sentBy_frameTaken, hsender]
  · have hfab := (fab_of_sending (s := s) (t := frameTaken f (takeAck (connIn f) f.ack (macReceive l f s)))
      (by simp [apartFromSending_frameTaken])).2
    rw [bodySoFar, hfab]
    exact hb

include hkey

/-- A frame that does not complete its body is kept. -/
theorem exec_mintExchangeReceived_short (h : b.length < bodyBytes b) :
    ∃ t, exec (.mintExchangeReceived l f) s = .next t ∧ t.parts = s.parts ∧
      t.fab.partial_ = s.fab.partial_.filter (fun x => !(x.1 == f.src && x.2.1 == key)) ++ [(f.src, key, b)] := by
  obtain ⟨u, hx, hu, hfrom, hbody⟩ := exec_mintExchangeReceived hs hwf ht hsender hb
  rw [exchangeLands_short (by rw [hkey, hfrom]) hbody h] at hx
  have hparts : u.parts = s.parts := parts_of_sending hu
  exact ⟨_, hx, hparts, by rw [← (fab_of_sending hu).2]; rfl⟩

variable {body : Bytes} {here : Option (Nat × Partition)} (hwhole : bodyBytes b ≤ b.length)
  (hbody : body = b.take (bodyBytes b))
  (hhere : here = (s.parts.filter (fun e => awaitsBody f.src sender body e.2)).find? (fun e =>
    e.2.flight.map (fun x => x.plan.flight.toNat) == some (u32 body 12)))
include hwhole hbody hhere

/-- A whole body that no partition awaits leaves every layer alone. -/
theorem exec_mintExchangeReceived_unawaited (h : here = none) :
    ∃ t, exec (.mintExchangeReceived l f) s = .next t ∧ t.parts = s.parts ∧ s.sameStores t := by
  obtain ⟨u, hx, hu, hfrom, hb'⟩ := exec_mintExchangeReceived hs hwf ht hsender hb
  have hparts : u.parts = s.parts := parts_of_sending hu
  rw [← hparts] at hhere
  have hreports := bodyIn_unawaited (s := withoutBody f key u) hhere h
  rw [exchangeLands_whole (by rw [hkey, hfrom]) hb' hwhole, hfrom, ← hbody] at hx
  exact ⟨_, hx, (parts_of_reports hreports).trans hparts,
    (sameStores_of_sending hu).trans
      (State.sameStores.trans (t := withoutBody f key u) u.sameStores_refl (sameStores_of_reports hreports))⟩

/-- A whole body that a partition awaits for its flight in progress is held by its layer and moves its job on. -/
theorem exec_mintExchangeReceived_awaited {e : Nat × Partition} {m : Layer} (h : here = some e)
    (hm : layerOf e.2 (u16 body 0) = some m) :
    ∃ u, exec (.mintExchangeReceived l f) s = .next (mintAdvance e.1 (u16 body 0) 3 u) ∧
      layerOf (u.part e.1) (u16 body 0) = some { m with bodies := m.bodies ++
        [{ shard := byteAt body 2, round := byteAt body 4, bytes := body }] } ∧ s.sameStores u := by
  obtain ⟨u, hx, hu, hfrom, hb'⟩ := exec_mintExchangeReceived hs hwf ht hsender hb
  have hparts : u.parts = s.parts := parts_of_sending hu
  rw [← hparts] at hhere
  rw [exchangeLands_whole (by rw [hkey, hfrom]) hb' hwhole, hfrom, ← hbody,
    bodyIn_awaited (s := withoutBody f key u) hhere h hm] at hx
  exact ⟨_, hx, layerOf_setLayer_same _ _ _ (fun h => state_ne_undefined_of_layerOf hm h),
    (sameStores_of_sending hu).trans u.sameStores_refl⟩

end

end Sys2Proof.Machine

open Sys2Proof Sys2Proof.Machine

/-- Settles O48: the taking of UPDATE and STRIKE, the end of their striking, and the frames of exchange bodies, each from what
its command answers. -/
theorem updatesAndStrikesStageTheLayer : Obligations.UpdatesAndStrikesStageTheLayer := by
  refine ⟨fun n f p k s hs hm hp hk => ⟨fun hl => ?_, fun l hl => ⟨fun r hr => ?_, fun hf hj => ?_⟩⟩,
    fun n f p k s hs hm hp hk => ⟨fun hl => ?_, fun l hl => ⟨fun r hr => ?_, fun hj hroom => ?_, fun hj hroom => ?_⟩⟩,
    fun p k l j poisoned s hs hl hj hrun hround hp => ⟨fun hc => ?_, fun fault d h => ?_⟩,
    fun l f sender key have_ b s hs hwf ht hsender hkey hhave hb => ⟨fun h => ?_,
      fun body k here hwhole hbody hk hhere => ⟨fun h => ?_, fun e m h hm => ?_⟩⟩⟩
  · subst hp hk
    exact exec_update hs (updateTake_undefined hm hl)
  · subst hp hk
    exact exec_update hs (updateTake_rejects hm hl hr)
  · exact exec_update_runs hs hp hk hl hm hf hj
  · subst hp hk
    exact whenUp_effect hs (strikeTake_undefined hm hl)
  · subst hp hk
    exact whenUp_effect hs (strikeTake_rejects hm hl hr)
  · exact exec_strike_runs hs hp hk hl hm hj hroom
  · exact exec_strike_noRoom hs hp hk hl hm hj hroom
  · exact exec_updateStaged_clean hs hl hj hrun hround (hp.symm.trans hc)
  · subst hp
    obtain ⟨u, hx, hflights, hheld⟩ := exec_updateStaged_fault hs hl hj hrun hround h
    exact ⟨_, hx, poisonMint_leaves j d (state_ne_undefined_of_layerOf hl) hflights hheld⟩
  · subst hhave
    exact exec_mintExchangeReceived_short hs hwf ht hsender hkey hb h
  · subst hhave
    exact exec_mintExchangeReceived_unawaited hs hwf ht hsender hkey hb hwhole hbody hhere h
  · subst hhave hk
    exact exec_mintExchangeReceived_awaited hs hwf ht hsender hkey hb hwhole hbody hhere h hm
end

section
/-!
The ushers of 10_sparsity_and_sequences.md (O40): what the gate of a carried descriptor does with it, what each usher command
answers, and what an usher makes of the first descriptor of its queue.
-/
namespace Sys2Proof.Machine

/-! ## The gate of carried descriptors (R38 to R41) -/

section
variable {op n h : Nat} {hallField : Bytes → Nat} {f : Fetched} {s : State} (k : Fetched → Nat → Nat → State → State)

/-- A descriptor that its hall takes is given to its effect, with the owner of its ring. -/
theorem withCarried_admits (ha : s.admits op n hallField f h = true) :
    withCarried op n hallField s k = k f (s.ring n).owner h s := by
  simp only [State.admits, Bool.and_eq_true, beq_iff_eq, decide_eq_true_eq] at ha
  obtain ⟨⟨⟨hhead, rfl⟩, hgate⟩, hfits⟩ := ha
  have hceiling : ¬ ceiling s < u32 f.bytes 12 := by omega
  simp only [withCarried, ringPart, hhead, hgate, if_neg hceiling]
  exact if_pos hfits

theorem withCarried_bad {d : Nat} (hf : headOf op n s = some f)
    (hg : workGate (s.ring n).owner (BitVec.ofNat 32 (u32 f.bytes 8)) (bit (byteAt f.bytes 1) 2) s = .bad d) :
    withCarried op n hallField s k = rejectHead n f (badState d) s := by
  simp only [withCarried, ringPart, hf, hg]

theorem withCarried_wait (hf : headOf op n s = some f)
    (hg : workGate (s.ring n).owner (BitVec.ofNat 32 (u32 f.bytes 8)) (bit (byteAt f.bytes 1) 2) s = .wait) :
    withCarried op n hallField s k = holdHead n s := by
  simp only [withCarried, ringPart, hf, hg]

end

theorem opcode_of_admits {op n h : Nat} {hallField : Bytes → Nat} {f : Fetched} {s : State}
    (ha : s.admits op n hallField f h = true) : byteAt f.bytes 0 = op := by
  simp only [State.admits, Bool.and_eq_true, beq_iff_eq] at ha
  exact (headOf_some ha.1.1.1).2.2.1

/-- Admitting work charges its cost to its hall. -/
@[simp] theorem hall_admitWork_same (w : Work) (s : State) :
    (admitWork w s).hall w.hall = { s.hall w.hall with cost := (s.hall w.hall).cost + w.cost } :=
  tget_tset_same Hall.atReset s.halls w.hall _

/-! ## Usher descriptors admitted (R284) -/

/-- The usher commands on a ring, each with its opcode. -/
def usherCommands (n : RingNo) : List (Instr × Nat) :=
  [(.route n, 0x50), (.dispatch n, 0x51), (.combine n, 0x52), (.embGather n, 0x53), (.embSegsum n, 0x54)]

/-- All usher commands have one meaning, by their opcodes. -/
theorem exec_usherCommand {n : RingNo} {c : Instr} {op : Nat} (hc : (c, op) ∈ usherCommands n) (s : State) :
    exec c s = whenUp s (usherEffect op n) := by
  simp only [usherCommands, List.mem_cons, Prod.mk.injEq, List.not_mem_nil, or_false] at hc
  obtain ⟨rfl, rfl⟩ | ⟨rfl, rfl⟩ | ⟨rfl, rfl⟩ | ⟨rfl, rfl⟩ | ⟨rfl, rfl⟩ := hc <;> rfl

/-- An usher command answers what its ring's head comes to, after which the ushers go on. -/
theorem exec_usherCommand_of_admit {n : RingNo} {c : Instr} {op : Nat} {s t : State} (hs : s.serves = true)
    (hc : (c, op) ∈ usherCommands n) (ht : usherAdmit op n s = t) : exec c s = .next (ushersGo op n t) :=
  (exec_usherCommand hc s).trans (whenUp_effect hs (congrArg (ushersGo op n) ht))

section
variable {op n h : Nat} {f : Fetched} {s : State} (ha : s.admits op n (fun b => 256 + byteAt b 16) f h = true)
include ha

theorem usherAdmit_ok {ls : List ReadLease} (hl : usherLayer (s.ring n).owner f.bytes s = .ok ls) :
    usherAdmit op n s = admitWork (newWork s n f (s.ring n).owner h (u32 f.bytes 12) ls) (popHead n s) := by
  simp only [usherAdmit, withCarried_admits _ ha, hl]

theorem usherAdmit_error {e : Reject} (hl : usherLayer (s.ring n).owner f.bytes s = .error e) :
    usherAdmit op n s = rejectHead n f e s := by
  simp only [usherAdmit, withCarried_admits _ ha, hl]

end

/-- An usher descriptor that its usher takes ends the usher's queue, and charges its cost. -/
theorem exec_usherCommand_queues {n : RingNo} {c : Instr} {op h : Nat} {f : Fetched} {ls : List ReadLease} {s : State}
    (hs : s.serves = true) (hc : (c, op) ∈ usherCommands n) (ha : s.admits op n (fun b => 256 + byteAt b 16) f h = true)
    (hl : usherLayer (s.ring n).owner f.bytes s = .ok ls) :
    ∃ (u : State) (w : Work), exec c s = .next (ushersGo op n u) ∧ u.work = s.work ++ [w] ∧ w.id = s.nextId ∧
      w.ring = n ∧ w.tag = f.tag ∧ w.opcode = op ∧ w.bytes = f.bytes ∧ w.hall = h ∧ w.leases = ls ∧ w.ready = none ∧
      u.nextId = s.nextId + 1 ∧ (u.hall h).cost = (s.hall h).cost + u32 f.bytes 12 ∧ u.parts = s.parts ∧
      u.tallies = s.tallies ∧ s.sameStores u :=
  ⟨_, newWork s n f (s.ring n).owner h (u32 f.bytes 12) ls, exec_usherCommand_of_admit hs hc (usherAdmit_ok ha hl), rfl, rfl,
    rfl, rfl, opcode_of_admits ha, rfl, rfl, rfl, rfl, rfl,
    congrArg Hall.cost (hall_admitWork_same (newWork s n f (s.ring n).owner h (u32 f.bytes 12) ls) (popHead n s)), rfl, rfl,
    s.sameStores_refl⟩

/-! ## Writes of HBM -/

@[simp] theorem hbm_hbmWrite (a : Nat) (bs : Bytes) (s : State) : (hbmWrite a bs s).hbm = s.hbm.write a bs :=
  congrArg (fun h : Held => h.hbm.write a bs) (held_snoopLines a bs.length s)

/-- What writes make of HBM depends on its bytes alone. -/
theorem hbm_hbmWrites (ws : List (Nat × Bytes)) (s : State) :
    (ws.foldl (fun s x => hbmWrite x.1 x.2 s) s).hbm = ws.foldl (fun m x => m.write x.1 x.2) s.hbm :=
  (List.foldl_hom State.hbm (fun s x => (hbm_hbmWrite x.1 x.2 s).symm)).symm

/-! ## What an usher runs (R284, R285) -/

/-- A work item put in place of the one of its number is found there. -/
theorem work?_setWork {s : State} {w : Work} (h : (s.work? w.id).isSome = true) : (s.setWork w).work? w.id = some w := by
  have hsame : ((fun x : Work => x.id == w.id) ∘ fun x => if x.id == w.id then w else x) = fun x => x.id == w.id := by
    funext x
    by_cases hx : x.id = w.id <;> simp [hx]
  obtain ⟨x, hx⟩ := Option.isSome_iff_exists.mp h
  have hid : x.id = w.id := by simpa using List.find?_some hx
  simp only [State.work?] at hx
  simp only [State.work?, State.setWork, List.find?_map, hsame, hx, Option.map_some, hid, beq_self_eq_true, if_true]

/-- What operations on pages may change is no matter of the admitted work. -/
theorem work?_of_apartFromPages {s t : State} (h : t.apartFromPages = s.apartFromPages) (id : Nat) :
    t.work? id = s.work? id := by
  have k := congrArg (fun s => State.work? s id) h
  exact k

/-- The state in which the cycles and counters of an usher descriptor have been found, with nothing written yet. -/
def usherCounted (w : Work) (s : State) : State :=
  if w.opcode = 0x50 then routeCounts w.bytes (usherRun w s) (usherCharge w s).2 else (usherCharge w s).2

/-- The results of an usher descriptor written. -/
def usherWritten (w : Work) (s : State) : State :=
  (usherRun w s).writes.foldl (fun s x => hbmWrite x.1 x.2 s) (usherCounted w s)

/-- An usher descriptor whose results are written, with what its completion is to report. -/
def usherReady (w : Work) (s : State) : Work :=
  { w with
    started := true, left := w.left - (usherCharge w s).1,
    ready := some ((usherRun w s).status, (usherRun w s).detail, BitVec.ofNat 64 (usherRun w s).result,
      BitVec.ofNat 64 (usherRun w s).aux) }

/-- The first descriptor of a queue that may run and ends with DONE writes its results at once and waits for the last write
(assumption log 47). -/
theorem usherStart_runs {g : Nat} {w : Work} {s : State} (hw : usherHead g s = some w) (hready : w.ready = none)
    (hmet : tailMet w.bytes s = true) (hlive : partLive (s.part w.part) = true) (hdone : (usherRun w s).status = 0) :
    usherStart g s = (usherWritten w s).setWork (usherReady w s) := by
  have hpoison : ¬ (usherRun w s).status = 0x30 := by omega
  simp only [usherStart, hw, hready, hmet, hlive, Option.isSome_none, Bool.not_true, Bool.or_false, Bool.false_eq_true,
    if_false, if_neg hpoison]
  rfl

theorem apartFromPages_usherCounted (w : Work) (s : State) : (usherCounted w s).apartFromPages = s.apartFromPages := by
  have hcharge : (usherCharge w s).2.apartFromPages = s.apartFromPages := by unfold usherCharge; split <;> rfl
  have hroute : (routeCounts w.bytes (usherRun w s) (usherCharge w s).2).apartFromPages = s.apartFromPages := by
    unfold routeCounts; split <;> simp [hcharge]
  unfold usherCounted; split
  · exact hroute
  · exact hcharge

/-- An usher's results change HBM, what goes with its writes, and counters. -/
theorem apartFromPages_usherWritten (w : Work) (s : State) : (usherWritten w s).apartFromPages = s.apartFromPages :=
  (foldl_keeps State.apartFromPages (fun s (x : Nat × Bytes) => hbmWrite x.1 x.2 s)
    (fun s x => apartFromPages_hbmWrite x.1 x.2 s) _ _).trans
    (apartFromPages_usherCounted w s)

theorem hbm_usherCounted (w : Work) (s : State) : (usherCounted w s).hbm = s.hbm := by
  have hheld : (usherCounted w s).held = s.held := by unfold usherCounted; split <;> simp
  exact congrArg Held.hbm hheld

theorem hbm_usherWritten (w : Work) (s : State) :
    (usherWritten w s).hbm = ((usherRun w s).writes.foldl (fun s x => hbmWrite x.1 x.2 s) s).hbm := by
  rw [usherWritten, hbm_hbmWrites, hbm_hbmWrites, hbm_usherCounted]

/-- The item of a descriptor whose results are written is found ready, and no partition has changed. -/
theorem usherWritten_leaves {w : Work} {s : State} (hw : s.work? w.id = some w) :
    ((usherWritten w s).setWork (usherReady w s)).work? w.id = some (usherReady w s) ∧
      (usherWritten w s).parts = s.parts := by
  have hpages := apartFromPages_usherWritten w s
  refine ⟨work?_setWork (w := usherReady w s) ?_, (fields_of_apartFromPages hpages).2.1⟩
  exact Option.isSome_iff_exists.mpr ⟨w, (work?_of_apartFromPages hpages w.id).trans hw⟩

/-- The last HBM write of a descriptor whose results are written counts its signal tally after DONE, completes it, and lets
its usher go on. -/
theorem usherLastEffect_ready {g : Nat} {w : Work} {st d : Nat} {r a : Word64} {s : State} (hw : usherHead g s = some w)
    (hready : w.ready = some (st, d, r, a)) :
    usherLastEffect g s = usherStart g (finish w.ring w.tag st d r.toNat a.toNat
      ((if st = 0 then tailSignal w.bytes s else s).dropWork w.id)) := by
  simp only [usherLastEffect, hw, hready]

end Sys2Proof.Machine

open Sys2Proof Sys2Proof.Machine

/-- Settles O40: what each usher command answers, by what becomes of its ring's head; then what the first descriptor of a queue
computes, and its last write. -/
theorem ushersTakeTheirQueueInOrder : Obligations.UshersTakeTheirQueueInOrder := by
  refine ⟨fun n f h ls s c op hs hc ha hl => exec_usherCommand_queues hs hc ha hl,
    fun n f h s c op hs hc => ⟨fun e ha hl => ?_, fun d hf hg => ?_, fun hf hg => ?_⟩,
    fun g w s hw hitem hready hmet hlive hdone => ?_, fun g w st d r a s hs hw hready => ?_⟩
  · exact exec_usherCommand_of_admit hs hc (usherAdmit_error ha hl)
  · exact exec_usherCommand_of_admit hs hc (withCarried_bad _ hf hg)
  · exact exec_usherCommand_of_admit hs hc (withCarried_wait _ hf hg)
  · obtain ⟨hfound, hparts⟩ := usherWritten_leaves hitem
    rw [usherStart_runs hw hready hmet hlive hdone]
    exact ⟨usherReady w s, hfound, rfl, by rw [usherReady, hdone], hbm_usherWritten w s, hparts⟩
  · exact whenUp_effect hs (usherLastEffect_ready hw hready)
end

section
/-!
The sequence settings of 10_sparsity_and_sequences.md (O29): settings that nothing stands in the way of, Table 10-10, and the
ends of a slot's copies and of a page's zero-fill.
-/
namespace Sys2Proof.Machine

/-! ## Settings held pending (R58, R59) -/

section
variable {n : Nat} {f : Fetched} {kinds : List (Nat × SettingKind)} {s : State}

theorem targetPassed_of_settingsClear (h : settingsClear n f kinds s = true) :
    targetPassed (s.ring n).owner (BitVec.ofNat 32 (u32 f.bytes 8)) s = none := by
  simp only [settingsClear, Bool.and_eq_true, Option.isNone_iff_eq_none] at h
  exact h.1

/-- Clear settings replace none that pends. -/
theorem filter_sameLanding_of_settingsClear (h : settingsClear n f kinds s = true) :
    s.settings.filter (fun x => kinds.any (fun k => sameLanding n k.1 (BitVec.ofNat 32 (u32 f.bytes 8)) k.2 s x)) = [] := by
  simp only [settingsClear, Bool.and_eq_true, List.all_eq_true, Bool.not_eq_true'] at h
  refine List.filter_eq_nil_iff.mpr fun x hx hany => ?_
  obtain ⟨k, hk, hsame⟩ := List.any_eq_true.mp hany
  exact Bool.false_ne_true ((h.2 x hx k hk).symm.trans hsame)

/-- Settings that nothing stands in the way of are held pending. -/
theorem pendSettings_clear (h : settingsClear n f kinds s = true) : pendSettings n f kinds s = pended n f kinds s := by
  simp only [pendSettings, targetPassed_of_settingsClear h, filter_sameLanding_of_settingsClear h, List.any_nil,
    Bool.false_eq_true, if_false, List.foldl_nil]
  rfl

/-- The setting just accepted pends. -/
theorem settings_any_pended (p : Nat) (kind : SettingKind) :
    (pended n f [(p, kind)] s).settings.any (fun y => y.ring == n && y.tag == f.tag) = true := by
  simp [pended]

end

/-! ## Sequence settings (R299, R303, R304, Table 10-10) -/

theorem seqMove_join_eq_none {st : SeqState} (h : st ≠ .free) : seqMove 0x58 st = none := by
  cases st with
  | free => exact absurd rfl h
  | _ => rfl

theorem seqMove_leave_eq_some {st : SeqState} (h : st = .running ∨ st = .parked) : seqMove 0x59 st = some .leaving := by
  rcases h with rfl | rfl <;> rfl

theorem seqMove_leave_eq_none {st : SeqState} (hr : st ≠ .running) (hp : st ≠ .parked) : seqMove 0x59 st = none := by
  cases st with
  | running => exact absurd rfl hr
  | parked => exact absurd rfl hp
  | _ => rfl

theorem seqMove_park_eq_none {st : SeqState} (h : st ≠ .running) : seqMove 0x5A st = none := by
  cases st with
  | running => exact absurd rfl h
  | _ => rfl

theorem seqMove_unpark_eq_none {st : SeqState} (h : st ≠ .parked) : seqMove 0x5B st = none := by
  cases st with
  | parked => exact absurd rfl h
  | _ => rfl

/-- SEQ_PRIO leaves the state of its slot. -/
theorem seqMove_prio_eq_some {st : SeqState} (hf : st ≠ .free) (hl : st ≠ .leaving) : seqMove 0x5C st = some st := by
  cases st with
  | free => exact absurd rfl hf
  | leaving => exact absurd rfl hl
  | _ => rfl

theorem seqMove_prio_eq_none {st : SeqState} (h : st = .free ∨ st = .leaving) : seqMove 0x5C st = none := by
  rcases h with rfl | rfl <;> rfl

section
variable {op n : Nat} {f : Fetched} {kind : Bytes → SettingKind} {s : State} (hf : headOf op n s = some f)
include hf

/-- A sequence setting in a state that Table 10-10 allows, with nothing in its way, is held pending and moves its slot. -/
theorem seqEffect_moves {st : SeqState}
    (hm : seqMove op (seqOf (s.part (s.ring n).owner) (u16 f.bytes 16)).state = some st)
    (hc : settingsClear n f [((s.ring n).owner, kind f.bytes)] s = true) :
    seqEffect op n kind s = setSeq (s.ring n).owner (u16 f.bytes 16)
      (if op = 0x58 then joiningSlot f.bytes else { seqOf (s.part (s.ring n).owner) (u16 f.bytes 16) with state := st })
      (pended n f [((s.ring n).owner, kind f.bytes)] s) := by
  simp only [seqEffect, withSetting, ringPart, hf, hm, targetPassed_of_settingsClear hc, pendSettings_clear hc,
    settings_any_pended, if_true]

/-- In the other states it completes with BAD_STATE and the slot's state code. -/
theorem seqEffect_refuses (hm : seqMove op (seqOf (s.part (s.ring n).owner) (u16 f.bytes 16)).state = none) :
    seqEffect op n kind s =
      rejectHead n f (badState (seqOf (s.part (s.ring n).owner) (u16 f.bytes 16)).state.code) s := by
  simp only [seqEffect, withSetting, ringPart, hf, hm]

end

/-! ## Ends of copies and zero-fills (R307, assumption log 94) -/

section
variable {n : Nat} {s : State} (hp : slotHolder n s < 8) (hc : (seqOf (s.part (slotHolder n s)) n).copying ≠ [])
include hp hc

/-- The copies of a slot end: an unpark copy's, whose slot holds pages again, also gives up what the slot parked. -/
theorem parkEndEffect_ends :
    parkEndEffect n s = setSeq (slotHolder n s) n
      (if heldPages (seqOf (s.part (slotHolder n s)) n) = [] then { seqOf (s.part (slotHolder n s)) n with copying := [] }
      else { seqOf (s.part (slotHolder n s)) n with copying := [], extents := 0, parked := [], parkedPoison := [] }) s := by
  have hholder : ¬ 8 ≤ slotHolder n s := by omega
  simp only [parkEndEffect, if_neg hholder, List.isEmpty_iff, if_neg hc]
  split <;> rfl

end

section
variable {p pg : Nat} {s : State}

/-- A page that no park copy has yet to read is free of its zero-fill. -/
theorem zeroEndEffect_frees
    (h : (s.part p).seqs.any (fun e => e.2.copying.contains pg && !(heldPages e.2).contains pg) = false) :
    zeroEndEffect p pg s = s.setPart p { s.part p with zeroing := (s.part p).zeroing.filter (· != pg) } := by
  simp only [zeroEndEffect, h, Bool.false_eq_true, if_false]

theorem zeroEndEffect_waits
    (h : (s.part p).seqs.any (fun e => e.2.copying.contains pg && !(heldPages e.2).contains pg) = true) :
    zeroEndEffect p pg s = s := by
  simp only [zeroEndEffect, h, if_true]

end

end Sys2Proof.Machine

open Sys2Proof Sys2Proof.Machine

/-- Settles O29: Table 10-10 row by row, then the ends of a slot's copies and of a page's zero-fill. -/
theorem sequenceSettingsMoveTheirSlot : Obligations.SequenceSettingsMoveTheirSlot := by
  refine ⟨fun n f p k b x s hs hp hb hk hx => ?_, fun n p x s hs hp hlt hx hcopy => ?_, fun p pg q s hs hq => ?_⟩
  · subst hp hb hk hx
    refine ⟨fun hf hst kind hkind hc => ?_, fun hf hst hc => ?_, fun hf hst hc => ?_, fun hf hst hc => ?_,
      fun hf hfree hleaving hc => ?_, fun hf hst => ?_, fun hf hrun hparked => ?_, fun hf hst => ?_, fun hf hst => ?_,
      fun hf hst => ?_⟩
    · subst hkind
      exact whenUp_effect hs (seqEffect_moves (st := .joining) hf (by rw [hst]; rfl) hc)
    · exact whenUp_effect hs (seqEffect_moves hf (seqMove_leave_eq_some hst) hc)
    · exact whenUp_effect hs (seqEffect_moves (st := .parking) hf (by rw [hst]; rfl) hc)
    · exact whenUp_effect hs (seqEffect_moves (st := .unparking) hf (by rw [hst]; rfl) hc)
    · exact whenUp_effect hs (seqEffect_moves hf (seqMove_prio_eq_some hfree hleaving) hc)
    · exact whenUp_effect hs (seqEffect_refuses hf (seqMove_join_eq_none hst))
    · exact whenUp_effect hs (seqEffect_refuses hf (seqMove_leave_eq_none hrun hparked))
    · exact whenUp_effect hs (seqEffect_refuses hf (seqMove_prio_eq_none hst))
    · exact whenUp_effect hs (seqEffect_refuses hf (seqMove_park_eq_none hst))
    · exact whenUp_effect hs (seqEffect_refuses hf (seqMove_unpark_eq_none hst))
  · subst hp hx
    refine ⟨fun h => ?_, fun h => ?_⟩
    · exact whenUp_effect hs ((parkEndEffect_ends hlt hcopy).trans (by rw [if_pos h]))
    · exact whenUp_effect hs ((parkEndEffect_ends hlt hcopy).trans (by rw [if_neg h]))
  · subst hq
    exact ⟨fun h => whenUp_effect hs (zeroEndEffect_frees h), fun h => whenUp_effect hs (zeroEndEffect_waits h)⟩
end

section
/-!
DATA and CREDIT of 11_fabric_and_collectives.md (O54): what a reliable frame finds once its connection has taken it, where the
DATA of collectives and queues lands, and what a CREDIT gives.
-/
namespace Sys2Proof.Machine

/-! ## What a reliable frame finds (R320) -/

/-- The state that the frame f from link l finds in s, once its connection has taken it. -/
def arrival (l : Nat) (f : Frame) (s : State) : State := frameTaken f (takeAck (connIn f) f.ack (macReceive l f s))

theorem apartFromSending_arrival (l : Nat) (f : Frame) (s : State) :
    (arrival l f s).apartFromSending = s.apartFromSending := by
  simp [arrival, apartFromSending_frameTaken]

theorem parts_arrival (l : Nat) (f : Frame) (s : State) : (arrival l f s).parts = s.parts :=
  parts_of_sending (apartFromSending_arrival l f s)

theorem work_of_sending {s t : State} (h : t.apartFromSending = s.apartFromSending) : t.work = s.work := by
  have k := congrArg State.work h
  exact k

theorem work_arrival (l : Nat) (f : Frame) (s : State) : (arrival l f s).work = s.work :=
  work_of_sending (apartFromSending_arrival l f s)

theorem sameStores_arrival (l : Nat) (f : Frame) (s : State) : s.sameStores (arrival l f s) :=
  sameStores_of_sending (apartFromSending_arrival l f s)

/-- The queue that a frame belongs to is the one it belonged to before its connection counted it. -/
theorem queueIn_arrival (receive : Bool) (l : Nat) (f : Frame) (s : State) :
    queueIn receive f (arrival l f s) = queueIn receive f (takeAck (connIn f) f.ack (macReceive l f s)) := by
  have hparts : (arrival l f s).parts = (takeAck (connIn f) f.ack (macReceive l f s)).parts :=
    parts_of_sending (apartFromSending_frameTaken f _)
  simp only [queueIn, hparts]
  simp only [arrival, sentBy_frameTaken]

/-- The answer of a command that hands a reliable frame to `k` and then lets every CLEAR go on. -/
theorem receive_next {s : State} {ok : Bool} {l : Nat} {f : Frame} (m : String) (k : State → State) (hs : s.serves = true)
    (hwf : ok = true) (ht : s.takesInOrder l f = true) :
    whenUpWf ok m s (fun s => clearsRun (receiveReliable l f s k)) = .next (clearsRun (k (arrival l f s))) :=
  (whenUpWf_wf _ _ hwf).trans (whenUp_effect hs (congrArg clearsRun (receiveReliable_takesInOrder k ht)))

/-! ## DATA of a collective (R334) -/

theorem groupIn_of_parts {s t : State} (h : t.parts = s.parts) (digest : Word) (rank : Nat) :
    groupIn digest rank t = groupIn digest rank s := by simp only [groupIn, h]

theorem groupOf_of_parts {s t : State} (h : t.parts = s.parts) (w : Work) : groupOf w t = groupOf w s := by
  simp only [groupOf, part_of_parts h]

theorem clearOf_arrival (digest : Word) (rank : Nat) (tag : Word) (l : Nat) (f : Frame) (s : State) :
    clearOf digest rank tag (arrival l f s) = clearOf digest rank tag s := by
  simp only [clearOf, work_arrival, groupOf_of_parts (parts_arrival l f s)]

/-- A CLEAR that a frame belongs to is a work item. -/
theorem work?_isSome_of_clearOf {digest : Word} {rank : Nat} {tag : Word} {w : Work} {s : State}
    (h : clearOf digest rank tag s = some w) : (s.work? w.id).isSome = true :=
  List.find?_isSome.mpr ⟨w, List.mem_of_find?_eq_some h, by simp⟩

/-- A started CLEAR with the bytes of the DATA frame f counted for their sender. -/
def countedFrom (f : Frame) (w : Work) : Work :=
  { w with arrived := tset w.arrived f.senderRank (tget 0 w.arrived f.senderRank + f.payload.length) }

section
variable {f : Frame} {p : Nat} {s : State} (hg : groupIn f.txn f.receiverRank s = some p)
include hg

/-- DATA for a started CLEAR lands at the address named for its sender, and counts. -/
theorem dataLands_started {w : Work} {a : Nat} (hw : clearOf f.txn f.receiverRank f.operation s = some w)
    (ha : a = landAddress w (groupOf w s) f.senderRank + 64 * f.offset.toNat) :
    (dataLands f s).hbm = s.hbm.write a f.payload ∧ (dataLands f s).work? w.id = some (countedFrom f w) ∧
      (dataLands f s).parts = s.parts ∧ (dataLands f s).pads = s.pads := by
  have hlands : dataLands f s = (hbmWrite a f.payload s).setWork (countedFrom f w) := by
    simp only [dataLands, hg, hw, ha]
    rfl
  have hpages := apartFromPages_hbmWrite a f.payload s
  obtain ⟨-, hparts, hpads, -⟩ := fields_of_apartFromPages hpages
  have hfound : ((hbmWrite a f.payload s).work? w.id).isSome = true := by
    rw [work?_of_apartFromPages hpages]
    exact work?_isSome_of_clearOf hw
  rw [hlands]
  exact ⟨hbm_hbmWrite a f.payload s, work?_setWork (w := countedFrom f w) hfound, hparts, hpads⟩

theorem dataLands_unstarted (hw : clearOf f.txn f.receiverRank f.operation s = none) : dataLands f s = s := by
  simp only [dataLands, hg, hw]

end

section
variable {l : LinkNo} {f : Frame} {p : Nat} {s : State} (hs : s.serves = true)
  (hwf : (Instr.collectiveData l f).wellFormed = true) (ht : s.takesInOrder l f = true)
  (hg : groupIn f.txn f.receiverRank s = some p)
include hs hwf ht hg

theorem exec_collectiveData_started {w : Work} (hw : clearOf f.txn f.receiverRank f.operation s = some w) :
    ∃ u, exec (.collectiveData l f) s = .next (clearsRun u) ∧
      u.hbm = s.hbm.write (landAddress w (groupOf w s) f.senderRank + 64 * f.offset.toNat) f.payload ∧
      u.work? w.id = some (countedFrom f w) ∧ u.parts = s.parts ∧ u.pads = s.pads := by
  have hparts := parts_arrival l f s
  obtain ⟨hhbm, -, hpads, -⟩ := sameStores_arrival l f s
  have hlands := dataLands_started ((groupIn_of_parts hparts _ _).trans hg) ((clearOf_arrival _ _ _ l f s).trans hw) rfl
  rw [hhbm, hparts, hpads, groupOf_of_parts hparts] at hlands
  exact ⟨_, receive_next _ (dataLands f) hs hwf ht, hlands⟩

/-- DATA that no started CLEAR awaits changes nothing but its connection. -/
theorem exec_collectiveData_unstarted (hw : clearOf f.txn f.receiverRank f.operation s = none) :
    ∃ u, exec (.collectiveData l f) s = .next (clearsRun u) ∧ u.apartFromSending = s.apartFromSending := by
  have hlands := dataLands_unstarted (s := arrival l f s) ((groupIn_of_parts (parts_arrival l f s) _ _).trans hg)
    ((clearOf_arrival _ _ _ l f s).trans hw)
  exact ⟨_, receive_next _ (dataLands f) hs hwf ht, by rw [hlands, apartFromSending_arrival]⟩

end

/-! ## Queues (R335) -/

theorem queueOf_of_parts {s t : State} (h : t.parts = s.parts) (p n : Nat) : queueOf p n t = queueOf p n s := by
  simp only [queueOf, part_of_parts h]

/-- An entry of the queue map put in place is found there. -/
theorem queueOf_setQueue {p n : Nat} {x : Queue} {s : State} (y : Queue) (h : queueOf p n s = some x) :
    queueOf p n (setQueue p n y s) = some y := by
  obtain ⟨hn, -⟩ := List.getElem?_eq_some_iff.mp h
  simp [queueOf, setQueue, setAt, hn]

theorem sameStores_setQueue (p n : Nat) (x : Queue) (s : State) : s.sameStores (setQueue p n x s) := s.sameStores_refl

/-- A queue that has received the payload of the DATA frame f: the frame that ends its message completes it. -/
def queueFilled (f : Frame) (x : Queue) : Queue :=
  if f.payload.length < 8192 ∨ x.arrived + f.payload.length = x.entryBytes then
    { x with arrived := 0, complete := x.complete ++ [x.arrived + f.payload.length] }
  else { x with arrived := x.arrived + f.payload.length }

/-- The address at which the DATA frame f of a queue lands. -/
def queueAddress (f : Frame) (x : Queue) : Nat :=
  x.buffer + (x.begun + x.complete.length) % x.depth * x.entryBytes + 64 * f.offset.toNat

/-- DATA of a queue fills the slot of its push. -/
theorem queueLands_fills {f : Frame} {p : Nat} {x : Queue} {s : State} (hq : queueIn true f s = some (p, x))
    (hx : queueOf p f.operation.toNat s = some x) :
    queueOf p f.operation.toNat (queueLands f s) = some (queueFilled f x) ∧
      (queueLands f s).hbm = s.hbm.write (queueAddress f x) f.payload := by
  have hlands : queueLands f s =
      setQueue p f.operation.toNat (queueFilled f x) (hbmWrite (queueAddress f x) f.payload s) := by
    simp only [queueLands, hq, queueFilled, queueAddress]
    split <;> rfl
  obtain ⟨-, hparts, -, -⟩ := fields_of_apartFromPages (apartFromPages_hbmWrite (queueAddress f x) f.payload s)
  rw [hlands]
  exact ⟨queueOf_setQueue _ ((queueOf_of_parts hparts p _).trans hx), hbm_hbmWrite (queueAddress f x) f.payload s⟩

/-- A queue with the credits that the CREDIT f gives. -/
def credited (f : Frame) (x : Queue) : Queue := { x with credits := min x.depth (x.credits + u32 f.payload 0) }

theorem creditLands_some {f : Frame} {p : Nat} {x : Queue} {s : State} (hq : queueIn false f s = some (p, x)) :
    creditLands f s = setQueue p f.operation.toNat (credited f x) s := by
  simp only [creditLands, hq, credited]

section
variable {l : LinkNo} {f : Frame} {p : Nat} {x : Queue} {s : State} (hs : s.serves = true) (ht : s.takesInOrder l f = true)
  (hx : queueOf p f.operation.toNat s = some x)
include hs ht hx

theorem exec_queueData (hwf : (Instr.queueData l f).wellFormed = true)
    (hq : queueIn true f (takeAck (connIn f) f.ack (macReceive l f s)) = some (p, x)) :
    ∃ u, exec (.queueData l f) s = .next (clearsRun u) ∧ queueOf p f.operation.toNat u = some (queueFilled f x) ∧
      u.hbm = s.hbm.write (queueAddress f x) f.payload := by
  have hfills := queueLands_fills ((queueIn_arrival true l f s).trans hq)
    ((queueOf_of_parts (parts_arrival l f s) p _).trans hx)
  rw [(sameStores_arrival l f s).1] at hfills
  exact ⟨_, receive_next _ (queueLands f) hs hwf ht, hfills⟩

/-- A CREDIT gives its credits, at most the depth of the queue. -/
theorem exec_creditReceived (hwf : (Instr.creditReceived l f).wellFormed = true)
    (hq : queueIn false f (takeAck (connIn f) f.ack (macReceive l f s)) = some (p, x)) :
    ∃ u, exec (.creditReceived l f) s = .next (clearsRun u) ∧
      queueOf p f.operation.toNat u = some (credited f x) ∧ s.sameStores u := by
  have hlands := creditLands_some ((queueIn_arrival false l f s).trans hq)
  have hfound := (queueOf_of_parts (parts_arrival l f s) p f.operation.toNat).trans hx
  refine ⟨_, receive_next _ (creditLands f) hs hwf ht, ?_⟩
  rw [hlands]
  exact ⟨queueOf_setQueue _ hfound, (sameStores_arrival l f s).trans (sameStores_setQueue ..)⟩

end

end Sys2Proof.Machine

open Sys2Proof Sys2Proof.Machine

/-- Settles O54: DATA of a collective with and without its CLEAR, DATA of a queue, and CREDIT, each from what its command
answers. -/
theorem dataLandsWhereItWasNamed : Obligations.DataLandsWhereItWasNamed := by
  refine ⟨fun l f p s hs hwf ht hg => ⟨fun w hw => ?_, fun hw => ?_⟩, fun l f p n x s hs hwf ht hn hq hx => ?_,
    fun l f p n x s hs hwf ht hn hq hx => ?_⟩
  · exact exec_collectiveData_started hs hwf ht hg hw
  · exact exec_collectiveData_unstarted hs hwf ht hg hw
  · subst hn
    obtain ⟨u, hnext, hqueue, hhbm⟩ := exec_queueData hs ht hx hwf hq
    exact ⟨u, _, hnext, hqueue, hhbm, fun h => by simp [queueFilled, h],
      fun h8 he => by simp [queueFilled, Nat.not_lt.mpr h8, he]⟩
  · subst hn
    exact exec_creditReceived hs ht hx hwf hq
end

section
/-!
HELLO and neighbours of 11_fabric_and_collectives.md (O51): what the sending of frames can change of links, ports, neighbours
and connections, and then what each command on HELLOs answers.
-/
namespace Sys2Proof.Machine

/-! ## What reports leave: outputs only grow -/

theorem out_sendHost (o : Output) (s : State) : s.out <+: (sendHost o s).out := by
  unfold sendHost; split
  · exact List.prefix_refl _
  · exact List.prefix_append _ _

theorem out_fireVector (v : Nat) (s : State) : s.out <+: (fireVector v s).out := by
  unfold fireVector; dsimp only; split
  · exact List.prefix_refl _
  · exact out_sendHost _ s

theorem out_countEntry (n : Nat) (s : State) : s.out <+: (countEntry n s).out := by
  unfold countEntry; dsimp only; split
  · exact out_fireVector _ (s.setRing n _)
  · exact List.prefix_refl _

/-- A record written goes to the host, and the control block after it. -/
theorem out_writeRec (n : Nat) (x : Rec) (s : State) : s.out <+: (writeRec n x s).out :=
  (out_sendHost _ (s.setRing n _)).trans (out_sendHost _ _)

theorem out_writeEvent (n : Nat) (e : Evt) (s : State) : s.out <+: (writeEvent n e s).out :=
  (out_writeRec n _ s).trans (out_countEntry n _)

theorem out_drainEvents (n fuel : Nat) (s : State) : s.out <+: (drainEvents n fuel s).out := by
  induction fuel generalizing s with
  | zero => exact List.prefix_refl _
  | succ k ih =>
    unfold drainEvents; dsimp only; split
    · split
      · exact (out_writeEvent n _ (s.setRing n _)).trans (ih _)
      · split
        · exact List.prefix_refl _
        · exact (out_writeEvent n _ (s.setRing n _)).trans (ih _)
    · exact List.prefix_refl _

@[simp] theorem out_bump (s : State) (k n : Nat) : (s.bump k n).out = s.out := by unfold State.bump; split <;> rfl

theorem out_deliverEvent (e : Evt) (s : State) (n : Nat) : s.out <+: (deliverEvent e s n).out := by
  unfold deliverEvent; dsimp only; split
  · exact out_drainEvents n 66 (s.setRing n _)
  · simp

theorem out_foldl {β : Type} (f : State → β → State) (hf : ∀ s b, s.out <+: (f s b).out) (l : List β) (s : State) :
    s.out <+: (l.foldl f s).out := by
  induction l generalizing s with
  | nil => exact List.prefix_refl _
  | cons b l ih => exact (hf s b).trans (ih (f s b))

theorem out_deliver (e : Evt) (s : State) : s.out <+: (deliver e s).out := by
  unfold deliver; split
  · dsimp only; split <;> simp
  · exact out_foldl _ (out_deliverEvent e) _ s

/-- An event posted takes nothing back that went out. -/
theorem out_postEvent (o code sev src pl : Nat) (s : State) : s.out <+: (postEvent o code sev src pl s).out := by
  refine List.IsPrefix.trans ?_ (out_deliver _ _)
  split <;> exact List.prefix_refl _

/-! ## What the sending of frames can change -/

/-- What s can have become by sending frames from o: more is out; links hold other frames and ports have used packet numbers up;
a neighbour may have gone down; and no connection is new. -/
structure SentFrom (o s : State) : Prop where
  out : o.out <+: s.out
  link : ∀ n, { s.link n with held := [] } = { o.link n with held := [] }
  port : ∀ q, { s.port q with channels := [] } = { o.port q with channels := [] }
  neighbour : ∀ n, neighbourOf n s = neighbourOf n o ∨ neighbourOf n s = { neighbourOf n o with up := false, hellos := 0 }
  conns : ∀ c ∈ s.fab.conns, ∃ d ∈ o.fab.conns, d.id = c.id

theorem SentFrom.refl (s : State) : SentFrom s s :=
  ⟨List.prefix_refl _, fun _ => rfl, fun _ => rfl, fun _ => .inl rfl, fun c hc => ⟨c, hc, rfl⟩⟩

theorem SentFrom.trans {o s t : State} (h : SentFrom o s) (k : SentFrom s t) : SentFrom o t where
  out := h.out.trans k.out
  link n := (k.link n).trans (h.link n)
  port q := (k.port q).trans (h.port q)
  neighbour n := by
    rcases k.neighbour n with hk | hk <;> rcases h.neighbour n with ho | ho <;> simp [hk, ho]
  conns c hc := by
    obtain ⟨d, hd, hdc⟩ := k.conns c hc
    obtain ⟨e, he, hed⟩ := h.conns d hd
    exact ⟨e, he, hed.trans hdc⟩

/-- A fold of steps that each come of sending. -/
theorem sentFrom_foldl {β : Type} {o s : State} {l : List β} (f : State → β → State)
    (hf : ∀ s b, SentFrom o s → b ∈ l → SentFrom o (f s b)) (h : SentFrom o s) : SentFrom o (l.foldl f s) := by
  induction l generalizing s with
  | nil => exact h
  | cons b l ih =>
    exact ih (fun s c hs hc => hf s c hs (List.mem_cons_of_mem b hc)) (hf s b h List.mem_cons_self)

/-- A connection put in place is the only one that can be new. -/
theorem mem_setConn {c d : Conn} {s : State} (h : d ∈ (setConn c s).fab.conns) : d = c ∨ d ∈ s.fab.conns := by
  simp only [setConn, modFab] at h
  split at h
  · obtain ⟨e, he, rfl⟩ := List.mem_map.mp h
    split
    · exact .inl rfl
    · exact .inr he
  · obtain h | h := List.mem_append.mp h
    · exact .inr h
    · exact .inl (List.mem_singleton.mp h)

section
variable {o s : State} (h : SentFrom o s)
include h

/-- A change of reports, of which nothing that went out is taken back. -/
theorem SentFrom.reports {t : State} (hr : t.apartFromReports = s.apartFromReports) (ho : s.out <+: t.out) : SentFrom o t := by
  have k := congrArg (fun s : State => (s.links, s.ports, s.fab)) hr
  simp only [Prod.mk.injEq] at k
  obtain ⟨hlinks, hports, hfab⟩ : t.links = s.links ∧ t.ports = s.ports ∧ t.fab = s.fab := k
  refine h.trans ⟨ho, fun n => ?_, fun q => ?_, fun n => .inl ?_, fun c hc => ⟨c, hfab ▸ hc, rfl⟩⟩
  · rw [State.link, hlinks, State.link]
  · rw [State.port, hports, State.port]
  · rw [neighbourOf, hfab, neighbourOf]

theorem SentFrom.bump (k n : Nat) : SentFrom o (s.bump k n) := h.reports (apartFromReports_bump s k n) (by simp)

theorem SentFrom.emit (x : Output) : SentFrom o (s.emit x) := h.reports rfl (List.prefix_append _ _)

theorem SentFrom.postEvent (w code sev src pl : Nat) : SentFrom o (postEvent w code sev src pl s) :=
  h.reports (apartFromReports_postEvent w code sev src pl s) (out_postEvent w code sev src pl s)

/-- Other frames held by a link. -/
theorem SentFrom.holds (n : Nat) (f : List Frame → List Frame) :
    SentFrom o (s.modLink n (fun l => { l with held := f l.held })) := by
  refine h.trans ⟨List.prefix_refl _, fun m => ?_, fun _ => rfl, fun _ => .inl rfl, fun c hc => ⟨c, hc, rfl⟩⟩
  by_cases hm : m = n
  · subst hm; simp
  · simp [State.link, State.modLink, tget_tset_ne _ _ _ hm]

theorem SentFrom.setChannel (q i : Nat) (c : Secy) : SentFrom o (setChannel q i c s) := by
  refine h.trans ⟨List.prefix_refl _, fun _ => rfl, fun r => ?_, fun _ => .inl rfl, fun c hc => ⟨c, hc, rfl⟩⟩
  by_cases hr : r = q
  · subst hr; simp [Machine.setChannel]
  · simp [Machine.setChannel, State.port, State.modPort, tget_tset_ne _ _ _ hr]

/-- A connection that was there already, put in place. -/
theorem SentFrom.setConn {c : Conn} (hc : ∃ d ∈ o.fab.conns, d.id = c.id) : SentFrom o (setConn c s) := by
  refine ⟨h.out, h.link, h.port, h.neighbour, fun e he => ?_⟩
  obtain rfl | he := mem_setConn he
  · exact hc
  · exact h.conns e he

theorem SentFrom.neighbourDown (n : Nat) : SentFrom o (neighbourDown n s) := by
  refine h.trans ?_
  have hset : ∀ x, x = { neighbourOf n s with up := false, hellos := 0 } → SentFrom s (setNeighbour n x s) := by
    rintro x rfl
    refine ⟨List.prefix_refl _, fun _ => rfl, fun _ => rfl, fun m => ?_, fun c hc => ⟨c, hc, rfl⟩⟩
    by_cases hm : m = n
    · subst hm; exact .inr (tget_tset_same _ _ _ _)
    · exact .inl (tget_tset_ne _ _ _ hm)
  unfold Machine.neighbourDown; dsimp only; split
  · exact (hset _ rfl).postEvent ..
  · next hup => exact hset _ (by simp [hup])

end

/-! Each step of sending is one as long as what it hands on to is. -/

section
variable {lost : Nat → State → State} (hlost : ∀ n s, SentFrom s (lost n s))
include hlost

theorem sentFrom_takePn (n : Nat) (x : Secured) (s : State) : SentFrom s (takePn lost n x s) := by
  unfold takePn
  refine iteInduction (motive := SentFrom s) (fun _ => ?_) (fun _ => (SentFrom.refl s).setChannel ..)
  have hevent := fun c => ((SentFrom.refl s).setChannel (n / 4) x.channel c).postEvent deviceOwner 0x6005 2 n
    (x.channel + 16 * x.an)
  exact ((((hevent _).holds n (fun _ => [])).bump ..).neighbourDown n).trans (hlost n _)

theorem sentFrom_wireWith (n : Nat) (f : Frame) (s : State) : SentFrom s (wireWith lost n f s) := by
  unfold wireWith; split
  · split
    · exact (SentFrom.refl s).bump _ _
    · exact SentFrom.refl s
  · dsimp only; split
    · exact (((SentFrom.refl s).emit _).bump _ _).trans (sentFrom_takePn hlost ..)
    · exact ((SentFrom.refl s).emit _).bump _ _

theorem sentFrom_emitWith (l : Option Nat) (f : Frame) (s : State) : SentFrom s (emitWith lost l f s) := by
  have hcount := (SentFrom.refl s).bump kTx 1
  unfold emitWith; split
  · exact SentFrom.refl s
  · dsimp only; split
    · exact hcount.emit _
    · split
      · exact hcount.holds _ (· ++ [f])
      · exact hcount.trans (sentFrom_wireWith hlost ..)

end

section
variable {send : Option Nat → Frame → State → State} (hsend : ∀ l f s, SentFrom s (send l f s))
include hsend

theorem sentFrom_transmitWith (c : Conn) (f : Frame) (s : State) : SentFrom s (transmitWith send c f s) := by
  unfold transmitWith; dsimp only; split
  · exact hsend ..
  · split
    · exact SentFrom.refl s
    · exact hsend ..

theorem sentFrom_resendWith (id : ConnId) (s : State) : SentFrom s (resendWith send id s) := by
  unfold resendWith; dsimp only
  refine sentFrom_foldl _ (fun u x hu _ => ?_) (SentFrom.refl s)
  split
  · exact (hu.trans (sentFrom_transmitWith hsend ..)).bump _ _
  · exact hu

theorem sentFrom_moveWith {o u : State} {c : Conn} (n : Nat) (hu : SentFrom o u) (hc : ∃ d ∈ o.fab.conns, d.id = c.id) :
    SentFrom o (moveWith send c n u) := by
  unfold moveWith; dsimp only
  exact (hu.setConn (by exact hc)).trans (sentFrom_resendWith hsend ..)

/-- The connections of a lost link that are moved were there before. -/
theorem sentFrom_lostWith (n : Nat) (s : State) : SentFrom s (lostWith send n s) := by
  unfold lostWith
  refine sentFrom_foldl _ (fun u c hu hc => ?_) (SentFrom.refl s)
  have hold : ∃ d ∈ s.fab.conns, d.id = (connOf c.id u).id :=
    ⟨c, (List.mem_filter.mp hc).1, (connOf_id c.id u).symm⟩
  dsimp only; split
  · exact sentFrom_moveWith hsend _ hu hold
  · exact hu

end

theorem sentFrom_sendFrame (fuel : Nat) (l : Option Nat) (f : Frame) (s : State) : SentFrom s (sendFrame fuel l f s) := by
  induction fuel generalizing l f s with
  | zero => exact sentFrom_emitWith (fun _ s => SentFrom.refl s) l f s
  | succ n ih => exact sentFrom_emitWith (sentFrom_lostWith ih) l f s

theorem sentFrom_emitFrame (l : Option Nat) (f : Frame) (s : State) : SentFrom s (emitFrame l f s) :=
  sentFrom_sendFrame 64 l f s

theorem sentFrom_linkLost (n : Nat) (s : State) : SentFrom s (linkLost n s) := sentFrom_lostWith sentFrom_emitFrame n s

/-! ## HELLO_SEND (R314) -/

/-- A frame that its link can send is out, whatever becomes of its packet numbers. -/
theorem mem_out_wireWith {lost : Nat → State → State} (hlost : ∀ n s, SentFrom s (lost n s)) {n : Nat} (f : Frame)
    {s : State} (h : secured n s = true) : Output.frame n (etherOf n f s) f ∈ (wireWith lost n f s).out := by
  have hout : Output.frame n (etherOf n f s) f ∈
      ((s.emit (.frame n (etherOf n f s) f)).bump (kLink n (0x24 + 4 * sizeBin (wireBytes (etherOf n f s) f)))).out := by
    simp [State.emit]
  unfold wireWith
  rw [if_neg (by simp [h])]
  dsimp only; split
  · exact (sentFrom_takePn hlost ..).out.subset hout
  · exact hout

theorem secured_bump (n : Nat) (s : State) (k i : Nat) : secured n (s.bump k i) = secured n s := by
  obtain ⟨c, hc⟩ := bump_eq s k i
  rw [hc]; rfl

theorem etherOf_bump (n : Nat) (f : Frame) (s : State) (k i : Nat) : etherOf n f (s.bump k i) = etherOf n f s := by
  obtain ⟨c, hc⟩ := bump_eq s k i
  rw [hc]; rfl

/-- A frame put on a link that can send it, and whose priority is not paused there, is out. -/
theorem mem_out_emitFrame {n : Nat} {f : Frame} {s : State} (he : s.fab.enable = true)
    (hp : (s.link n).paused.contains (classPriority f.cls) = false) (h : secured n s = true) :
    Output.frame n (etherOf n f s) f ∈ (emitFrame (some n) f s).out := by
  have hout := mem_out_wireWith (sentFrom_lostWith (sentFrom_sendFrame 63)) f ((secured_bump n s kTx 1).trans h)
  have hlink : ((s.bump kTx).link n).paused = (s.link n).paused := by
    obtain ⟨c, hc⟩ := bump_eq s kTx 1
    rw [hc]; rfl
  rw [etherOf_bump] at hout
  show _ ∈ (emitWith (lostWith (sendFrame 63)) (some n) f s).out
  unfold emitWith
  rw [if_neg (by simp [he])]
  dsimp only
  rwa [if_neg (by rw [hlink, hp]; exact Bool.false_ne_true)]

/-- The turn of link n in HELLO_SEND. -/
def helloTurn (s : State) (n : Nat) : State := if greets n s then emitFrame (some n) (helloFrame n s) s else s

theorem sentFrom_helloTurn (s : State) (n : Nat) : SentFrom s (helloTurn s n) := by
  unfold helloTurn; split
  · exact sentFrom_emitFrame ..
  · exact SentFrom.refl s

theorem apartFromSending_helloTurn (s : State) (n : Nat) : (helloTurn s n).apartFromSending = s.apartFromSending := by
  unfold helloTurn; split <;> simp

theorem apartFromSending_helloTurns (l : List Nat) (s : State) :
    (l.foldl helloTurn s).apartFromSending = s.apartFromSending :=
  foldl_keeps State.apartFromSending _ apartFromSending_helloTurn l s

theorem sentFrom_helloTurns (l : List Nat) (s : State) : SentFrom s (l.foldl helloTurn s) :=
  sentFrom_foldl _ (fun u n hu _ => hu.trans (sentFrom_helloTurn u n)) (SentFrom.refl s)

/-- Links that do not greet send nothing. -/
theorem helloTurns_silent {l : List Nat} {s : State} (h : ∀ m ∈ l, greets m s = false) : l.foldl helloTurn s = s := by
  induction l with
  | nil => rfl
  | cons m l ih =>
    rw [List.foldl_cons, helloTurn, h m List.mem_cons_self]
    exact ih (fun k hk => h k (List.mem_cons_of_mem m hk))

theorem secured_of_greets {n : Nat} {s : State} (h : greets n s = true) : secured n s = true := by
  simp only [greets, linkCarries, Bool.and_eq_true] at h
  exact h.2.2

/-- A link that greets sends its HELLO in its turn. -/
theorem mem_out_helloTurn {n : Nat} {s : State} (hg : greets n s = true) (he : s.fab.enable = true)
    (hp : (s.link n).paused.contains 7 = false) :
    Output.frame n (etherOf n (helloFrame n s) s) (helloFrame n s) ∈ (helloTurn s n).out := by
  rw [helloTurn, if_pos hg]
  exact mem_out_emitFrame he hp (secured_of_greets hg)

/-- A HELLO says nothing that the sending of frames changes. -/
theorem helloFrame_of_sending {o s : State} (hr : s.apartFromSending = o.apartFromSending) (n : Nat) :
    helloFrame n s = helloFrame n o := by
  have haddr := (fab_of_sending hr).1
  have hdev : s.dev = o.dev := by
    have k := congrArg State.dev hr
    exact k
  simp only [helloFrame, newFrame, haddr, hdev]

section
variable {o s : State} (h : SentFrom o s) (hr : s.apartFromSending = o.apartFromSending)
include h hr

/-- Without MACsec, frames sent before leave a link greeting as it did. -/
theorem greets_of_sentFrom {n : Nat} (hm : (o.port (n / 4)).macsec = false) : greets n s = greets n o := by
  have hport := h.port (n / 4)
  have hlink := h.link n
  simp only [Port.mk.injEq] at hport
  simp only [Link.mk.injEq] at hlink
  have hflt : s.flt = o.flt := by
    have k := congrArg State.flt hr
    exact k
  simp only [greets, linkCarries, linkExists, linkRetired, secured, hport, hlink, hflt, hm, Bool.not_false, Bool.true_or]

/-- Without MACsec, frames sent before leave the header of a HELLO as it is. -/
theorem etherOf_hello_of_sentFrom {n : Nat} {f : Frame} (hf : f.type = 0x01) (hm : (o.port (n / 4)).macsec = false) :
    etherOf n f s = etherOf n f o := by
  have hport := h.port (n / 4)
  have hlink := h.link n
  simp only [Port.mk.injEq] at hport
  simp only [Link.mk.injEq] at hlink
  have hetype : s.fab.etype = o.fab.etype := by
    have k := congrArg (fun s : State => s.fab.etype) hr
    exact k
  simp only [etherOf, macDst, hf, hport, hlink, hetype, hm, if_true, Bool.false_eq_true, if_false]

end

/-- A link that greets sends its HELLO, under MACsec where no other link greets. -/
theorem mem_out_helloTurns {n : Nat} {s : State} (hn : n < 64) (hg : greets n s = true) (he : s.fab.enable = true)
    (hp : (s.link n).paused.contains 7 = false)
    (hm : (s.port (n / 4)).macsec = false ∨ ∀ m, m < 64 → greets m s = true → m = n) :
    Output.frame n (etherOf n (helloFrame n s) s) (helloFrame n s) ∈ ((List.range 64).foldl helloTurn s).out := by
  obtain ⟨before, after, hrange, hnot⟩ := List.eq_append_cons_of_mem (List.mem_range.mpr hn)
  have hturn : Output.frame n (etherOf n (helloFrame n s) s) (helloFrame n s) ∈
      (helloTurn (before.foldl helloTurn s) n).out := by
    have hfrom := sentFrom_helloTurns before s
    have hrest := apartFromSending_helloTurns before s
    rcases hm with hm | honly
    · have henable : (before.foldl helloTurn s).fab.enable = true := by
        have k := congrArg (fun s : State => s.fab.enable) hrest
        exact k.trans he
      have hpaused := congrArg Link.paused (hfrom.link n)
      have hout := mem_out_helloTurn ((greets_of_sentFrom hfrom hrest hm).trans hg) henable
        ((congrArg (List.contains · 7) hpaused).trans hp)
      rwa [helloFrame_of_sending hrest, etherOf_hello_of_sentFrom hfrom hrest rfl hm] at hout
    · have hsilent : before.foldl helloTurn s = s := helloTurns_silent (fun m hmem => by
        have hlt : m < 64 := List.mem_range.mp (hrange ▸ List.mem_append_left _ hmem)
        exact Bool.eq_false_iff.mpr (fun hgm => hnot (honly m hlt hgm ▸ hmem)))
      rw [hsilent]
      exact mem_out_helloTurn hg he hp
  rw [hrange, List.foldl_append, List.foldl_cons]
  exact (sentFrom_helloTurns after _).out.subset hturn

theorem exec_helloSend {s : State} (hs : s.serves = true) : exec .helloSend s = .next ((List.range 64).foldl helloTurn s) :=
  whenUp_serves (fun s => (List.range 64).foldl helloTurn s) hs

/-! ## What the MAC leaves of a link (R348, R351) -/

theorem channelOf_setChannel_same (q i : Nat) (c : Secy) (s : State) : channelOf q i (setChannel q i c s) = c := by
  simp [channelOf, setChannel]

theorem channelOf_setChannel_ne (q : Nat) {i j : Nat} (c : Secy) (s : State) (h : j ≠ i) :
    channelOf q j (setChannel q i c s) = channelOf q j s := by
  simp [channelOf, setChannel, tget_tset_ne _ _ _ h]

section
variable {n i : Nat} {c : Secy} {s : State} (hold : (channelOf (n / 4) i s).tx = false) (hnew : c.tx = false)
include hold hnew

/-- A link goes on sending through its channel when a receive channel changes. -/
theorem txChannel_setChannel : txChannel n (setChannel (n / 4) i c s) = txChannel n s := by
  unfold txChannel
  congr 1
  funext j
  by_cases hj : j = i
  · subst hj; simp [channelOf_setChannel_same, hold, hnew]
  · rw [channelOf_setChannel_ne _ _ _ hj]

theorem secured_setChannel : secured n (setChannel (n / 4) i c s) = secured n s := by
  have hmacsec : ((setChannel (n / 4) i c s).port (n / 4)).macsec = (s.port (n / 4)).macsec := by simp [setChannel]
  unfold secured
  rw [txChannel_setChannel hold hnew, hmacsec]
  cases htx : txChannel n s with
  | none => rfl
  | some j =>
    have hsends : (channelOf (n / 4) j s).tx = true := by
      have hfound := List.find?_some htx
      simp only [Bool.and_eq_true] at hfound
      exact hfound.1.2
    have hj : j ≠ i := fun h => by simp [h, hold] at hsends
    simp only [channelOf_setChannel_ne _ _ _ hj]

theorem greets_setChannel : greets n (setChannel (n / 4) i c s) = greets n s := by
  have hexists : linkExists n (setChannel (n / 4) i c s) = linkExists n s := by
    simp only [linkExists, setChannel, State.port_modPort_same]
    rfl
  unfold greets linkCarries
  rw [secured_setChannel hold hnew, hexists]
  rfl

end

/-- A frame received on a link leaves it greeting as it did. -/
theorem greets_notePn (n : Nat) (f : EthFrame) (s : State) : greets n (notePn n f s) = greets n s := by
  unfold notePn; split
  · rfl
  · dsimp only; split
    · rfl
    · next i hi =>
      have hfound := List.find?_some hi
      simp only [Bool.and_eq_true, Bool.not_eq_true'] at hfound
      obtain ⟨⟨⟨⟨-, htx⟩, -⟩, -⟩, -⟩ := hfound
      exact greets_setChannel htx htx

theorem greets_bump (n : Nat) (s : State) (k i : Nat) : greets n (s.bump k i) = greets n s := by
  obtain ⟨c, hc⟩ := bump_eq s k i
  rw [hc]; rfl

/-- What HELLO f finds once link l has counted it. -/
def helloHeard (l : Nat) (f : Frame) (s : State) : State := (macReceive l f s).bump kRx

theorem greets_helloHeard (l : Nat) (f : Frame) (s : State) : greets l (helloHeard l f s) = greets l s := by
  rw [helloHeard, greets_bump]
  unfold macReceive; split
  · rfl
  · rw [greets_notePn, greets_bump, countRx, greets_bump]

theorem fab_macReceive (l : Nat) (f : Frame) (s : State) : (macReceive l f s).fab = s.fab := by
  obtain ⟨c, p, h⟩ := macReceive_eq l f s
  rw [h]

theorem fab_helloHeard (l : Nat) (f : Frame) (s : State) : (helloHeard l f s).fab = s.fab := by
  obtain ⟨c, h⟩ := bump_eq (macReceive l f s) kRx 1
  rw [helloHeard, h]
  exact fab_macReceive l f s

theorem neighbourOf_helloHeard (n l : Nat) (f : Frame) (s : State) : neighbourOf n (helloHeard l f s) = neighbourOf n s := by
  rw [neighbourOf, fab_helloHeard, neighbourOf]

theorem knownEpoch_helloHeard (a : Half) (l : Nat) (f : Frame) (s : State) :
    knownEpoch a (helloHeard l f s) = knownEpoch a s := by
  rw [knownEpoch, fab_helloHeard, knownEpoch]

/-! ## HELLO_RECEIVED (R314, R321) -/

/-- The entry of link n once a HELLO of an address with its MAC address, link and boot epoch has come. -/
def greetedBy (n : Nat) (a : Half) (mac : BitVec 48) (peerLink : Nat) (epoch : Word) (s : State) : Neighbour :=
  let k := if (neighbourOf n s).addr = a then min 2 ((neighbourOf n s).hellos + 1) else 1
  { addr := a, mac := mac, peerLink := peerLink, epoch := epoch, hellos := k, up := decide (2 ≤ k) && greets n s }

/-- The state in which link n has taken y as its neighbour entry: connections leave a link that went down, and NEIGHBOUR posts
for another address or a change of up. -/
def withNeighbour (n : Nat) (y : Neighbour) (s : State) : State :=
  let x := neighbourOf n s
  let u := setNeighbour n y s
  let u := if x.up && !y.up then linkLost n u else u
  if !(x.addr == y.addr) || y.up != x.up then neighbourEvent n u else u

/-- The state in which another boot epoch of an address has been noted. -/
def epochNoted (a : Half) (e : Word) (s : State) : State :=
  match knownEpoch a s with
  | some k => if k = e then s else peerBooted a e s
  | none => s

theorem epochNoted_known {a : Half} {e : Word} {s : State} (h : knownEpoch a s = none ∨ knownEpoch a s = some e) :
    epochNoted a e s = s := by
  rcases h with h | h <;> simp [epochNoted, h]

theorem epochNoted_booted {a : Half} {e k : Word} {s : State} (h : knownEpoch a s = some k) (hne : k ≠ e) :
    epochNoted a e s = peerBooted a e s := by
  simp [epochNoted, h, hne]

/-- A HELLO is taken in two steps: its boot epoch is noted, then its sender entered. -/
theorem helloEffect_eq (n : Nat) (a : Half) (mac : BitVec 48) (pl : Nat) (e : Word) (s : State) :
    helloEffect n a mac pl e s = withNeighbour n (greetedBy n a mac pl e (epochNoted a e s)) (epochNoted a e s) := by
  simp only [helloEffect, withNeighbour, greetedBy, beq_iff_eq]
  rfl

section
variable (n : Nat) (y : Neighbour) (s : State)

theorem fab_neighbourEvent : (neighbourEvent n s).fab = s.fab := by
  have h := congrArg State.fab (apartFromReports_postEvent deviceOwner 0x5001 0 n
    ((neighbourOf n s).addr.toNat + 65536 * b2n (neighbourOf n s).up) s)
  exact h

@[simp] theorem apartFromSending_neighbourEvent : (neighbourEvent n s).apartFromSending = s.apartFromSending := by
  simp [neighbourEvent]

theorem apartFromSending_withNeighbour : (withNeighbour n y s).apartFromSending = s.apartFromSending := by
  unfold withNeighbour; dsimp only
  split <;> split <;> simp

/-- A neighbour that does not go down by its HELLO is entered as it greets. -/
theorem neighbourOf_withNeighbour (h : (neighbourOf n s).up = false ∨ y.up = true) :
    neighbourOf n (withNeighbour n y s) = y := by
  have hset : neighbourOf n (setNeighbour n y s) = y := tget_tset_same _ _ _ _
  have hstays : ((neighbourOf n s).up && !y.up) = false := by rcases h with h | h <;> simp [h]
  unfold withNeighbour
  simp only [hstays, Bool.false_eq_true, if_false]
  split
  · rwa [neighbourOf, fab_neighbourEvent]
  · exact hset

/-- A neighbour entry taken makes no connection. -/
theorem conns_withNeighbour : ∀ c ∈ (withNeighbour n y s).fab.conns, ∃ d ∈ s.fab.conns, d.id = c.id := by
  have hlost : ∀ c ∈ (if (neighbourOf n s).up && !y.up then linkLost n (setNeighbour n y s)
      else setNeighbour n y s).fab.conns, ∃ d ∈ s.fab.conns, d.id = c.id := by
    split
    · exact (sentFrom_linkLost n (setNeighbour n y s)).conns
    · exact fun c hc => ⟨c, hc, rfl⟩
  unfold withNeighbour; dsimp only; split
  · rwa [fab_neighbourEvent]
  · exact hlost

end

/-- A peer that has booted leaves no connection to its address. -/
theorem conns_peerBooted (a : Half) (e : Word) (s : State) : ∀ c ∈ (peerBooted a e s).fab.conns, c.id.peer ≠ a :=
  fun c hc => by simpa using (List.mem_filter.mp hc).2

section
variable {l : LinkNo} {f : Frame} {a : Half} {epoch : Word} {s : State} (hs : s.serves = true)
  (hwf : (Instr.helloReceived l f).wellFormed = true) (hmac : macPasses l f s = true) (hen : s.fab.enable = true)
  (hver : f.version = 1) (ha : a = BitVec.ofNat 16 (u16 f.payload 0)) (he : epoch = BitVec.ofNat 32 (u32 f.payload 4))
include hs hwf hmac hen hver ha he

theorem exec_helloReceived :
    exec (.helloReceived l f) s =
      .next (helloEffect l a f.rx.source (byteAt f.payload 2) epoch (helloHeard l f s)) := by
  subst ha he
  refine (whenUpWf_wf _ _ hwf).trans (whenUp_effect hs ?_)
  dsimp only
  rw [if_neg (by simp [hmac]), if_neg (by simp [fab_macReceive, hen]), if_neg (by simp [hver])]
  rfl

/-- A HELLO of an address that has not booted again since its last one enters its sender. -/
theorem exec_helloReceived_known (hk : knownEpoch a s = none ∨ knownEpoch a s = some epoch) :
    ∃ t, exec (.helloReceived l f) s = .next t ∧ t.apartFromSending = s.apartFromSending ∧
      ((neighbourOf l s).up = false ∨ (greetedBy l a f.rx.source (byteAt f.payload 2) epoch s).up = true →
        neighbourOf l t = greetedBy l a f.rx.source (byteAt f.payload 2) epoch s) := by
  have hentry : greetedBy l a f.rx.source (byteAt f.payload 2) epoch (helloHeard l f s) =
      greetedBy l a f.rx.source (byteAt f.payload 2) epoch s := by
    unfold greetedBy
    rw [greets_helloHeard, neighbourOf_helloHeard]
  have hx := exec_helloReceived hs hwf hmac hen hver ha he
  rw [helloEffect_eq, epochNoted_known (by rwa [knownEpoch_helloHeard]), hentry] at hx
  refine ⟨_, hx, ?_, fun h => neighbourOf_withNeighbour _ _ _ (by rwa [neighbourOf_helloHeard])⟩
  rw [apartFromSending_withNeighbour, helloHeard]
  simp

/-- A HELLO with another boot epoch ends every connection to its sender. -/
theorem exec_helloReceived_booted {e : Word} (hk : knownEpoch a s = some e) (hne : e ≠ epoch) :
    ∃ t, exec (.helloReceived l f) s = .next t ∧ ∀ c ∈ t.fab.conns, c.id.peer ≠ a := by
  have hx := exec_helloReceived hs hwf hmac hen hver ha he
  rw [helloEffect_eq, epochNoted_booted (by rwa [knownEpoch_helloHeard]) hne] at hx
  refine ⟨_, hx, fun c hc => ?_⟩
  obtain ⟨d, hd, hdc⟩ := conns_withNeighbour _ _ _ c hc
  exact hdc ▸ conns_peerBooted _ _ _ d hd

end

/-! ## NEIGHBOUR_TIMEOUT (R314) -/

theorem neighbourOf_neighbourDown (n : Nat) (s : State) :
    neighbourOf n (neighbourDown n s) = { neighbourOf n s with up := false, hellos := 0 } := by
  have hset : ∀ y, neighbourOf n (setNeighbour n y s) = y := fun y => tget_tset_same _ _ _ _
  unfold neighbourDown; dsimp only; split
  · rw [neighbourOf, fab_neighbourEvent]
    exact hset _
  · next hup =>
    rw [hset]
    simp [hup]

theorem exec_neighbourTimeout {s : State} (l : LinkNo) (hs : s.serves = true) :
    ∃ t, exec (.neighbourTimeout l) s = .next t ∧ (neighbourOf l t).up = false ∧ (neighbourOf l t).hellos = 0 ∧
      t.apartFromSending = s.apartFromSending := by
  refine ⟨_, whenUp_serves (fabricDown l) hs, ?_⟩
  have hdown := neighbourOf_neighbourDown l s
  rcases (sentFrom_linkLost l (neighbourDown l s)).neighbour l with h | h <;>
    exact ⟨by rw [fabricDown, h, hdown], by rw [fabricDown, h, hdown], by simp [fabricDown]⟩

end Sys2Proof.Machine

open Sys2Proof Sys2Proof.Machine

/-- Settles O51: HELLO_SEND link by link, and HELLO_RECEIVED and NEIGHBOUR_TIMEOUT, each from what its command answers. -/
theorem helloesMakeNeighbours : Obligations.HelloesMakeNeighbours := by
  refine ⟨fun s hs => ?_,
    fun l f a epoch x k s hs hwf hmac hen hver ha he hx hk => ⟨fun hknown => ?_, fun e hknown hne _ => ?_⟩,
    fun l s hs => exec_neighbourTimeout l hs⟩
  · exact ⟨_, exec_helloSend hs, apartFromSending_helloTurns _ s,
      fun n hn hg he hp hm => mem_out_helloTurns hn hg he hp hm⟩
  · subst hx hk
    obtain ⟨t, hnext, hrest, hentry⟩ := exec_helloReceived_known hs hwf hmac hen hver ha he hknown
    refine ⟨t, hnext, hrest, fun h => hentry (h.imp_right fun ⟨h2, hg⟩ => ?_)⟩
    simp only [greetedBy, h2, hg, decide_true, Bool.and_self]
  · exact exec_helloReceived_booted hs hwf hmac hen hver ha he hknown hne
end

section
/-!
Relayed frames of 11_fabric_and_collectives.md (O52): a frame whose link cannot send under MACsec is not relayed, so the
statement, which names no secure channel, fails.
-/
namespace Sys2Proof.Machine

/-! ## A relay onto a link that cannot send (R316, R352) -/

/-- Address 1 in Ready: toward address 3 it has a direct route over link 4, whose neighbour is up. The port of that link is
under MACsec and has no secure channel. -/
def unsecuredRelay : State :=
  { State.reset with
    dev := { State.reset.dev with state := .up, bootStep := 13 }
    ports := [(1, { Port.atReset with macsec := true })]
    fab := { State.reset.fab with
      enable := true, device := 1
      neighbours := [(4, { Neighbour.atReset with addr := 3, up := true })]
      routes := [(3, { Route.atReset with links := [4], mode := 1 })] } }

/-- A frame from address 2 to address 3, which passes the MAC and may take one more hop. -/
def strayFrame : Frame :=
  { newFrame 0x07 3 0 unsecuredRelay with
    src := 2, hops := 1
    rx := { noEther with length := 64, fcsOk := true, destOk := true, etherType := 0x88B5 } }

/-- The frame meets what the statement asks of a relay over link 4. -/
theorem strayFrame_relays :
    unsecuredRelay.serves = true ∧ (Instr.frameRelay 0 strayFrame).wellFormed = true ∧
      macPasses 0 strayFrame unsecuredRelay = true ∧ unsecuredRelay.fab.enable = true ∧
      strayFrame.dst ≠ fabAddr unsecuredRelay ∧ strayFrame.version = 1 ∧ routed strayFrame.dst unsecuredRelay = true ∧
      strayFrame.hops ≠ 0 ∧
      pickLink { peer := strayFrame.dst, cls := strayFrame.cls, stripe := strayFrame.stripe }
        (linksTo strayFrame.dst unsecuredRelay) = some 4 ∧
      (unsecuredRelay.link 4).paused.contains (classPriority strayFrame.cls) = false := by
  decide +kernel

/-- Link 4 has no channel to send through (R352), so nothing goes out. -/
theorem out_frameRelay_strayFrame {t : State} (h : exec (.frameRelay 0 strayFrame) unsecuredRelay = .next t) : t.out = [] := by
  have hout : (match exec (.frameRelay 0 strayFrame) unsecuredRelay with | .next t => t.out | _ => []) = [] := by
    decide +kernel
  rwa [h] at hout

end Sys2Proof.Machine

open Sys2Proof Sys2Proof.Machine

/-- Refutes O52: a frame to be relayed over a link whose port is under MACsec without a secure channel is not sent (R352),
though the link's neighbour is up and its priority is not paused. The clause on FRAME_RELAY asks for no such channel. -/
theorem not_connectionsAcknowledgeAndResend : ¬ Obligations.ConnectionsAcknowledgeAndResend := by
  unfold Obligations.ConnectionsAcknowledgeAndResend
  rintro ⟨-, -, -, hrelay⟩
  obtain ⟨hs, hwf, hmac, hen, hdst, hver, hroute, hhops, hpick, hpaused⟩ := strayFrame_relays
  obtain ⟨-, hsent⟩ := hrelay 0 strayFrame _ unsecuredRelay hs hwf hmac hen hdst hver hroute rfl
  obtain ⟨t, h, hnext, -, hmem, -⟩ := hsent 4 hhops hpick hpaused
  rw [out_frameRelay_strayFrame hnext] at hmem
  exact List.not_mem_nil hmem
end

section
/-!
The partition commands of 13_partitions_and_isolation.md (O35): which of them their partition's state lets through, and what
each makes of its partition.
-/
namespace Sys2Proof.Machine

/-! ## What ring operations leave alone -/

@[simp] theorem apartFromCompletions_abortFetched (n d : Nat) (s : State) :
    (abortFetched n d s).1.apartFromCompletions = s.apartFromCompletions := by
  unfold abortFetched; dsimp only
  rw [foldl_keeps State.apartFromCompletions _ (fun a b => apartFromCompletions_finish ..)]
  simp

@[simp] theorem apartFromCompletions_disableRing (n : Nat) (b : Option (Nat × Word)) (s : State) :
    (disableRing n b s).apartFromCompletions = s.apartFromCompletions := by
  unfold disableRing; split <;> simp

@[simp] theorem apartFromCompletions_endLive (st d : Nat) (s : State) (n : Nat) :
    (endLive st d s n).apartFromCompletions = s.apartFromCompletions :=
  foldl_keeps State.apartFromCompletions _ (fun _ _ => apartFromCompletions_finish ..) _ s

/-- The rings of a share that are disabled, and what waits on them, are reports. -/
@[simp] theorem apartFromCompletions_disableShare (p : Nat) (s : State) :
    (disableShare p s).apartFromCompletions = s.apartFromCompletions := by
  unfold disableShare; dsimp only
  rw [apartFromCompletions_closeRings, foldl_keeps State.apartFromCompletions _ (apartFromCompletions_endLive 0x3F 7),
    foldl_keeps State.apartFromCompletions _ (fun s n => apartFromCompletions_disableRing n none s)]

/-! ## What a partition command finds and leaves -/

/-- A partition command of an allowed state, of a partition that is not between states (R372). -/
theorem partStateReject_legal {legal : PartState → Bool} {q : Partition} (hspan : inSpan q = false)
    (hstate : legal q.state = true) : partStateReject legal q = none := by
  simp [partStateReject, hspan, hstate]

/-- Any other completes with BAD_STATE and the state code (R372). -/
theorem partStateReject_illegal {legal : PartState → Bool} {q : Partition} (h : inSpan q = true ∨ legal q.state = false) :
    partStateReject legal q = some (badState q.state.code) := by
  unfold partStateReject
  rcases h with h | h <;> simp [h]

section
variable {op n : Nat} {f : Fetched} {legal : PartState → Bool} {s : State} (k : Fetched → Nat → State → State)
  (hf : headOf op n s = some f)
include hf

theorem withPartCmd_legal (hspan : inSpan (s.part (byteAt f.bytes 16)) = false)
    (hstate : legal (s.part (byteAt f.bytes 16)).state = true) :
    withPartCmd op n legal s k = k f (byteAt f.bytes 16) s := by
  simp only [withPartCmd, hf, partStateReject_legal hspan hstate]

theorem withPartCmd_illegal
    (h : inSpan (s.part (byteAt f.bytes 16)) = true ∨ legal (s.part (byteAt f.bytes 16)).state = false) :
    withPartCmd op n legal s k = rejectHead n f (badState (s.part (byteAt f.bytes 16)).state.code) s := by
  simp only [withPartCmd, hf, partStateReject_illegal h]

end

/-- What is written last stays. -/
theorem tset_tset {α : Type} (t : Table α) (k : Nat) (v w : α) : tset (tset t k v) k w = tset t k w := by
  induction t with
  | nil => simp [tset]
  | cons e t ih =>
    obtain ⟨j, x⟩ := e
    by_cases hlt : k < j
    · simp [tset, hlt]
    · by_cases hj : j = k
      · simp [tset, hj]
      · simp [tset, hlt, hj, ih]

theorem State.setPart_setPart (s : State) (p : Nat) (q r : Partition) : (s.setPart p q).setPart p r = s.setPart p r := by
  simp only [State.setPart, tset_tset]

theorem apartFromReports_setPart (s : State) (p : Nat) (q : Partition) :
    (s.setPart p q).apartFromReports = s.apartFromReports.setPart p q := rfl

/-- A partition changed, of a state that but for reports is s with that partition replaced. -/
theorem apartFromReports_modPart {s t : State} {p : Nat} {q : Partition} (g : Partition → Partition)
    (h : t.apartFromReports = (s.setPart p q).apartFromReports) :
    (t.modPart p g).apartFromReports = (s.setPart p (g q)).apartFromReports := by
  have hpart : t.part p = q := (part_of_parts (parts_of_reports h) p).trans (State.part_setPart_same s p q)
  rw [State.modPart, hpart, apartFromReports_setPart, h, apartFromReports_setPart, State.setPart_setPart,
    apartFromReports_setPart]

/-- A partition in another state. -/
def Partition.inState (st : PartState) (q : Partition) : Partition := { q with state := st }

theorem apartFromReports_moveState {s t : State} {p : Nat} {q : Partition} (st : PartState)
    (h : t.apartFromReports = (s.setPart p q).apartFromReports) :
    (moveState p st t).apartFromReports = (s.setPart p (q.inState st)).apartFromReports := by
  have hmove : (moveState p st t).apartFromReports = (t.modPart p (Partition.inState st)).apartFromReports := by
    unfold moveState partEvent
    dsimp only
    rw [apartFromReports_postEvent, apartFromReports_postEvent]
    rfl
  exact hmove.trans (apartFromReports_modPart _ h)

theorem part_of_setPart {s t : State} {p : Nat} {q : Partition} (h : t.parts = (s.setPart p q).parts) :
    t.part p = q ∧ ∀ o, o ≠ p → t.part o = s.part o :=
  ⟨(part_of_parts h p).trans (State.part_setPart_same s p q),
    fun o ho => (part_of_parts h o).trans (State.part_setPart_ne s q ho)⟩

/-- Reports, and partition p, changed: what the partition commands leave of the rest. -/
theorem onlyPart_of_setPart {s t : State} {p : Nat} {q : Partition}
    (h : t.apartFromReports = (s.setPart p q).apartFromReports) : t.part p = q ∧ s.onlyPart p t := by
  obtain ⟨hpart, hothers⟩ := part_of_setPart (parts_of_reports h)
  refine ⟨hpart, ?_, hothers⟩
  unfold State.apartFromParts
  rw [h]
  rfl

/-- A partition that has accepted a command, which is remembered until its final completion. -/
def awaiting (op n : Nat) (tag : Word) (q : Partition) : Partition :=
  { q with cmds := q.cmds ++ [{ opcode := op, ring := n, tag := tag }] }

/-! ## Holds announced (R64) -/

/-- The state in which a hold for riser r is noted. -/
def holdNoted (r : Nat) (s : State) : State :=
  { s with stw := { s.stw with holdsFor := announceHold.addHold s.stw.holdsFor (BitVec.ofNat 48 r) } }

theorem apartFromSending_announceHold (r : Nat) (s : State) :
    (announceHold r s).apartFromSending = (holdNoted r s).apartFromSending :=
  apartFromSending_sendBeacon _ (holdNoted r s)

theorem mem_holdsFor_announceHold (r : Nat) (s : State) : BitVec.ofNat 48 r ∈ (announceHold r s).stw.holdsFor := by
  have h := congrArg (fun s : State => s.stw.holdsFor) (apartFromSending_announceHold r s)
  have hholds : (announceHold r s).stw.holdsFor = announceHold.addHold s.stw.holdsFor (BitVec.ofNat 48 r) := h
  rw [hholds, announceHold.addHold]
  split
  · next hmem => exact List.contains_iff_mem.mp hmem
  · simp

theorem parts_announceHold (r : Nat) (s : State) : (announceHold r s).parts = s.parts :=
  parts_of_sending (s := holdNoted r s) (apartFromSending_announceHold r s)

theorem sameStores_announceHold (r : Nat) (s : State) : s.sameStores (announceHold r s) :=
  State.sameStores.trans (t := holdNoted r s) s.sameStores_refl (sameStores_of_sending (apartFromSending_announceHold r s))

/-! ## PART_CONFIG (R373) -/

/-- A listed value of a key that is filtered out is not found. -/
theorem tget?_filter_out {α : Type} (t : Table α) (keep : Nat → Bool) {k : Nat} (h : keep k = false) :
    tget? (t.filter (fun e => keep e.1)) k = none := by
  induction t with
  | nil => rfl
  | cons e t ih =>
    obtain ⟨j, v⟩ := e
    by_cases hj : keep j = true
    · have hne : j ≠ k := fun hjk => by simp [hjk, h] at hj
      simpa [hj, tget?, hne] using ih
    · simpa [hj] using ih

/-- The tallies of a share are as after a reset once they are cleared. -/
theorem tally_clearTallies (r : PartRecord) {k : Nat} (s : State) (h : inShare r.tallyFirst r.tallyCount k = true) :
    (clearTallies r s).tally k = Tally.atReset := by
  have hnone := tget?_filter_out s.tallies (fun j => !inShare r.tallyFirst r.tallyCount j) (k := k) (by simp [h])
  simp only [State.tally, clearTallies, tget, hnone, Option.getD_none]

theorem tallies_of_reports {s t : State} (h : t.apartFromReports = s.apartFromReports) : t.tallies = s.tallies := by
  have k := congrArg State.tallies h
  exact k

/-- PART_CONFIG with a legal record takes it, and closes the tallies of its share. -/
theorem apartFromReports_partConfigEffect {n p : Nat} {f : Fetched} {b : Bytes} {s : State} (hf : headOf 0x90 n s = some f)
    (hp : p = byteAt f.bytes 16) (hspan : inSpan (s.part p) = false) (hstate : (s.part p).state = .free)
    (hup : s.host.halves ≠ []) (hlegal : configReject p b s = none) :
    (partConfigEffect n b s).apartFromReports =
      ((clearTallies (recordOf b) s).setPart p ((configured b).inState .configured)).apartFromReports := by
  subst hp
  have hearly := partStateReject_legal (legal := fun st => st == .free) hspan (by simp [hstate])
  simp only [partConfigEffect, hf, hearly, hlegal, List.isEmpty_iff, hup, Option.or_none, and_false, if_false]
  rw [apartFromReports_of_completions (apartFromCompletions_disableShare ..), apartFromReports_finish]
  exact apartFromReports_moveState .configured rfl

section
variable {n : RingNo} {f : Fetched} {p : Nat} {q : Partition} {s : State} (hs : s.serves = true) (hp : p = byteAt f.bytes 16)
  (hq : q = s.part p)
include hs hp hq

theorem exec_partConfig {b : Bytes} (hf : headOf 0x90 n s = some f) (hwf : b.length = 128) (hspan : inSpan q = false)
    (hstate : q.state = .free) (hup : s.host.halves ≠ []) (hlegal : configReject p b s = none) :
    ∃ t, exec (.partConfig n b) s = .next t ∧ t.part p = (configured b).inState .configured ∧
      (∀ k, inShare (recordOf b).tallyFirst (recordOf b).tallyCount k = true → t.tally k = Tally.atReset) ∧
      (∀ o, o ≠ p → t.part o = s.part o) ∧ s.sameStores t := by
  subst hq
  have hreports := apartFromReports_partConfigEffect hf hp hspan hstate hup hlegal
  have hwf : (Instr.partConfig n b).wellFormed = true := by simp [Instr.wellFormed, hwf]
  obtain ⟨hpart, hothers⟩ := part_of_setPart (parts_of_reports hreports)
  refine ⟨_, (whenUpWf_wf _ _ hwf).trans (whenUp_serves _ hs), hpart, fun k hk => ?_, hothers, ?_⟩
  · rw [State.tally, tallies_of_reports hreports]
    exact tally_clearTallies (recordOf b) s hk
  · exact State.sameStores.trans (t := (clearTallies (recordOf b) s).setPart p ((configured b).inState .configured))
      s.sameStores_refl (sameStores_of_reports hreports)

end

/-! ## PART_START, PART_STOP, PART_EVICT and PART_RESUME (R64, R375, R376, R386, R387) -/

/-- A partition that starts at riser r. -/
def Partition.startingAt (r : Nat) (q : Partition) : Partition :=
  { q with startPend := true, takesAt := BitVec.ofNat 48 r }

/-- A partition that drains, without its pending plans. -/
def Partition.drained (q : Partition) : Partition := Partition.inState .draining { q with plans := [] }

/-- A partition that is evicted at riser r. -/
def Partition.evictedAt (r : Nat) (q : Partition) : Partition := { q with takesAt := BitVec.ofNat 48 r }

/-- A partition that holds its wings again and resumes at riser r. -/
def Partition.resumedAt (r : Nat) (q : Partition) : Partition :=
  { q with startPend := true, takesAt := BitVec.ofNat 48 r, wingsHeld := true }

/-- The state in which partition p, changed by g, has accepted the command f from ring n. -/
def accepted (p op n : Nat) (f : Fetched) (g : Partition → Partition) (s : State) : State :=
  rememberCmd p op n f.tag ((popHead n s).modPart p g)

/-- A partition command accepted: its partition is changed and remembers it. -/
theorem apartFromReports_accepted (p op n : Nat) (f : Fetched) (g : Partition → Partition) (s : State) :
    (accepted p op n f g s).apartFromReports = (s.setPart p (awaiting op n f.tag (g (s.part p)))).apartFromReports :=
  apartFromReports_modPart (awaiting op n f.tag) rfl

theorem sameStores_accepted (p op n : Nat) (f : Fetched) (g : Partition → Partition) (s : State) :
    s.sameStores (accepted p op n f g s) := s.sameStores_refl

section
variable {n p : Nat} {f : Fetched} {s : State} (hp : p = byteAt f.bytes 16) (hspan : inSpan (s.part p) = false)
include hp hspan

theorem partStartEffect_configured (hf : headOf 0x91 n s = some f) (hstate : (s.part p).state = .configured) :
    partStartEffect n s = accepted p 0x91 n f (Partition.startingAt (comingRiser s)) s := by
  subst hp
  exact withPartCmd_legal _ hf hspan (by simp [hstate])

/-- PART_STOP answers DEFERRED, and its partition drains without its pending plans, which end. -/
theorem partStopEffect_running (hf : headOf 0x92 n s = some f) (hstate : (s.part p).state = .running) :
    partStopEffect n s = (s.part p).plans.foldl (fun s g => finish g.ring g.tag 0x3F 6 0 0 s)
      (moveState p .draining ((interim n f.tag 0 0 0 (rememberCmd p 0x92 n f.tag (popHead n s))).modPart p
        (fun q => { q with plans := [] }))) := by
  subst hp
  exact withPartCmd_legal _ hf hspan (by simp [hstate])

theorem apartFromReports_partStopEffect (hf : headOf 0x92 n s = some f) (hstate : (s.part p).state = .running) :
    (partStopEffect n s).apartFromReports = (s.setPart p (awaiting 0x92 n f.tag (s.part p)).drained).apartFromReports := by
  have htaken : (interim n f.tag 0 0 0 (rememberCmd p 0x92 n f.tag (popHead n s))).apartFromReports =
      (s.setPart p (awaiting 0x92 n f.tag (s.part p))).apartFromReports := apartFromReports_interim ..
  rw [partStopEffect_running hp hspan hf hstate,
    foldl_keeps State.apartFromReports _ (fun s g => apartFromReports_finish ..)]
  exact apartFromReports_moveState .draining (apartFromReports_modPart _ htaken)

theorem partEvictEffect_running (hf : headOf 0x94 n s = some f) (hstate : (s.part p).state = .running)
    (hnone : ∀ c ∈ (s.part p).cmds, c.opcode ≠ 0x94) :
    partEvictEffect n s =
      announceHold (nextOpenRiser s) (accepted p 0x94 n f (Partition.evictedAt (nextOpenRiser s)) s) := by
  subst hp
  have hwaits : (s.part (byteAt f.bytes 16)).cmds.any (fun c => c.opcode == 0x94) = false := by simpa using hnone
  refine (withPartCmd_legal _ hf hspan (by simp [hstate])).trans ?_
  simp only [hwaits, Bool.false_eq_true, if_false]
  rfl

theorem partResumeEffect_free (hf : headOf 0x95 n s = some f) (hstate : (s.part p).state = .saved)
    (hfree : wingTaken p s = none) :
    partResumeEffect n s =
      if ((accepted p 0x95 n f (Partition.resumedAt (nextOpenRiser s)) s).part p).evicted then
        announceHold (nextOpenRiser s) (accepted p 0x95 n f (Partition.resumedAt (nextOpenRiser s)) s)
      else accepted p 0x95 n f (Partition.resumedAt (nextOpenRiser s)) s := by
  subst hp
  refine (withPartCmd_legal _ hf hspan (by simp [hstate])).trans ?_
  simp only [hfree]
  rfl

theorem partResumeEffect_taken {x : Nat} (hf : headOf 0x95 n s = some f) (hstate : (s.part p).state = .saved)
    (htaken : wingTaken p s = some x) :
    partResumeEffect n s = rejectHead n f (badState (s.part x).state.code) s := by
  subst hp
  refine (withPartCmd_legal _ hf hspan (by simp [hstate])).trans ?_
  simp only [htaken]

end

section
variable {n : RingNo} {f : Fetched} {p : Nat} {q : Partition} {s : State} (hs : s.serves = true) (hp : p = byteAt f.bytes 16)
  (hq : q = s.part p) (hspan : inSpan q = false)
include hs hp hq hspan

theorem exec_partStart (hf : headOf 0x91 n s = some f) (hstate : q.state = .configured) :
    ∃ t, exec (.partStart n) s = .next t ∧ t.part p = awaiting 0x91 n f.tag (q.startingAt (comingRiser s)) ∧
      s.onlyPart p t := by
  subst hq
  exact ⟨_, whenUp_effect hs (partStartEffect_configured hp hspan hf hstate),
    onlyPart_of_setPart (apartFromReports_accepted ..)⟩

theorem exec_partStop (hf : headOf 0x92 n s = some f) (hstate : q.state = .running) :
    ∃ t, exec (.partStop n) s = .next t ∧ t.part p = (awaiting 0x92 n f.tag q).drained ∧ s.onlyPart p t := by
  subst hq
  exact ⟨_, whenUp_serves _ hs, onlyPart_of_setPart (apartFromReports_partStopEffect hp hspan hf hstate)⟩

theorem exec_partEvict (hf : headOf 0x94 n s = some f) (hstate : q.state = .running)
    (hnone : ∀ c ∈ q.cmds, c.opcode ≠ 0x94) :
    ∃ t, exec (.partEvict n) s = .next t ∧ t.part p = awaiting 0x94 n f.tag (q.evictedAt (nextOpenRiser s)) ∧
      BitVec.ofNat 48 (nextOpenRiser s) ∈ t.stw.holdsFor ∧ (∀ o, o ≠ p → t.part o = s.part o) ∧ s.sameStores t := by
  subst hq
  have hparts := (parts_announceHold (nextOpenRiser s) _).trans
    (parts_of_reports (apartFromReports_accepted p 0x94 n f (Partition.evictedAt (nextOpenRiser s)) s))
  obtain ⟨hpart, hothers⟩ := part_of_setPart hparts
  exact ⟨_, whenUp_effect hs (partEvictEffect_running hp hspan hf hstate hnone), hpart, mem_holdsFor_announceHold .., hothers,
    (sameStores_accepted ..).trans (sameStores_announceHold ..)⟩

theorem exec_partResume (hf : headOf 0x95 n s = some f) (hstate : q.state = .saved) (hfree : wingTaken p s = none) :
    ∃ t, exec (.partResume n) s = .next t ∧ t.part p = awaiting 0x95 n f.tag (q.resumedAt (nextOpenRiser s)) ∧
      (∀ o, o ≠ p → t.part o = s.part o) ∧ s.sameStores t := by
  subst hq
  have hparts := parts_of_reports (apartFromReports_accepted p 0x95 n f (Partition.resumedAt (nextOpenRiser s)) s)
  have hstores := sameStores_accepted p 0x95 n f (Partition.resumedAt (nextOpenRiser s)) s
  refine ⟨_, whenUp_effect hs (partResumeEffect_free hp hspan hf hstate hfree), ?_⟩
  rw [← and_assoc]
  split
  · exact ⟨part_of_setPart ((parts_announceHold ..).trans hparts), hstores.trans (sameStores_announceHold ..)⟩
  · exact ⟨part_of_setPart hparts, hstores⟩

/-- While another partition holds a wing, PART_RESUME completes with that partition's state code. -/
theorem exec_partResume_wingTaken {x : Nat} (hf : headOf 0x95 n s = some f) (hstate : q.state = .saved)
    (htaken : wingTaken p s = some x) :
    exec (.partResume n) s = .next (rejectHead n f (badState (s.part x).state.code) s) := by
  subst hq
  exact whenUp_effect hs (partResumeEffect_taken hp hspan hf hstate htaken)

end

/-! ## MAP_SET (R328, R335) -/

/-- A partition with the groups and queues of the entries given. -/
def Partition.mapped (gs qs : List Bytes) (q : Partition) : Partition :=
  { q with groups := gs.map groupFrom, queues := qs.map queueFrom, early := [] }

/-- The group entries of the map at an address, which the MAP_SET f names. -/
def groupEntries (a : Nat) (f : Fetched) (s : State) : List Bytes :=
  (List.range (u16 f.bytes 32)).map (fun i => hbmRead (a + 320 * i) 320 s)

/-- The queue entries behind them. -/
def queueEntries (a : Nat) (f : Fetched) (s : State) : List Bytes :=
  (List.range (u16 f.bytes 34)).map (fun i => hbmRead (a + 320 * u16 f.bytes 32 + 64 * i) 64 s)

section
variable {n : RingNo} {f : Fetched} {p a : Nat} {q : Partition} {gs qs : List Bytes} {s : State}
  (hp : p = byteAt f.bytes 16) (hq : q = s.part p) (hf : headOf 0x98 n s = some f) (hspan : inSpan q = false)
  (hstate : q.state = .configured) (ha : a = u64 f.bytes 24)
  (hclean : hbmPoisoned a (320 * u16 f.bytes 32 + 64 * u16 f.bytes 34) s = false)
  (hgs : gs = groupEntries a f s) (hqs : qs = queueEntries a f s)
  (hlegal : firstOf (gs.map (fun b => groupReject p b s) ++ qs.map (fun b => queueReject p b s)) = none)
include hp hq hf hspan hstate ha hclean hgs hqs hlegal

theorem mapSetEffect_legal :
    mapSetEffect n s = finish n f.tag 0x00 0 0 0 ((popHead n s).modPart p (Partition.mapped gs qs)) := by
  subst hp hq ha hgs hqs
  simp only [groupEntries, queueEntries] at hlegal
  refine (withPartCmd_legal _ hf hspan (by simp [hstate])).trans ?_
  simp only [hclean, hlegal, Bool.false_eq_true, if_false]
  rfl

theorem exec_mapSet (hs : s.serves = true) :
    ∃ t, exec (.mapSet n) s = .next t ∧ t.part p = q.mapped gs qs ∧ s.onlyPart p t := by
  refine ⟨_, whenUp_effect hs (mapSetEffect_legal hp hq hf hspan hstate ha hclean hgs hqs hlegal), onlyPart_of_setPart ?_⟩
  subst hq
  rw [apartFromReports_finish]
  rfl

end

/-! ## Rejections (R372) -/

/-- PART_CONFIG of a partition that is not Free, or between states. -/
theorem partConfigEffect_illegal {n : Nat} {f : Fetched} {s : State} (b : Bytes) (hf : headOf 0x90 n s = some f)
    (h : inSpan (s.part (byteAt f.bytes 16)) = true ∨ (s.part (byteAt f.bytes 16)).state ≠ .free) :
    partConfigEffect n b s = rejectHead n f (badState (s.part (byteAt f.bytes 16)).state.code) s := by
  have hearly := partStateReject_illegal (legal := fun st => st == .free) (q := s.part (byteAt f.bytes 16)) (by simpa using h)
  simp [partConfigEffect, hf, hearly]

end Sys2Proof.Machine

open Sys2Proof Sys2Proof.Machine

/-- Settles O35: each partition command in its allowed state, and in the others the one rejection. -/
theorem partitionCommandsMoveThePartition : Obligations.PartitionCommandsMoveThePartition := by
  intro n f p q s hs hp hq
  refine ⟨fun b hf hwf hspan hstate hup hlegal => exec_partConfig hs hp hq hf hwf hspan hstate hup hlegal,
    fun hf hspan hstate => exec_partStart hs hp hq hspan hf hstate,
    fun hf hspan hstate => exec_partStop hs hp hq hspan hf hstate,
    fun hf hspan hstate hnone => exec_partEvict hs hp hq hspan hf hstate hnone,
    fun hf hspan hstate => ⟨exec_partResume hs hp hq hspan hf hstate,
      fun x => exec_partResume_wingTaken hs hp hq hspan hf hstate⟩,
    fun a gs qs hf hspan hstate ha hclean hgs hqs hlegal =>
      exec_mapSet hp hq hf hspan hstate ha hclean hgs hqs hlegal hs,
    fun r hr => ?_⟩
  subst hp hq hr
  refine ⟨fun b hwf hf h => ?_, fun hf h => ?_, fun hf h => ?_, fun hf h => ?_, fun hf h => ?_, fun hf h => ?_,
    fun hf h => ?_⟩
  · exact (whenUpWf_wf _ _ (by simp [Instr.wellFormed, hwf])).trans (whenUp_effect hs (partConfigEffect_illegal b hf h))
  · exact whenUp_effect hs (withPartCmd_illegal _ hf (by simpa using h))
  · exact whenUp_effect hs (withPartCmd_illegal _ hf (by simpa using h))
  · exact whenUp_effect hs (withPartCmd_illegal _ hf (by simpa using h))
  · exact whenUp_effect hs (withPartCmd_illegal _ hf (by simpa using h))
  · exact whenUp_effect hs (withPartCmd_illegal _ hf (by simpa [and_assoc] using h))
  · exact whenUp_effect hs (withPartCmd_illegal _ hf (by simpa using h))
end

section
/-!
The release of a partition and its faults (O36): the work that ends with it (assumption log 71), the scrub of its shares, and
what is left of a partition that becomes Faulted. It builds on the partition commands of O35.
-/
namespace Sys2Proof.Machine

/-! ## Work that ends with its partition (R377, R384) -/

/-- A partition with nothing in progress: no flight, plans or poison, and no job in a layer. -/
def Partition.idle (q : Partition) : Partition :=
  { q with
    flight := none, plans := [], poison := none,
    layers := tmap q.layers (fun _ l => if l.job.isSome then { l with state := .idle, job := none, bodies := [] } else l) }

/-- The state in which nothing of partition p is in progress or pending. -/
def workDropped (p : Nat) (s : State) : State :=
  { s.setPart p (s.part p).idle with
    programs := s.programs.filter (fun g => g.part != p), work := s.work.filter (fun w => w.part != p),
    settings := s.settings.filter (fun x => x.scope != p),
    fab := { s.fab with requests := s.fab.requests.filter (fun r => r.part != p) } }

theorem apartFromReports_workDropped {p : Nat} {s t : State} (h : t.apartFromReports = s.apartFromReports) :
    (workDropped p t).apartFromReports = (workDropped p s).apartFromReports := by
  have hcomm (u : State) : (workDropped p u).apartFromReports = workDropped p u.apartFromReports := rfl
  rw [hcomm, hcomm, h]

/-- The settings from device-domain rings complete, and all work is dropped. -/
theorem apartFromReports_dropWorkOf {p : Nat} {s t : State} (st d : Nat) (h : t.apartFromReports = s.apartFromReports) :
    (dropWorkOf p st d t).apartFromReports = (workDropped p s).apartFromReports := by
  unfold dropWorkOf
  exact apartFromReports_workDropped ((foldl_keeps State.apartFromReports _ (fun _ _ => apartFromReports_finish ..) _ t).trans h)

/-- What a state that, reports apart, has dropped the work of p holds of p. -/
theorem of_workDropped {p : Nat} {s t : State} (h : t.apartFromReports = (workDropped p s).apartFromReports) :
    t.part p = (s.part p).idle ∧ (∀ g ∈ t.programs, g.part ≠ p) ∧ (∀ w ∈ t.work, w.part ≠ p) ∧
      (∀ x ∈ t.settings, x.scope ≠ p) ∧ s.sameStores t := by
  have hprograms : t.programs = s.programs.filter (fun g => g.part != p) := congrArg State.programs h
  have hwork : t.work = s.work.filter (fun w => w.part != p) := congrArg State.work h
  have hsettings : t.settings = s.settings.filter (fun x => x.scope != p) := congrArg State.settings h
  have hstores : s.sameStores (workDropped p s) := s.sameStores_refl
  exact ⟨(part_of_parts (parts_of_reports h) p).trans (State.part_setPart_same s p _), by simp [hprograms], by simp [hwork],
    by simp [hsettings], hstores.trans (sameStores_of_reports h)⟩

/-! ## PART_RELEASE (R384) -/

/-- A partition whose shares are being scrubbed. -/
def Partition.scrubbing (q : Partition) : Partition := { q with scrub := true }

theorem apartFromReports_partReleaseEffect {n p : Nat} {f : Fetched} {s : State} (hf : headOf 0x96 n s = some f)
    (hp : p = byteAt f.bytes 16) (hspan : inSpan (s.part p) = false)
    (hstate : (s.part p).state = .configured ∨ (s.part p).state = .saved ∨ (s.part p).state = .faulted) :
    (partReleaseEffect n s).apartFromReports =
      (workDropped p (s.setPart p (awaiting 0x96 n f.tag (s.part p)).scrubbing)).apartFromReports := by
  subst hp
  refine (congrArg State.apartFromReports
    (withPartCmd_legal _ hf hspan (by simpa [or_assoc] using hstate))).trans ?_
  refine (foldl_keeps State.apartFromReports _ (fun _ _ => ?_) _ _).trans ?_
  · split <;> rfl
  rw [apartFromReports_of_completions (apartFromCompletions_closeRings ..),
    foldl_keeps State.apartFromReports _ (fun s n => apartFromReports_of_completions (apartFromCompletions_endLive 0x3F 7 s n))]
  refine apartFromReports_dropWorkOf 0x3F 7 ?_
  rw [foldl_keeps State.apartFromReports _
    (fun s n => apartFromReports_of_completions (apartFromCompletions_disableRing n none s))]
  exact apartFromReports_modPart Partition.scrubbing rfl

theorem exec_partRelease {n : RingNo} {f : Fetched} {p : Nat} {q : Partition} {s : State} (hs : s.serves = true)
    (hp : p = byteAt f.bytes 16) (hq : q = s.part p) (hf : headOf 0x96 n s = some f) (hspan : inSpan q = false)
    (hstate : q.state = .configured ∨ q.state = .saved ∨ q.state = .faulted) :
    ∃ t, exec (.partRelease n) s = .next t ∧ t.part p = (awaiting 0x96 n f.tag q).scrubbing.idle ∧
      (∀ g ∈ t.programs, g.part ≠ p) ∧ (∀ w ∈ t.work, w.part ≠ p) ∧ (∀ x ∈ t.settings, x.scope ≠ p) ∧ s.sameStores t := by
  subst hq
  obtain ⟨hpart, hrest⟩ := of_workDropped (apartFromReports_partReleaseEffect hf hp hspan hstate)
  rw [State.part_setPart_same] at hpart
  exact ⟨_, whenUp_serves _ hs, hpart, hrest⟩

/-! ## Partition events, and commands that end -/

@[simp] theorem apartFromReports_partEvent (p number severity payload : Nat) (s : State) :
    (partEvent p number severity payload s).apartFromReports = s.apartFromReports := by
  simp [partEvent]

/-- A change of state is the partition in that state, and reports. -/
theorem apartFromReports_moveState_self (p : Nat) (st : PartState) (s : State) :
    (moveState p st s).apartFromReports = (s.setPart p ((s.part p).inState st)).apartFromReports := by
  unfold moveState; dsimp only
  rw [apartFromReports_partEvent]
  rfl

/-- A partition that no longer remembers commands of an opcode. -/
def Partition.withoutCmds (q : Partition) (op : Nat) : Partition := { q with cmds := q.cmds.filter (fun c => c.opcode != op) }

theorem apartFromReports_endCmds {s t : State} {p : Nat} {q : Partition} (op st d v : Nat)
    (h : t.apartFromReports = (s.setPart p q).apartFromReports) :
    (endCmds p op st d v t).apartFromReports = (s.setPart p (q.withoutCmds op)).apartFromReports := by
  unfold endCmds; dsimp only
  rw [foldl_keeps State.apartFromReports _ (fun _ _ => apartFromReports_finish ..)]
  exact apartFromReports_modPart (fun q => q.withoutCmds op) h

/-! ## A partition becomes Faulted (R377, R469) -/

/-- A Faulted partition: it is between no states, and remembers no command that ends in an error. -/
def Partition.broken (q : Partition) : Partition :=
  [0x91, 0x92, 0x94, 0x95, 0x96].foldl Partition.withoutCmds
    { q.inState .faulted with
      saveBusy := false, restoreBusy := false, saveAsked := none, fenceDue := false, startPend := false, scrub := false }

theorem apartFromReports_endAllCmds {s t : State} {p : Nat} {q : Partition} (st d : Nat)
    (h : t.apartFromReports = (s.setPart p q).apartFromReports) :
    (endAllCmds p st d t).apartFromReports =
      (s.setPart p ([0x91, 0x92, 0x94, 0x95, 0x96].foldl Partition.withoutCmds q)).apartFromReports := by
  unfold endAllCmds
  generalize [0x91, 0x92, 0x94, 0x95, 0x96] = ops
  induction ops generalizing t q with
  | nil => exact h
  | cons op ops ih => exact ih (apartFromReports_endCmds op st d 0 h)

theorem apartFromReports_faultPartition (p cause : Nat) (s : State) :
    (faultPartition p cause s).apartFromReports =
      (workDropped p ((setPoison p 2 s).setPart p ((setPoison p 2 s).part p).broken)).apartFromReports := by
  unfold faultPartition; dsimp only
  rw [foldl_keeps State.apartFromReports _ (fun s n => apartFromReports_of_completions (apartFromCompletions_endLive 0x30 2 s n))]
  refine apartFromReports_dropWorkOf 0x30 2 (apartFromReports_endAllCmds 0x30 2 (apartFromReports_modPart _ ?_))
  rw [apartFromReports_partEvent, apartFromReports_moveState_self]

theorem faultPartition_breaks (p cause : Nat) (s : State) :
    (faultPartition p cause s).part p = ((setPoison p 2 s).part p).broken.idle ∧
      (∀ g ∈ (faultPartition p cause s).programs, g.part ≠ p) ∧ (∀ w ∈ (faultPartition p cause s).work, w.part ≠ p) := by
  obtain ⟨hpart, hprograms, hwork, -⟩ := of_workDropped (apartFromReports_faultPartition p cause s)
  exact ⟨hpart.trans (congrArg Partition.idle (State.part_setPart_same ..)), hprograms, hwork⟩

/-! ## SCRUB_DONE (R384) -/

theorem parts_snoopLines (a n : Nat) (s : State) : (snoopLines a n s).parts = s.parts := by
  unfold snoopLines; dsimp only; split <;> simp

theorem parts_zeroShares (q : Partition) (s : State) : (zeroShares q s).parts = s.parts := parts_snoopLines ..

theorem cores_zeroShares (q : Partition) (s : State) : (zeroShares q s).cores = s.cores := snoopLines_cores ..

theorem pads_zeroShares (q : Partition) (s : State) : (zeroShares q s).pads = s.pads :=
  congrArg Held.pads (held_snoopLines (hbmShare q).1 (hbmShare q).2 s)

theorem hbm_zeroShares (q : Partition) (s : State) : (zeroShares q s).hbm = s.hbm.zero (hbmShare q).1 (hbmShare q).2 :=
  congrArg (fun h : Held => h.hbm.zero (hbmShare q).1 (hbmShare q).2) (held_snoopLines (hbmShare q).1 (hbmShare q).2 s)

theorem vault_zeroShares (q : Partition) (s : State) :
    (zeroShares q s).vault = s.vault.zero (q.record.vaultBase * 65536) (q.record.vaultSize * 65536) :=
  congrArg (fun h : Held => h.vault.zero (q.record.vaultBase * 65536) (q.record.vaultSize * 65536))
    (held_snoopLines (hbmShare q).1 (hbmShare q).2 s)

/-- The cores of the wings are as after a reset once they are zeroed. -/
theorem core_zeroWings {q : Partition} {c : Nat} (s : State) (h : ownsCore q c = true) :
    (zeroWings q s).core c = Core.atReset := by
  have hnone := tget?_filter_out s.cores (fun j => !ownsCore q j) (k := c) (by simp [h])
  simp only [State.core, zeroWings, tget, hnone, Option.getD_none]

/-- The shares of partition q zeroed, and its wings where it holds them. -/
def scrubbed (q : Partition) (s : State) : State := zeroShares q (if q.wingsHeld then zeroWings q s else s)

theorem apartFromReports_scrubDoneEffect {p : Nat} {s : State} (hscrub : (s.part p).scrub = true)
    (hrings : shareRings (s.part p) s = []) :
    (scrubDoneEffect p true s).apartFromReports =
      ((scrubbed (s.part p) s).setPart p Partition.atReset).apartFromReports := by
  unfold scrubDoneEffect
  simp only [hscrub, hrings, List.isEmpty_nil, Bool.true_eq_false, or_self, if_false]
  refine apartFromReports_modPart (fun _ => Partition.atReset) (apartFromReports_endCmds 0x96 0 0 _ ?_)
    (q := Partition.withoutCmds (((scrubbed (s.part p) s).part p).inState .free) 0x96)
  rw [apartFromReports_partEvent, apartFromReports_moveState_self]
  rfl

/-- The end of a scrub leaves the partition Free, and the rest as `scrubbed` has it, reports apart. -/
theorem exec_scrubDone {p : PartNo} {q : Partition} {s : State} (hs : s.serves = true) (hq : q = s.part p)
    (hscrub : q.scrub = true) (hrings : shareRings q s = []) :
    ∃ t, exec (.scrubDone p true) s = .next t ∧ t.part p = Partition.atReset ∧ (scrubbed q s).onlyPart p t := by
  subst hq
  exact ⟨_, whenUp_serves _ hs, onlyPart_of_setPart (apartFromReports_scrubDoneEffect hscrub hrings)⟩

/-! ### What is zeroed with the shares -/

section
variable (q : Partition) (s : State)

theorem parts_scrubbed : (scrubbed q s).parts = s.parts := by
  rw [scrubbed, parts_zeroShares]; split <;> rfl

theorem hbm_scrubbed : (scrubbed q s).hbm = s.hbm.zero (hbmShare q).1 (hbmShare q).2 := by
  rw [scrubbed, hbm_zeroShares]; split <;> rfl

theorem vault_scrubbed : (scrubbed q s).vault = s.vault.zero (q.record.vaultBase * 65536) (q.record.vaultSize * 65536) := by
  rw [scrubbed, vault_zeroShares]; split <;> rfl

variable {q}

theorem core_scrubbed {c : Nat} (hwings : q.wingsHeld = true) (hc : ownsCore q c = true) :
    (scrubbed q s).core c = Core.atReset := by
  rw [State.core, scrubbed, cores_zeroShares, if_pos hwings]
  exact core_zeroWings s hc

/-! A partition that holds no wings has nothing on them to zero. -/

theorem cores_scrubbed_wingless (hwings : q.wingsHeld = false) : (scrubbed q s).cores = s.cores := by
  simp [scrubbed, hwings, cores_zeroShares]

theorem pads_scrubbed_wingless (hwings : q.wingsHeld = false) : (scrubbed q s).pads = s.pads := by
  simp [scrubbed, hwings, pads_zeroShares]

theorem tally_scrubbed {k : Nat} (hk : inShare q.record.tallyFirst q.record.tallyCount k = true) :
    (scrubbed q s).tally k = Tally.atReset := tally_clearTallies q.record _ hk

end

/-! ## Errors in a scrub, a save, a restore or a reload (R377, R469) -/

/-- An error at the end of a scrub, a save or a restore makes the partition Faulted, each for its cause of Table 13-11. -/
theorem exec_spanFails {p : PartNo} {s : State} {c : Instr} (hs : s.serves = true)
    (h : (c = .scrubDone p false ∧ (s.part p).scrub = true ∧ shareRings (s.part p) s = []) ∨
      (c = .partSaved p false ∧ (s.part p).saveBusy = true) ∨ (c = .restoreEnd p false ∧ (s.part p).restoreBusy = true)) :
    ∃ cause, exec c s = .next (faultPartition p cause s) := by
  rcases h with ⟨rfl, hscrub, hrings⟩ | ⟨rfl, hbusy⟩ | ⟨rfl, hbusy⟩
  · exact ⟨3, whenUp_effect hs (by simp [scrubDoneEffect, hscrub, hrings])⟩
  · exact ⟨1, whenUp_effect hs (by simp [partSavedEffect, hbusy])⟩
  · exact ⟨2, whenUp_effect hs (by simp [restoreEndEffect, hbusy])⟩

theorem exec_checkpointReloadEnd_done {c : CoreNo} {s : State} (hs : s.serves = true) (hc : (s.core c).reloading = true) :
    exec (.checkpointReloadEnd c true) s = .next (s.setCore c { s.core c with reloading := false }) := by
  refine whenUp_effect hs ?_
  simp only [reloadEndEffect, hc, Bool.true_eq_false, if_false, if_true]
  rfl

/-- A reload that fails breaks the partition that holds the core. -/
theorem exec_checkpointReloadEnd_fails {c : CoreNo} {p : Nat} {s : State} (hs : s.serves = true)
    (hc : (s.core c).reloading = true) (hp : coreHolder c s = some p) :
    ∃ u, exec (.checkpointReloadEnd c false) s = .next (faultPartition p 5 u) := by
  have heffect : ∃ u, reloadEndEffect c false s = faultPartition p 5 u := by
    simp only [reloadEndEffect, hc, hp, Bool.true_eq_false, Bool.false_eq_true, if_false]
    exact ⟨_, rfl⟩
  obtain ⟨u, hu⟩ := heffect
  exact ⟨u, whenUp_effect hs hu⟩

end Sys2Proof.Machine

open Sys2Proof Sys2Proof.Machine

/-- Settles O36: the release drops what `workDropped` drops, the scrub's end zeroes what `scrubbed` zeroes, and each error ends in
`faultPartition`. -/
theorem releaseScrubsThePartition : Obligations.ReleaseScrubsThePartition := by
  refine ⟨fun n f p q s hs hp hq hf hspan hstate => ?_, fun p q s hs hq hscrub hrings => ?_, fun p s c hs hfail => ?_,
    fun c s hs hc => ⟨exec_checkpointReloadEnd_done hs hc, fun p hp => ?_⟩⟩
  · obtain ⟨t, hnext, hpart, hrest⟩ := exec_partRelease hs hp hq hf hspan hstate
    refine ⟨t, hnext, ?_⟩
    rw [hpart]
    exact ⟨rfl, rfl, rfl, rfl, hrest⟩
  · obtain ⟨t, hnext, hpart, hrest, hothers⟩ := exec_scrubDone hs hq hscrub hrings
    exact ⟨t, hnext, hpart, (congrArg State.hbm hrest).trans (hbm_scrubbed q s),
      (congrArg State.vault hrest).trans (vault_scrubbed q s),
      fun hwings c hc => (congrArg (fun u : State => u.core c) hrest).trans (core_scrubbed s hwings hc),
      fun hwings => ⟨(congrArg State.cores hrest).trans (cores_scrubbed_wingless s hwings),
        (congrArg State.pads hrest).trans (pads_scrubbed_wingless s hwings)⟩,
      fun k hk => (congrArg (fun u : State => u.tally k) hrest).trans (tally_scrubbed s hk),
      fun o ho => (hothers o ho).trans (part_of_parts (parts_scrubbed q s) o)⟩
  · obtain ⟨cause, hnext⟩ := exec_spanFails hs hfail
    obtain ⟨hpart, hprograms, hwork⟩ := faultPartition_breaks p cause s
    refine ⟨_, hnext, ?_⟩
    rw [hpart]
    exact ⟨rfl, rfl, rfl, rfl, rfl, hprograms, hwork⟩
  · obtain ⟨u, hnext⟩ := exec_checkpointReloadEnd_fails hs hc hp
    exact ⟨_, hnext, congrArg Partition.state (faultPartition_breaks p 5 u).1⟩
end
